-- ==== Sys2Proof/Word.lean ====
section
/-! DEFINITION. Word.lean: the widths of what crosses the bridge's ports, and the names of places in memory (R1, R12, R75). -/

namespace Sys2Proof

/-- A byte of the management port. -/
abbrev Byte := BitVec 8

/-- The 32 data positions of a word (R1). -/
abbrev Word := BitVec 32

/-- The 40 positions of a stored word: data 0..31, then the check field 32..39 (R75, R170). -/
abbrev StoredWord := BitVec 40

/-- The tag of an access and of its response (R107). -/
abbrev Tag := BitVec 4

/-- A 7-bit I2C address (R155). -/
abbrev BusAddress := BitVec 7

/-- A location: a visible block or a spare, by its number (R12). -/
inductive Location where
  | visible (block : Nat)
  | spare (index : Nat)
  deriving DecidableEq, Repr, Inhabited

end Sys2Proof
end

