-- ==== Sys2Proof/Config.lean ====
section
/-! DEFINITION. Config.lean: the free values, what the manual leaves open. None has a body, so no proof can lean on one. -/

namespace Sys2Proof

/-- A stored word that an OK response to a READ_RUN should have carried and did not: R111 takes the response whatever it
carries, and no rule says what a missing word is. Applied to a counter of the state (log entry 4). -/
opaque Config.unsentWord : Nat → StoredWord

/-- The location a link record names when the downstream block of the failed access belongs to no location in the geometry
in force: R112 gives none (log entry 6). -/
opaque Config.locationOfNoBlock : Nat → Location

/-- Whether the entry in the first slot counts as older than the one in the second when both hold the same stamp, which
R59 allows only after the stamp counter has wrapped and does not order (log entry 7). -/
opaque Config.stampTie : Nat → Nat → Bool

end Sys2Proof
end

