-- ==== Sys2Proof/Syntax.lean ====
section
/-! DEFINITION. Syntax.lean: the commands and events of the bridge, one constructor per row of spec/opcode_table.json. -/

namespace Sys2Proof

/-- One item of a WRITE's word list: 4 data bytes and 4 byte enables, bit k for byte k (R1, R90). -/
structure WriteWord where
  data : Word
  enables : BitVec 4
  deriving DecidableEq, Repr

/-- A transaction as it is presented upstream, its first word address and the length it states (R90). Any length and any
list may be presented; R9 checks them later. -/
inductive Transaction where
  | read (address length : Nat)
  | write (address length : Nat) (words : List WriteWord)
  deriving DecidableEq, Repr

/-- The result a response of the memory controller carries (R107). -/
inductive MemResult where
  | ok
  | fault
  deriving DecidableEq, Repr

/-- The commands and events. The commands of a write frame carry the address the frame names and its argument bytes as
sent (R155, R156); the rows of single configuration items carry the 4-byte value of their WRITE_CONFIG frame (R161). -/
inductive Instr where
  /-- POWER_ON: the strap pins MADDR1..0 as they stand (R154, R155). -/
  | powerOn (straps : BitVec 2)
  /-- SYSTEM_RESET (R153). -/
  | systemReset
  /-- TRANSACTION_ACCEPTED: a transaction is presented (R91). -/
  | transactionAccepted (transaction : Transaction)
  /-- ANSWER_TAKEN (R92). -/
  | answerTaken
  /-- ARBITER_GRANT (R108, R117). -/
  | arbiterGrant
  /-- MEMORY_RESPONSE: tag, result and words; `grantFirst` says that the next grant, which comes together with this end of
  an access, is taken before the requester takes the ending (R19, R47, R116). -/
  | memoryResponse (tag : Tag) (result : MemResult) (words : List StoredWord) (grantFirst : Bool)
  /-- RESPONSE_TIMER_EXPIRY; `grantFirst` as for MEMORY_RESPONSE (R110). -/
  | responseTimerExpiry (grantFirst : Bool)
  /-- SCRUB_INTERVAL_EXPIRY (R125). -/
  | scrubIntervalExpiry
  /-- MIGRATION_START: a try of the engine (R38 to R41). -/
  | migrationStart
  /-- READ_FRAME: the address named and the number of bytes the board controller reads (R157). -/
  | readFrame (address : BusAddress) (count : Nat)
  /-- UNKNOWN_COMMAND: a write frame, all its bytes; none, or a first byte that is no command code (R156). -/
  | unknownCommand (address : BusAddress) (frame : List Byte)
  | readStatus (address : BusAddress) (args : List Byte)
  | readConfig (address : BusAddress) (args : List Byte)
  /-- WRITE_CONFIG of an item that has no row of its own, of an unknown item, or of a wrong length (R161). -/
  | writeConfig (address : BusAddress) (args : List Byte)
  | downstreamBlocks (address : BusAddress) (value : Word)
  | visibleBlocks (address : BusAddress) (value : Word)
  | spareCount (address : BusAddress) (value : Word)
  | autoSpare (address : BusAddress) (value : Word)
  | scrubEnable (address : BusAddress) (value : Word)
  | scrubInterval (address : BusAddress) (value : Word)
  | linkTimeout (address : BusAddress) (value : Word)
  | alertEnables (address : BusAddress) (value : Word)
  | alertDepth (address : BusAddress) (value : Word)
  | spareLowMark (address : BusAddress) (value : Word)
  | goOnline (address : BusAddress) (args : List Byte)
  | goOffline (address : BusAddress) (args : List Byte)
  | resetPart (address : BusAddress) (args : List Byte)
  | clearLink (address : BusAddress) (args : List Byte)
  | readRemap (address : BusAddress) (args : List Byte)
  | restoreRemap (address : BusAddress) (args : List Byte)
  | dropRemap (address : BusAddress) (args : List Byte)
  | releaseSpare (address : BusAddress) (args : List Byte)
  | requestSpare (address : BusAddress) (args : List Byte)
  | cancelRequest (address : BusAddress) (args : List Byte)
  | readQueue (address : BusAddress) (args : List Byte)
  | readWatch (address : BusAddress) (args : List Byte)
  | clearWatch (address : BusAddress) (args : List Byte)
  | peekRecord (address : BusAddress) (args : List Byte)
  | popRecord (address : BusAddress) (args : List Byte)
  | ackAlert (address : BusAddress) (args : List Byte)
  | inject (address : BusAddress) (args : List Byte)
  deriving DecidableEq, Repr

end Sys2Proof
end

