-- ==== Sys2Proof/Machine/State.lean ====
section
/-! DEFINITION. Machine/State.lean: the state of the bridge, block by block as 00_scope names the eleven blocks, with the
value each piece has after power-on; and the (empty) faults and refusals. -/

namespace Sys2Proof.Machine

/-! ## Mode control (R146, R160) -/

/-- The three operating modes (R146). -/
inductive Mode where
  | offline
  | online
  | stopping
  deriving DecidableEq, Repr

/-- A set of the five alert flags (R139). -/
structure FlagSet where
  records : Bool
  dropped : Bool
  sparesLow : Bool
  blocked : Bool
  linkDown : Bool
  deriving DecidableEq, Repr

/-- The configuration items (R160). -/
structure Settings where
  /-- DOWNSTREAM_BLOCKS, D (R3). -/
  downstream : Nat
  /-- VISIBLE_BLOCKS, V (R3). -/
  visible : Nat
  /-- SPARE_COUNT, S (R3). -/
  spares : Nat
  correctedLimit : Nat
  wordLimit : Nat
  autoSpare : Bool
  repairOnRead : Bool
  scrubEnable : Bool
  scrubInterval : Nat
  linkTimeout : Nat
  recordCorrected : Bool
  alertEnables : FlagSet
  alertDepth : Nat
  spareLowMark : Nat
  deriving DecidableEq, Repr

/-- The defaults of R160, which power-on and RESET_PART give (R154). -/
def Settings.initial : Settings where
  downstream := 0
  visible := 0
  spares := 0
  correctedLimit := 16
  wordLimit := 3
  autoSpare := false
  repairOnRead := true
  scrubEnable := false
  scrubInterval := 250
  linkTimeout := 100
  recordCorrected := false
  alertEnables := { records := false, dropped := false, sparesLow := false, blocked := false, linkDown := false }
  alertDepth := 1
  spareLowMark := 2

/-! ## The remap table (R13) -/

/-- Who asked for the repair an entry stands for (R13). -/
inductive Origin where
  | auto
  | manual
  | restored
  deriving DecidableEq, Repr

/-- Why an entry is RETIRED (R13). -/
inductive RetireReason where
  | replaced
  | writeFailed
  | restored
  deriving DecidableEq, Repr

/-- The `from` field of a COPYING entry: SOURCE, or the index of a LEAVING entry (R13). -/
inductive CopyFrom where
  | source
  | leaving (index : Nat)
  deriving DecidableEq, Repr

/-- A remap entry: its state with the fields present in that state (R13). -/
inductive RemapEntry where
  | unused
  | free
  | copying (source : Nat) (copyFrom : CopyFrom) (cursor : Nat) (origin : Origin)
  | active (source : Nat) (origin : Origin)
  | leaving (source : Nat) (origin : Origin)
  | retired (reason : RetireReason)
  deriving DecidableEq, Repr

/-- The 64 entries; entry i governs spare i (R13). -/
abbrev RemapTable := Vector RemapEntry 64

/-! ## Migration (R32, R37) -/

/-- Who made a request (R32). -/
inductive RequestOrigin where
  | auto
  | manual
  deriving DecidableEq, Repr

/-- An entry of the migration queue (R32). -/
structure Request where
  location : Location
  origin : RequestOrigin
  retried : Bool
  started : Bool
  deriving DecidableEq, Repr

/-- The line phase, with the line buffer that only WRITING has (R37). -/
inductive LinePhase where
  | reading
  | writing (buffer : List StoredWord)
  deriving DecidableEq, Repr

/-- The engine's working state of the line under copy (R37). -/
structure CopyWork where
  /-- The COPYING entry. -/
  target : Nat
  phase : LinePhase
  /-- Which attempt at the copy read this is, 1..3. -/
  attempt : Nat
  /-- Between the grant of the copy read and the completion of the copy write (R42, R47). -/
  inFlight : Bool
  overtaken : Bool
  /-- How often the current line has been overtaken, 0..4. -/
  overtakes : Nat
  /-- Whether this attempt at the line is held (R48). -/
  held : Bool
  /-- Whether the hold has begun, at the grant of the held attempt's copy read (R42, R48). -/
  holding : Bool
  deriving DecidableEq, Repr

/-- The engine state, with the working items that only COPYING has (R37). -/
inductive Engine where
  | idle
  | blocked
  | copying (work : CopyWork)
  deriving DecidableEq, Repr

/-- The migration queue, oldest first, and the engine. -/
structure Migration where
  queue : List Request
  engine : Engine
  deriving DecidableEq, Repr

/-! ## The watch table (R58) -/

/-- Where a watch entry stands in the sparing policy (R58). -/
inductive WatchState where
  | tracking
  | waiting
  | queued
  deriving DecidableEq, Repr

/-- A watch entry (R58). -/
structure WatchEntry where
  location : Location
  corrected : Nat
  /-- The word list, in first-seen order. -/
  offsets : List Nat
  uncorrectable : Bool
  state : WatchState
  stamp : BitVec 32
  deriving DecidableEq, Repr

/-- The 32 slots, the stamp counter (R59) and the untracked count (R63). -/
structure WatchTable where
  slots : Vector (Option WatchEntry) 32
  nextStamp : BitVec 32
  untracked : Nat
  deriving DecidableEq, Repr

/-! ## The check unit (R86) -/

/-- The kinds of injection, with their data positions (R86). -/
inductive InjectKind where
  | one (position : Nat)
  | two (first second : Nat)
  | poison
  deriving DecidableEq, Repr

/-- The armed injection record (R86). -/
structure Injection where
  address : Nat
  kind : InjectKind
  deriving DecidableEq, Repr

/-! ## The upstream port (R90 to R102) -/

/-- The admission mark (R93). -/
inductive Mark where
  | serve
  | refuse
  deriving DecidableEq, Repr

/-- A held transaction (R91, R93). -/
structure Held where
  transaction : Transaction
  mark : Mark
  deriving DecidableEq, Repr

/-- The overall status of an answer. -/
inductive AnswerStatus where
  | okay
  | dataError
  | badRequest
  | outOfRange
  | notReady
  | linkFailed
  deriving DecidableEq, Repr

/-- The word status of a READ answer (R96). -/
inductive ReadStatus where
  | good
  | corrected
  | bad
  | poison
  deriving DecidableEq, Repr

/-- A word of a READ answer (R90). -/
structure ReadWord where
  data : Word
  status : ReadStatus
  deriving DecidableEq, Repr

/-- The word status of a WRITE answer (R90). -/
inductive WriteStatus where
  | good
  | bad
  deriving DecidableEq, Repr

/-- An answer (R90). -/
inductive Answer where
  | read (status : AnswerStatus) (words : List ReadWord)
  | write (status : AnswerStatus) (statuses : List WriteStatus)
  deriving DecidableEq, Repr

/-- A store run: its first word's index in the line, and the stored forms of its words (R84). -/
structure StoreRun where
  first : Nat
  forms : List StoredWord
  deriving DecidableEq, Repr

/-- What has become, since a dual store's first grant, of the migration it belonged to (R23). -/
inductive MigrationFate where
  | inFlight
  | completed
  | aborted
  deriving DecidableEq, Repr

/-- A pending dual spare write: the target's downstream block and the stored forms, both as they were at the first grant
(R22, R87). -/
structure DualWrite where
  block : Nat
  forms : List StoredWord
  fate : MigrationFate
  deriving DecidableEq, Repr

/-- The work of the STORE phase: the present run and those after it, the planned word statuses, and the pending dual spare
write of the present run (R22, R99, R102). -/
structure StoreWork where
  runs : List StoreRun
  statuses : List WriteStatus
  dual : Option DualWrite
  deriving DecidableEq, Repr

/-- The phase of the transaction in progress, with what the port holds in it (R92). -/
inductive Progress where
  | idle
  | fetch
  | mergeRead
  | store (work : StoreWork)
  | answer (given : Answer)
  deriving DecidableEq, Repr

/-- The acceptance queue, oldest first, and the phase of the oldest (R91, R92). -/
structure Upstream where
  held : List Held
  progress : Progress
  deriving DecidableEq, Repr

/-! ## The memory-side port and its arbiter (R107 to R117) -/

/-- The four requesters (R116). -/
inductive Requester where
  | upstream
  | writeBack
  | migration
  | scrub
  deriving DecidableEq, Repr

/-- What an access is made for (the table of R107). -/
inductive Purpose where
  | fetch
  | mergeRead
  | storeSingle
  | storeFirst
  | storeSpare
  | copyRead
  | copyWrite
  | scrubRead
  | writeBack
  deriving DecidableEq, Repr

/-- The outstanding access (R107, R108). `words` is empty for a READ_RUN. -/
structure Access where
  purpose : Purpose
  block : Nat
  line : Nat
  first : Nat
  count : Nat
  words : List StoredWord
  tag : Tag
  /-- The response timer: microseconds since the issue (R110). -/
  elapsed : Nat
  /-- Whether its requester discards its result (R108). -/
  discarded : Bool
  deriving DecidableEq, Repr

/-- The link state (R113). -/
inductive Link where
  | up
  | down
  deriving DecidableEq, Repr

/-- The memory-side port and the arbiter's pass-over counts (R117). -/
structure MemoryPort where
  outstanding : Option Access
  lastTag : Tag
  /-- The abandoned set, in the order its tags joined (R113). -/
  abandoned : List Tag
  link : Link
  migrationPassed : Nat
  scrubPassed : Nat
  deriving DecidableEq, Repr

/-- An entry of the write-back buffer (R118). -/
structure WriteBack where
  block : Nat
  line : Nat
  word : Nat
  data : Word
  deriving DecidableEq, Repr

/-- The write-back buffer, oldest first, and its dropped count (R118). -/
structure WriteBackBuffer where
  entries : List WriteBack
  dropped : Nat
  deriving DecidableEq, Repr

/-! ## The scrubber (R123) -/

/-- Whether a scrub waits for its grant or is outstanding (R123). -/
inductive ScrubState where
  | idle
  | due
  | pending
  deriving DecidableEq, Repr

/-- The scrubber. `timer` is none while stopped, else the microseconds since it last started (R123). -/
structure Scrubber where
  block : Nat
  line : Nat
  passCount : BitVec 16
  timer : Option Nat
  state : ScrubState
  deriving DecidableEq, Repr

/-! ## Records and alerts (R133 to R139) -/

/-- The record kinds (R134, R177). -/
inductive RecordKind where
  | corrected
  | uncorrectable
  | poisonRead
  | watchCandidate
  | trackingFull
  | migrationStarted
  | migrationDone
  | migrationAborted
  | migrationDropped
  | requestStale
  | sparesExhausted
  | linkTimeout
  | linkFault
  | linkDown
  | injectApplied
  deriving DecidableEq, Repr

/-- The record sources (R134, R177). -/
inductive RecordSource where
  | upstreamFetch
  | mergeRead
  | scrub
  | copy
  | writeBack
  | engine
  | link
  | management
  deriving DecidableEq, Repr

/-- The record details (R134, R177). -/
inductive RecordDetail where
  | cancelled
  | stopped
  | reset
  | targetFailed
  | readFailed
  | unexpectedTag
  deriving DecidableEq, Repr

/-- What a block puts into a record it makes; a field its kind does not carry is absent (R134). -/
structure RecordBody where
  kind : RecordKind
  source : RecordSource
  location : Option Location := none
  offset : Option Nat := none
  spare : Option Nat := none
  detail : Option RecordDetail := none
  deriving DecidableEq, Repr

/-- A record of the queue: its sequence number and what it tells (R134, R135). -/
structure Record where
  sequence : BitVec 16
  body : RecordBody
  deriving DecidableEq, Repr

/-- The record queue, oldest first, and the alert unit's one stored flag; the level flags follow their conditions
(R133, R135, R136, R139). -/
structure RecordUnit where
  queue : List Record
  nextSequence : BitVec 16
  dropped : Nat
  droppedFlag : Bool
  deriving DecidableEq, Repr

/-! ## The management port (R155 to R158) -/

/-- The status codes (R158). -/
inductive Status where
  | ok
  | noCommand
  | unknownCommand
  | badLength
  | badArgument
  | wrongMode
  | busy
  | notFound
  | full
  | duplicate
  | conflict
  | empty
  | alreadySpared
  deriving DecidableEq, Repr

/-- The response buffer; its length byte is the payload's length (R157). -/
structure Response where
  status : Status
  payload : List Byte
  deriving DecidableEq, Repr

/-- The management port. `acknowledged` and `returned` are the model's own: what the port last did on the I2C line, whether
it acknowledged the frame and the bytes a read frame got (R155, R157; log entry 3). -/
structure ManagementPort where
  /-- MADDR1..0 as read at power-on (R155). -/
  straps : BitVec 2
  response : Response
  acknowledged : Bool
  returned : List Byte
  deriving DecidableEq, Repr

/-! ## The whole -/

/-- The state of the bridge: the eleven blocks of 00_scope (mode control in two fields), the model's counter of free values,
and the queue of waiting commands. -/
structure State where
  mode : Mode
  settings : Settings
  remap : RemapTable
  migration : Migration
  watch : WatchTable
  injection : Option Injection
  upstream : Upstream
  port : MemoryPort
  writeBack : WriteBackBuffer
  scrubber : Scrubber
  records : RecordUnit
  management : ManagementPort
  freeIndex : Nat
  pending : List Instr
  deriving DecidableEq, Repr

/-- The starting state of R154 for a strap value. -/
def State.poweredOn (straps : BitVec 2) : State where
  mode := .offline
  settings := Settings.initial
  remap := Vector.replicate 64 .unused
  migration := { queue := [], engine := .idle }
  watch := { slots := Vector.replicate 32 none, nextStamp := 0, untracked := 0 }
  injection := none
  upstream := { held := [], progress := .idle }
  port :=
    { outstanding := none, lastTag := 15, abandoned := [], link := .up, migrationPassed := 0, scrubPassed := 0 }
  writeBack := { entries := [], dropped := 0 }
  scrubber := { block := 0, line := 0, passCount := 0, timer := none, state := .idle }
  records := { queue := [], nextSequence := 0, dropped := 0, droppedFlag := false }
  management :=
    { straps := straps, response := { status := .noCommand, payload := [] }, acknowledged := false, returned := [] }
  freeIndex := 0
  pending := []

/-- The bridge right after power-on (R154). The straps' value is the board's: 0 here (log entry 2). -/
def State.reset : State := State.poweredOn 0

/-- The reasons a step can stop with a fault: none. The spec gives the bridge no fault; a command turned away answers a
status code and a failed access ends LINK_FAILED. Nothing raises one, and having none is safe. -/
inductive Fault where
  deriving DecidableEq, Repr

/-- The reasons a step can be refused. -/
inductive Refusal where
  /-- Raised by `exec` for a command whose meaning is not modelled yet; no arm raises it now. Safe: it stops the run. -/
  | notModelled (mnemonic : String)
  deriving DecidableEq, Repr

end Sys2Proof.Machine
end

