-- ==== Sys2Proof/Machine/CheckCode.lean ====
section
/-! DEFINITION. Machine/CheckCode.lean: the check unit's arithmetic: the check field, the clean and poison forms, the
classification of a fetched word, the merging of partial words, and what an injection does to a stored form (R75 to R88). -/

namespace Sys2Proof.Machine

/-- The signatures of data positions 0..31 (the table of R76). -/
def signatures : List (BitVec 7) :=
  [7, 11, 13, 14, 19, 21, 22, 25, 26, 28, 31, 35, 37, 38, 41, 42,
   44, 47, 49, 50, 52, 55, 56, 59, 61, 62, 67, 69, 70, 73, 74, 76]

/-- The signature of data position `j` (R76). -/
def signature (j : Nat) : BitVec 7 := signatures.getD j 0

/-- How many of a pattern's positions hold a one. -/
def ones {n : Nat} (w : BitVec n) : Nat := (List.range n).countP fun i => w.getLsbD i

/-- Whether a pattern holds an odd number of ones. -/
def odd {n : Nat} (w : BitVec n) : Bool := ones w % 2 == 1

/-- Check positions 0..6 of code(d): the signatures of the ones of `d`, combined (R77). -/
def codeSeven (d : Word) : BitVec 7 :=
  (List.range 32).foldl (fun acc j => if d.getLsbD j then acc ^^^ signature j else acc) 0

/-- code(d): check positions 0..6, and position 7, the parity of the other 39 (R77). -/
def checkField (d : Word) : BitVec 8 :=
  BitVec.ofBool (odd d != odd (codeSeven d)) ++ codeSeven d

/-- The clean form of `d` (R77). -/
def cleanForm (d : Word) : StoredWord := checkField d ++ d

/-- The poison form of `d`: its check field is code(d) with all 8 positions inverted (R78). -/
def poisonForm (d : Word) : StoredWord := ~~~ checkField d ++ d

/-- The data positions of a stored word (R170). -/
def storedData (w : StoredWord) : Word := w.extractLsb' 0 32

/-- Check positions 0..6 of a stored word (R170). -/
def storedSeven (w : StoredWord) : BitVec 7 := w.extractLsb' 32 7

/-- A pattern with one position inverted. -/
def flipAt {n : Nat} (w : BitVec n) (position : Nat) : BitVec n := w ^^^ (1#n <<< position)

/-- The outcome the check unit gives a fetched word (R79). -/
inductive WordOutcome where
  | clean
  | corrected
  | poisoned
  | uncorrectable
  deriving DecidableEq, Repr

/-- The syndrome: where the fetched check positions 0..6 differ from code(fetched data) (R80). -/
def syndrome (w : StoredWord) : BitVec 7 := storedSeven w ^^^ codeSeven (storedData w)

/-- The outcome of a fetched word and the data to use, from its syndrome and parity (the table of R80). -/
def classify (w : StoredWord) : WordOutcome × Word :=
  let d := storedData w
  let s := syndrome w
  if odd w then
    match signatures.idxOf? s with
    | some j => (.corrected, flipAt d j)
    | none =>
      if s = 0 ∨ ones s = 1 then (.corrected, d)
      else if s = 127 ∨ ones s = 6 ∨ (127 ^^^ s) ∈ signatures then (.poisoned, d)
      else (.uncorrectable, d)
  else if s = 0 then (.clean, d)
  else if s = 127 then (.poisoned, d)
  else (.uncorrectable, d)

/-- The stored form a copy puts into the line buffer for a word it read (R43). -/
def copyForm (w : StoredWord) : StoredWord :=
  match classify w with
  | (.clean, d) => cleanForm d
  | (.corrected, d) => cleanForm d
  | (.poisoned, d) => poisonForm d
  | (.uncorrectable, d) => poisonForm d

/-! ## What a store writes -/

/-- A word with 1, 2 or 3 bytes enabled (R1). -/
def isPartial (w : WriteWord) : Bool := w.enables != 0 && w.enables != 15

/-- The positions of the enabled bytes; byte k is positions 8×k to 8×k+7 (R1). -/
def enableMask (enables : BitVec 4) : Word :=
  let byte (k : Nat) : Byte := if enables.getLsbD k then 0xFF#8 else 0x00#8
  byte 3 ++ byte 2 ++ byte 1 ++ byte 0

/-- The merged data: the written data in the enabled bytes, the stored word's in the others (R82). -/
def mergeData (enables : BitVec 4) (written stored : Word) : Word :=
  (written &&& enableMask enables) ||| (stored &&& ~~~ enableMask enables)

/-- The stored form and planned word status of one word of a WRITE, given what the merge read fetched for it (R82). A word
with no bytes enabled is not stored. -/
def planWord (w : WriteWord) (fetched : StoredWord) : Option StoredWord × WriteStatus :=
  if w.enables = 0 then (none, .good)
  else if w.enables = 15 then (some (cleanForm w.data), .good)
  else
    match classify fetched with
    | (.clean, d) => (some (cleanForm (mergeData w.enables w.data d)), .good)
    | (.corrected, d) => (some (cleanForm (mergeData w.enables w.data d)), .good)
    | (.poisoned, d) => (some (poisonForm (mergeData w.enables w.data d)), .bad)
    | (.uncorrectable, d) => (some (poisonForm (mergeData w.enables w.data d)), .bad)

/-- The plan of a WRITE's words; `fetched` are the words the merge read brought, the first of them for the word with index
`start` of the transaction (R82, R83). -/
def planWords (start : Nat) (fetched : List StoredWord) (words : List WriteWord) :
    List (Option StoredWord × WriteStatus) :=
  words.zipIdx.map fun (w, k) => planWord w (fetched.getD (k - start) 0)

/-- The store runs: the longest runs of consecutive stored words, in address order, the first word standing at index
`first` of the line (R84). -/
def storeRuns : Nat → List (Option StoredWord) → List StoreRun
  | _, [] => []
  | first, none :: rest => storeRuns (first + 1) rest
  | first, some form :: rest =>
    match rest, storeRuns (first + 1) rest with
    | some _ :: _, run :: more => { first := first, forms := form :: run.forms } :: more
    | _, runs => { first := first, forms := [form] } :: runs

/-- The stored form an injection makes of the form R82 set (the table of R87). -/
def injectForm (kind : InjectKind) (form : StoredWord) : StoredWord :=
  match kind with
  | .one position => flipAt form position
  | .two first second => flipAt (flipAt form first) second
  | .poison => poisonForm (storedData form)

end Sys2Proof.Machine
end

