-- ==== Sys2Proof/Decode.lean ====
section
/-! DEFINITION. Decode.lean: reading a command from the bytes of a write frame, and writing it back (R156, R161, R171);
and the host's `decodeTableWord`, which answers none because no row of the table gives bits. -/

namespace Sys2Proof

/-- A multi-byte number, least significant byte first (R156). -/
def leValue : List Byte → Nat
  | [] => 0
  | b :: rest => b.toNat + 256 * leValue rest

/-- The lowest `k` bytes of `n`, least significant first (R156). -/
def leBytes : Nat → Nat → List Byte
  | 0, _ => []
  | k + 1, n => BitVec.ofNat 8 n :: leBytes k (n / 256)

/-- The 4-byte value of a WRITE_CONFIG frame (R161). -/
def wordOfBytes (b0 b1 b2 b3 : Byte) : Word := b3 ++ b2 ++ b1 ++ b0

/-- The configuration items that have a row of their own, by item code (R160). -/
def itemRow (address : BusAddress) (item : Byte) (value : Word) : Option Instr :=
  match item with
  | 0x01#8 => some (.visibleBlocks address value)
  | 0x02#8 => some (.downstreamBlocks address value)
  | 0x03#8 => some (.spareCount address value)
  | 0x06#8 => some (.autoSpare address value)
  | 0x08#8 => some (.scrubEnable address value)
  | 0x09#8 => some (.scrubInterval address value)
  | 0x0A#8 => some (.linkTimeout address value)
  | 0x0C#8 => some (.alertEnables address value)
  | 0x0D#8 => some (.alertDepth address value)
  | 0x0E#8 => some (.spareLowMark address value)
  | _ => none

/-- The row of a WRITE_CONFIG frame: the item's own where it has one, else WRITE_CONFIG (R161). -/
def decodeWriteConfig (address : BusAddress) (args : List Byte) : Instr :=
  match args with
  | [item, b0, b1, b2, b3] =>
    (itemRow address item (wordOfBytes b0 b1 b2 b3)).getD (.writeConfig address args)
  | _ => .writeConfig address args

/-- The command a write frame carries, by its first byte, the command code (R156, R159 to R168). A frame with no byte, or
whose first byte is no code, is UNKNOWN_COMMAND's. -/
def decodeFrame (address : BusAddress) (frame : List Byte) : Instr :=
  match frame with
  | [] => .unknownCommand address []
  | code :: args =>
    match code with
    | 0x01#8 => .readStatus address args
    | 0x02#8 => .readConfig address args
    | 0x03#8 => decodeWriteConfig address args
    | 0x10#8 => .goOnline address args
    | 0x11#8 => .goOffline address args
    | 0x12#8 => .resetPart address args
    | 0x13#8 => .clearLink address args
    | 0x20#8 => .readRemap address args
    | 0x21#8 => .restoreRemap address args
    | 0x22#8 => .dropRemap address args
    | 0x23#8 => .releaseSpare address args
    | 0x30#8 => .requestSpare address args
    | 0x31#8 => .cancelRequest address args
    | 0x32#8 => .readQueue address args
    | 0x40#8 => .readWatch address args
    | 0x41#8 => .clearWatch address args
    | 0x50#8 => .peekRecord address args
    | 0x51#8 => .popRecord address args
    | 0x52#8 => .ackAlert address args
    | 0x60#8 => .inject address args
    | _ => .unknownCommand address (code :: args)

/-- The WRITE_CONFIG frame of an item and a value (R161, R171). -/
def writeConfigFrame (item : Byte) (value : Word) : List Byte :=
  [0x03#8, item, value.extractLsb' 0 8, value.extractLsb' 8 8, value.extractLsb' 16 8, value.extractLsb' 24 8]

/-- The address and the bytes of the write frame that carries a command; none for the events that no write frame
carries. -/
def encodeFrame (i : Instr) : Option (BusAddress × List Byte) :=
  match i with
  | .powerOn _ => none
  | .systemReset => none
  | .transactionAccepted _ => none
  | .answerTaken => none
  | .arbiterGrant => none
  | .memoryResponse _ _ _ _ => none
  | .responseTimerExpiry _ => none
  | .scrubIntervalExpiry => none
  | .migrationStart => none
  | .readFrame _ _ => none
  | .unknownCommand address frame => some (address, frame)
  | .readStatus address args => some (address, 0x01#8 :: args)
  | .readConfig address args => some (address, 0x02#8 :: args)
  | .writeConfig address args => some (address, 0x03#8 :: args)
  | .downstreamBlocks address value => some (address, writeConfigFrame 0x02#8 value)
  | .visibleBlocks address value => some (address, writeConfigFrame 0x01#8 value)
  | .spareCount address value => some (address, writeConfigFrame 0x03#8 value)
  | .autoSpare address value => some (address, writeConfigFrame 0x06#8 value)
  | .scrubEnable address value => some (address, writeConfigFrame 0x08#8 value)
  | .scrubInterval address value => some (address, writeConfigFrame 0x09#8 value)
  | .linkTimeout address value => some (address, writeConfigFrame 0x0A#8 value)
  | .alertEnables address value => some (address, writeConfigFrame 0x0C#8 value)
  | .alertDepth address value => some (address, writeConfigFrame 0x0D#8 value)
  | .spareLowMark address value => some (address, writeConfigFrame 0x0E#8 value)
  | .goOnline address args => some (address, 0x10#8 :: args)
  | .goOffline address args => some (address, 0x11#8 :: args)
  | .resetPart address args => some (address, 0x12#8 :: args)
  | .clearLink address args => some (address, 0x13#8 :: args)
  | .readRemap address args => some (address, 0x20#8 :: args)
  | .restoreRemap address args => some (address, 0x21#8 :: args)
  | .dropRemap address args => some (address, 0x22#8 :: args)
  | .releaseSpare address args => some (address, 0x23#8 :: args)
  | .requestSpare address args => some (address, 0x30#8 :: args)
  | .cancelRequest address args => some (address, 0x31#8 :: args)
  | .readQueue address args => some (address, 0x32#8 :: args)
  | .readWatch address args => some (address, 0x40#8 :: args)
  | .clearWatch address args => some (address, 0x41#8 :: args)
  | .peekRecord address args => some (address, 0x50#8 :: args)
  | .popRecord address args => some (address, 0x51#8 :: args)
  | .ackAlert address args => some (address, 0x52#8 :: args)
  | .inject address args => some (address, 0x60#8 :: args)

/-- The command that a word spells by the table's bits. No row of spec/opcode_table.json gives bits, so no word spells
one. -/
def decodeTableWord (_nbits _w : Nat) : Option Instr := none

end Sys2Proof
end

