-- ==== Sys2Proof/Machine/RemapOps.lean ====
section
/-! DEFINITION. Machine/RemapOps.lean: looking entries up, the routes, and the changes of entries (R13 to R31). -/

namespace Sys2Proof.Machine

/-- Entry `i` (R13). -/
def entryAt (table : RemapTable) (i : Nat) : RemapEntry := table[i]?.getD .unused

/-- The table with entry `i` replaced. -/
def setEntry (table : RemapTable) (i : Nat) (entry : RemapEntry) : RemapTable := table.setIfInBounds i entry

/-- Whether an entry in COPYING or ACTIVE names block `b` as source (R17). -/
def RemapEntry.routes (entry : RemapEntry) (b : Nat) : Bool :=
  match entry with
  | .copying source _ _ _ => source == b
  | .active source _ => source == b
  | .unused | .free | .leaving _ _ | .retired _ => false

/-- The source of an entry that has one (R13). -/
def RemapEntry.source? (entry : RemapEntry) : Option Nat :=
  match entry with
  | .copying source _ _ _ => some source
  | .active source _ => some source
  | .leaving source _ => some source
  | .unused | .free | .retired _ => none

/-- Whether an entry is ACTIVE. -/
def RemapEntry.isActive (entry : RemapEntry) : Bool :=
  match entry with
  | .active _ _ => true
  | .unused | .free | .copying _ _ _ _ | .leaving _ _ | .retired _ => false

/-- The index of the entry for a visible block: the COPYING or ACTIVE entry that names it (R17). -/
def entryFor (table : RemapTable) (b : Nat) : Option Nat := table.toList.findIdx? fun e => e.routes b

/-- The free-spare count (R18). -/
def freeSpares (table : RemapTable) : Nat := table.toList.countP fun e => e == .free

/-- The target offered to a start: the lowest-indexed FREE entry (R18). -/
def lowestFree (table : RemapTable) : Option Nat := table.toList.findIdx? fun e => e == .free

/-- The downstream block of the from-location of a COPYING entry (R20, R41). -/
def fromBlock (visible source : Nat) (copyFrom : CopyFrom) : Nat :=
  match copyFrom with
  | .source => source
  | .leaving j => visible + j

/-- Where a read of line `l` of visible block `b` goes (the table of R20). -/
def readRoute (visible : Nat) (table : RemapTable) (b l : Nat) : Nat :=
  match entryFor table b with
  | none => b
  | some i =>
    match entryAt table i with
    | .copying source copyFrom cursor _ => if l < cursor then visible + i else fromBlock visible source copyFrom
    | .active _ _ => visible + i
    | .unused | .free | .leaving _ _ | .retired _ => b

/-- Where the store access of one run to line `l` of visible block `b` goes, and for a dual store the target of its second
access (the table of R21). -/
def storeRoute (visible : Nat) (table : RemapTable) (b l : Nat) : Nat × Option Nat :=
  match entryFor table b with
  | none => (b, none)
  | some i =>
    match entryAt table i with
    | .copying source copyFrom cursor _ =>
      if l < cursor then (fromBlock visible source copyFrom, some (visible + i))
      else (fromBlock visible source copyFrom, none)
    | .active _ _ => (visible + i, none)
    | .unused | .free | .leaving _ _ | .retired _ => (b, none)

/-- The origin a started migration gives its entry (R24). -/
def RequestOrigin.toOrigin (origin : RequestOrigin) : Origin :=
  match origin with
  | .auto => .auto
  | .manual => .manual

/-- A start for visible block `b` into entry `target` (R24). -/
def startFromBlock (table : RemapTable) (target b : Nat) (origin : RequestOrigin) : RemapTable :=
  setEntry table target (.copying b .source 0 origin.toOrigin)

/-- A start for spare `j` into entry `target`: entry j becomes LEAVING in the same change (R24). -/
def startFromSpare (table : RemapTable) (target j : Nat) (origin : RequestOrigin) : RemapTable :=
  match entryAt table j with
  | .active source old =>
    setEntry (setEntry table j (.leaving source old)) target (.copying source (.leaving j) 0 origin.toOrigin)
  | .unused | .free | .copying _ _ _ _ | .leaving _ _ | .retired _ => table

/-- LEAVING entry `j`, if the copy came from one, replaced by what `change` makes of its source and origin. -/
def settleLeaving (table : RemapTable) (copyFrom : CopyFrom) (change : Nat → Origin → RemapEntry) : RemapTable :=
  match copyFrom with
  | .source => table
  | .leaving j =>
    match entryAt table j with
    | .leaving source origin => setEntry table j (change source origin)
    | .unused | .free | .copying _ _ _ _ | .active _ _ | .retired _ => table

/-- Completion: the COPYING entry becomes ACTIVE, its LEAVING partner RETIRED (R25). -/
def completeEntries (table : RemapTable) (target : Nat) : RemapTable :=
  match entryAt table target with
  | .copying source copyFrom _ origin =>
    setEntry (settleLeaving table copyFrom fun _ _ => .retired .replaced) target (.active source origin)
  | .unused | .free | .active _ _ | .leaving _ _ | .retired _ => table

/-- Abort: the COPYING entry becomes FREE, or RETIRED for target failure, and its LEAVING partner ACTIVE (R26). -/
def abortEntries (table : RemapTable) (target : Nat) (targetFailed : Bool) : RemapTable :=
  match entryAt table target with
  | .copying _ copyFrom _ _ =>
    setEntry (settleLeaving table copyFrom fun source origin => .active source origin) target
      (if targetFailed then .retired .writeFailed else .free)
  | .unused | .free | .active _ _ | .leaving _ _ | .retired _ => table

/-- The cursor raised by one (R24, R44). -/
def advanceCursor (table : RemapTable) (target : Nat) : RemapTable :=
  match entryAt table target with
  | .copying source copyFrom cursor origin => setEntry table target (.copying source copyFrom (cursor + 1) origin)
  | .unused | .free | .active _ _ | .leaving _ _ | .retired _ => table

/-- Whether a lowering of SPARE_COUNT to `new` meets an entry that is neither FREE nor UNUSED (R15). -/
def loweringBlocked (table : RemapTable) (old new : Nat) : Bool :=
  table.toList.zipIdx.any fun (e, i) => new ≤ i && i < old && !(e == .free || e == .unused)

/-- The entries after SPARE_COUNT goes from `old` to `new` (R15). -/
def resizeEntries (table : RemapTable) (old new : Nat) : RemapTable :=
  Vector.ofFn fun i : Fin 64 =>
    if old ≤ i.val ∧ i.val < new then .free
    else if new ≤ i.val ∧ i.val < old then .unused
    else table[i]

/-- Whether some entry's source is at or above `v` (R16). -/
def sourceAtOrAbove (table : RemapTable) (v : Nat) : Bool :=
  table.toList.any fun e => match e.source? with
    | some source => v ≤ source
    | none => false

/-- Whether some entry names `b` as source (R27). -/
def namesSource (table : RemapTable) (b : Nat) : Bool := table.toList.any fun e => e.source? == some b

end Sys2Proof.Machine
end

