-- ==== Sys2Proof/Machine/Flags.lean ====
section
/-! DEFINITION. Machine/Flags.lean: the alert flags and the alert line, views of the state (R139 to R144). -/

namespace Sys2Proof.Machine

/-- The SPARES_LOW condition (R141). -/
def State.sparesLow (s : State) : Bool :=
  s.mode == .online && 1 ≤ s.settings.spares && freeSpares s.remap ≤ s.settings.spareLowMark

/-- The five flags as they stand: four follow their conditions, DROPPED is stored (R139). -/
def State.flags (s : State) : FlagSet where
  records := s.settings.alertDepth ≤ s.records.queue.length
  dropped := s.records.droppedFlag
  sparesLow := s.sparesLow
  blocked := s.migration.engine == .blocked
  linkDown := s.port.link == .down

/-- Whether the alert line is driven low: some flag named in ALERT_ENABLES is set (R144). -/
def State.alertLow (s : State) : Bool :=
  let f := s.flags
  let e := s.settings.alertEnables
  (f.records && e.records) || (f.dropped && e.dropped) || (f.sparesLow && e.sparesLow) || (f.blocked && e.blocked)
    || (f.linkDown && e.linkDown)

end Sys2Proof.Machine
end

