-- ==== Sys2Proof/Machine/Operands.lean ====
section
/-! DEFINITION. Machine/Operands.lean: what argument bytes mean, and the bytes of each payload (R158, R160, R164 to R177). -/

namespace Sys2Proof.Machine

/-- The status codes (R158). -/
def Status.code (status : Status) : Byte :=
  match status with
  | .ok => 0x00
  | .noCommand => 0x01
  | .unknownCommand => 0x02
  | .badLength => 0x03
  | .badArgument => 0x04
  | .wrongMode => 0x05
  | .busy => 0x06
  | .notFound => 0x07
  | .full => 0x08
  | .duplicate => 0x09
  | .conflict => 0x0A
  | .empty => 0x0B
  | .alreadySpared => 0x0C

/-- One byte of a number below 256. -/
def byteOf (n : Nat) : Byte := BitVec.ofNat 8 n

/-- off/on as a number (R169). -/
def onOff (b : Bool) : Nat := if b then 1 else 0

/-- A byte of eight bits, bit 0 first. -/
def bitsByte (b0 b1 b2 b3 b4 b5 b6 b7 : Bool) : Byte :=
  BitVec.ofBool b7 ++ BitVec.ofBool b6 ++ BitVec.ofBool b5 ++ BitVec.ofBool b4 ++ BitVec.ofBool b3 ++ BitVec.ofBool b2
    ++ BitVec.ofBool b1 ++ BitVec.ofBool b0

/-- A flag set as a byte (R169). -/
def FlagSet.toByte (f : FlagSet) : Byte :=
  bitsByte f.records f.dropped f.sparesLow f.blocked f.linkDown false false false

/-- The flag set a number names by its five low bits (R160, R169). -/
def flagsOfNat (n : Nat) : FlagSet where
  records := n.testBit 0
  dropped := n.testBit 1
  sparesLow := n.testBit 2
  blocked := n.testBit 3
  linkDown := n.testBit 4

/-- A location as 4 bytes: its kind, then its number as 3 bytes (R169). -/
def locationBytes (location : Location) : List Byte :=
  match location with
  | .visible b => 0 :: leBytes 3 b
  | .spare i => 1 :: leBytes 3 i

/-- The location 4 argument bytes name; none for a kind byte other than 0 or 1 (R165). -/
def locationOfBytes (kind n0 n1 n2 : Byte) : Option Location :=
  match kind with
  | 0#8 => some (.visible (leValue [n0, n1, n2]))
  | 1#8 => some (.spare (leValue [n0, n1, n2]))
  | _ => none

def Mode.code (mode : Mode) : Byte :=
  match mode with
  | .offline => 0
  | .online => 1
  | .stopping => 2

def Link.code (link : Link) : Byte :=
  match link with
  | .up => 0
  | .down => 1

/-- The phase as READ_STATUS reports it (R159, R169). -/
def Progress.code (progress : Progress) : Byte :=
  match progress with
  | .idle => 0
  | .fetch => 1
  | .mergeRead => 2
  | .store _ => 3
  | .answer _ => 4

def Origin.code (origin : Origin) : Byte :=
  match origin with
  | .auto => 0
  | .manual => 1
  | .restored => 2

def RequestOrigin.code (origin : RequestOrigin) : Byte := origin.toOrigin |>.code

def RetireReason.code (reason : RetireReason) : Byte :=
  match reason with
  | .replaced => 0
  | .writeFailed => 1
  | .restored => 2

def CopyFrom.code (copyFrom : CopyFrom) : Byte :=
  match copyFrom with
  | .source => 0x80
  | .leaving j => byteOf j

def WatchState.code (state : WatchState) : Byte :=
  match state with
  | .tracking => 0
  | .waiting => 1
  | .queued => 2

def RecordKind.code (kind : RecordKind) : Byte :=
  match kind with
  | .corrected => 0x01
  | .uncorrectable => 0x02
  | .poisonRead => 0x03
  | .watchCandidate => 0x04
  | .trackingFull => 0x05
  | .migrationStarted => 0x06
  | .migrationDone => 0x07
  | .migrationAborted => 0x08
  | .migrationDropped => 0x09
  | .requestStale => 0x0A
  | .sparesExhausted => 0x0B
  | .linkTimeout => 0x0C
  | .linkFault => 0x0D
  | .linkDown => 0x0E
  | .injectApplied => 0x0F

def RecordSource.code (source : RecordSource) : Byte :=
  match source with
  | .upstreamFetch => 0
  | .mergeRead => 1
  | .scrub => 2
  | .copy => 3
  | .writeBack => 4
  | .engine => 5
  | .link => 6
  | .management => 7

def RecordDetail.code (detail : RecordDetail) : Byte :=
  match detail with
  | .cancelled => 1
  | .stopped => 2
  | .reset => 3
  | .targetFailed => 4
  | .readFailed => 5
  | .unexpectedTag => 6

/-- The engine state and cursor bytes of READ_STATUS; the cursor byte is 0xFF when the engine is not COPYING (R169). -/
def engineBytes (engine : Engine) (table : RemapTable) : List Byte :=
  match engine with
  | .idle => [0, 0xFF]
  | .blocked => [1, 0xFF]
  | .copying work =>
    match entryAt table work.target with
    | .copying _ _ cursor _ => [2, byteOf cursor]
    | .unused | .free | .active _ _ | .leaving _ _ | .retired _ => [2, 0xFF]

/-- The 23 bytes of READ_STATUS (R159, R172). -/
def statusPayload (s : State) : List Byte :=
  [s.mode.code] ++ engineBytes s.migration.engine s.remap
    ++ [byteOf s.migration.queue.length, byteOf (freeSpares s.remap), byteOf s.records.queue.length]
    ++ leBytes 2 s.records.dropped ++ leBytes 2 s.watch.untracked ++ leBytes 2 s.writeBack.dropped
    ++ leBytes 3 s.scrubber.block ++ [byteOf s.scrubber.line] ++ leBytes 2 s.scrubber.passCount.toNat
    ++ [s.flags.toByte, byteOf s.port.abandoned.length, s.port.link.code, byteOf s.upstream.held.length,
        s.upstream.progress.code]

/-- The value of a configuration item by its code; none for an unknown code (R160). -/
def itemValue (c : Settings) (item : Byte) : Option Nat :=
  match item with
  | 0x01#8 => some c.visible
  | 0x02#8 => some c.downstream
  | 0x03#8 => some c.spares
  | 0x04#8 => some c.correctedLimit
  | 0x05#8 => some c.wordLimit
  | 0x06#8 => some (onOff c.autoSpare)
  | 0x07#8 => some (onOff c.repairOnRead)
  | 0x08#8 => some (onOff c.scrubEnable)
  | 0x09#8 => some c.scrubInterval
  | 0x0A#8 => some c.linkTimeout
  | 0x0B#8 => some (onOff c.recordCorrected)
  | 0x0C#8 => some c.alertEnables.toByte.toNat
  | 0x0D#8 => some c.alertDepth
  | 0x0E#8 => some c.spareLowMark
  | _ => none

/-- The 10 bytes of READ_REMAP: index, state, present marks, source, from, cursor, origin, retire reason (R174). -/
def remapPayload (i : Byte) (entry : RemapEntry) : List Byte :=
  match entry with
  | .unused => [i, 0, 0, 0, 0, 0, 0, 0, 0, 0]
  | .free => [i, 1, 0, 0, 0, 0, 0, 0, 0, 0]
  | .copying source copyFrom cursor origin =>
    [i, 2, 0x0F] ++ leBytes 3 source ++ [copyFrom.code, byteOf cursor, origin.code, 0]
  | .active source origin => [i, 3, 0x09] ++ leBytes 3 source ++ [0, 0, origin.code, 0]
  | .leaving source origin => [i, 4, 0x09] ++ leBytes 3 source ++ [0, 0, origin.code, 0]
  | .retired reason => [i, 5, 0x10, 0, 0, 0, 0, 0, 0, reason.code]

/-- The 7 bytes of READ_QUEUE (R175). -/
def requestPayload (position : Byte) (r : Request) : List Byte :=
  [position] ++ locationBytes r.location
    ++ [r.origin.code, bitsByte r.retried r.started false false false false false false]

/-- The 17 bytes of READ_WATCH; unused offset bytes are 0 (R176). -/
def watchPayload (slot : Byte) (e : WatchEntry) : List Byte :=
  [slot] ++ locationBytes e.location ++ [byteOf e.corrected, byteOf e.offsets.length]
    ++ (List.range 4).map (fun k => byteOf (e.offsets.getD k 0))
    ++ [bitsByte e.uncorrectable false false false false false false false, e.state.code]
    ++ leBytes 4 e.stamp.toNat

/-- The 12 bytes of PEEK_RECORD and POP_RECORD (R177). -/
def recordPayload (r : Record) : List Byte :=
  leBytes 2 r.sequence.toNat ++ [r.body.kind.code, r.body.source.code]
    ++ [bitsByte r.body.location.isSome r.body.offset.isSome r.body.spare.isSome r.body.detail.isSome
          false false false false]
    ++ (match r.body.location with
        | some location => locationBytes location
        | none => [0, 0, 0, 0])
    ++ [byteOf (r.body.offset.getD 0), byteOf (r.body.spare.getD 0)]
    ++ [match r.body.detail with
        | some detail => detail.code
        | none => 0]

end Sys2Proof.Machine
end

