-- ==== Sys2Proof/Machine/Ops.lean ====
section
/-! DEFINITION. Machine/Ops.lean: the operations every block uses: making a record, answering a command, taking a frame,
naming the location of a downstream block, and discarding the outstanding access's result. -/

namespace Sys2Proof.Machine

/-! ## Records (R135, R136) -/

/-- A counter that saturates at 65,535. -/
def saturate (n : Nat) : Nat := min n 65535

/-- Taking a record in: it takes the next sequence number, and joins at the tail or is dropped (R135, R136). -/
def RecordUnit.take (u : RecordUnit) (body : RecordBody) : RecordUnit :=
  if u.queue.length < 16 then
    { u with
      queue := u.queue ++ [{ sequence := u.nextSequence, body := body }]
      nextSequence := u.nextSequence + 1 }
  else
    { u with
      nextSequence := u.nextSequence + 1
      dropped := saturate (u.dropped + 1)
      droppedFlag := true }

/-- A record is made. -/
def State.makeRecord (s : State) (body : RecordBody) : State := { s with records := s.records.take body }

/-! ## Places (R12, R112) -/

/-- The location of a downstream block in the geometry in force (R112); a block of neither area has none, and what a
record then names is a free value (log entry 6). -/
def locationOf (c : Settings) (block : Nat) : Location :=
  if block < c.visible then .visible block
  else if block < c.visible + c.spares then .spare (block - c.visible)
  else Config.locationOfNoBlock block

/-- Whether a location exists (R12). -/
def locationExists (c : Settings) (location : Location) : Bool :=
  match location with
  | .visible b => b < c.visible
  | .spare i => i < c.spares

/-! ## The outstanding access (R108) -/

/-- The requester that makes an access of a purpose (R107). -/
def Purpose.requester (purpose : Purpose) : Requester :=
  match purpose with
  | .fetch | .mergeRead | .storeSingle | .storeFirst | .storeSpare => .upstream
  | .copyRead | .copyWrite => .migration
  | .scrubRead => .scrub
  | .writeBack => .writeBack

/-- Whether an access is a WRITE_RUN (R107). -/
def Purpose.isWrite (purpose : Purpose) : Bool :=
  match purpose with
  | .storeSingle | .storeFirst | .storeSpare | .copyWrite | .writeBack => true
  | .fetch | .mergeRead | .copyRead | .scrubRead => false

/-- Whether a requester has an access outstanding whose result it will take. -/
def State.awaiting (s : State) (r : Requester) : Bool :=
  match s.port.outstanding with
  | some a => a.purpose.requester == r && !a.discarded
  | none => false

/-- The result of the outstanding access is discarded, if `r` made it; the access itself runs to its end (R108). -/
def State.discardOutstanding (s : State) (r : Requester) : State :=
  match s.port.outstanding with
  | some a =>
    if a.purpose.requester = r then
      { s with port := { s.port with outstanding := some { a with discarded := true } } }
    else s
  | none => s

/-- The write-back buffer emptied; a write-back outstanding runs to its end, its entry already gone (R121). -/
def State.emptyWriteBack (s : State) : State :=
  let s := s.discardOutstanding .writeBack
  { s with writeBack := { s.writeBack with entries := [] } }

/-! ## The management port (R155 to R158) -/

/-- The response of a command replaces the whole buffer (R157). -/
def State.respond (s : State) (status : Status) (payload : List Byte) : State :=
  { s with management := { s.management with response := { status := status, payload := payload } } }

/-- The refusal of a command, or an OK without payload: a status alone (R157). -/
def State.answerStatus (s : State) (status : Status) : State := s.respond status []

/-- The port's I2C address: 0x58 plus the straps (R155). -/
def ManagementPort.address (m : ManagementPort) : BusAddress := 0x58#7 + m.straps.setWidth 7

/-- What the port last did on the I2C line. -/
def State.onBus (s : State) (acknowledged : Bool) (returned : List Byte) : State :=
  { s with management := { s.management with acknowledged := acknowledged, returned := returned } }

/-- A write frame: not acknowledged and not taken unless it names the port's address; else `effect` is what it does
(R155, R156). -/
def State.takeFrame (s : State) (address : BusAddress) (effect : State → State) : State :=
  if address = s.management.address then effect (s.onBus true []) else s.onBus false []

/-- A command that takes `count` argument bytes: any other number is refused BAD_LENGTH (R156). -/
def State.takeCommand (s : State) (address : BusAddress) (args : List Byte) (count : Nat)
    (effect : State → State) : State :=
  s.takeFrame address fun t => if args.length = count then effect t else t.answerStatus .badLength

end Sys2Proof.Machine
end

