-- ==== Sys2Proof/Machine/WatchOps.lean ====
section
/-! DEFINITION. Machine/WatchOps.lean: the slots of the watch table: finding, making, evicting, changing and decaying
entries (R58 to R64, R70). -/

namespace Sys2Proof.Machine

/-- The filled slots with their numbers, lowest first. -/
def WatchTable.filled (w : WatchTable) : List (Nat × WatchEntry) :=
  w.slots.toList.zipIdx.filterMap fun (slot, i) => slot.map fun e => (i, e)

/-- The slot of the entry for a location (R58). -/
def WatchTable.slotOf (w : WatchTable) (location : Location) : Option Nat :=
  w.slots.toList.findIdx? fun slot => match slot with
    | some e => e.location == location
    | none => false

/-- The entry in a slot. -/
def WatchTable.entryIn (w : WatchTable) (slot : Nat) : Option WatchEntry := (w.slots[slot]?).join

/-- A slot given an entry, or emptied. -/
def WatchTable.setSlot (w : WatchTable) (slot : Nat) (e : Option WatchEntry) : WatchTable :=
  { w with slots := w.slots.setIfInBounds slot e }

/-- The lowest empty slot (R58, R62). -/
def WatchTable.lowestEmpty (w : WatchTable) : Option Nat := w.slots.toList.findIdx? fun slot => slot.isNone

/-- Whether the first of two entries counts as older: the smaller stamp, compared as a number (R59); equal stamps, which only
a wrapped counter gives, are ordered by a free value (log entry 7). -/
def olderThan (a b : Nat × WatchEntry) : Bool :=
  if a.2.stamp = b.2.stamp then Config.stampTie a.1 b.1 else a.2.stamp.toNat < b.2.stamp.toNat

/-- Whether the first of two TRACKING entries is evicted rather than the second: smaller count, then smaller stamp (R62). -/
def evictedBefore (a b : Nat × WatchEntry) : Bool :=
  if a.2.corrected = b.2.corrected then olderThan a b else a.2.corrected < b.2.corrected

/-- The entry of a list that comes before every other by `before`. -/
def firstBy (before : Nat × WatchEntry → Nat × WatchEntry → Bool) :
    List (Nat × WatchEntry) → Option (Nat × WatchEntry)
  | [] => none
  | e :: rest =>
    match firstBy before rest with
    | none => some e
    | some best => if before best e then some best else some e

/-- The slot of the entry evicted from a full table, if any entry is TRACKING (R62). -/
def WatchTable.evictee (w : WatchTable) : Option Nat :=
  (firstBy evictedBefore (w.filled.filter fun e => e.2.state == .tracking)).map (·.1)

/-- The WAITING entry with the smallest stamp (R35, R68). -/
def WatchTable.oldestWaiting (w : WatchTable) : Option (Nat × WatchEntry) :=
  firstBy olderThan (w.filled.filter fun e => e.2.state == .waiting)

/-- The slot a new entry takes: the lowest empty one, else the evicted entry's, else none (R62, R63). -/
def WatchTable.slotForNew (w : WatchTable) : Option Nat :=
  match w.lowestEmpty with
  | some slot => some slot
  | none => w.evictee

/-- A new entry for a location in a slot, with the next stamp (R59, R62). -/
def WatchTable.create (w : WatchTable) (slot : Nat) (location : Location) : WatchTable :=
  { w.setSlot slot
      (some
        { location := location, corrected := 0, offsets := [], uncorrectable := false, state := .tracking,
          stamp := w.nextStamp }) with
    nextStamp := w.nextStamp + 1 }

/-- The slot in which an outcome for a location is counted, and the table with an entry there; none when the outcome goes
untracked (R61 to R63). -/
def WatchTable.ensure (w : WatchTable) (location : Location) : Option (Nat × WatchTable) :=
  match w.slotOf location with
  | some slot => some (slot, w)
  | none => w.slotForNew.map fun slot => (slot, w.create slot location)

/-- A counted outcome applied to an entry (the table of R61). -/
def WatchEntry.count (e : WatchEntry) (offset : Nat) (uncorrectable : Bool) : WatchEntry :=
  if uncorrectable then { e with uncorrectable := true }
  else
    { e with
      corrected := min (e.corrected + 1) 255
      offsets := if offset ∈ e.offsets ∨ 4 ≤ e.offsets.length then e.offsets else e.offsets ++ [offset] }

/-- Whether an entry meets a threshold (R64). -/
def WatchEntry.meetsLimit (e : WatchEntry) (c : Settings) : Bool :=
  c.correctedLimit ≤ e.corrected || c.wordLimit ≤ e.offsets.length || e.uncorrectable

/-- The entry for a location changed by `f`, if there is one. -/
def WatchTable.modify (w : WatchTable) (location : Location) (f : WatchEntry → WatchEntry) : WatchTable :=
  match w.slotOf location with
  | some slot => w.setSlot slot ((w.entryIn slot).map f)
  | none => w

/-- The entry for a location removed, if there is one. -/
def WatchTable.remove (w : WatchTable) (location : Location) : WatchTable :=
  match w.slotOf location with
  | some slot => w.setSlot slot none
  | none => w

/-- An entry that has become QUEUED (R65, R67, R69). -/
def WatchEntry.enqueue (e : WatchEntry) : WatchEntry := { e with state := .queued }

/-- A demotion that keeps the history (R53). -/
def WatchEntry.demote (e : WatchEntry) : WatchEntry := { e with state := .tracking }

/-- A demotion that clears the history (R53). -/
def WatchEntry.demoteCleared (e : WatchEntry) : WatchEntry :=
  { e with state := .tracking, corrected := 0, offsets := [], uncorrectable := false }

/-- What decay makes of a slot: a TRACKING count is halved, and an entry left with count 0 and its flag clear goes (R70). -/
def decaySlot (slot : Option WatchEntry) : Option WatchEntry :=
  match slot with
  | none => none
  | some e =>
    match e.state with
    | .tracking =>
      if e.corrected / 2 = 0 ∧ e.uncorrectable = false then none else some { e with corrected := e.corrected / 2 }
    | .waiting | .queued => some e

/-- The decay at a pass end (R70). -/
def WatchTable.decay (w : WatchTable) : WatchTable := { w with slots := w.slots.map decaySlot }

/-- The entries of locations that no longer exist removed (R152). -/
def WatchTable.prune (w : WatchTable) (c : Settings) : WatchTable :=
  { w with
    slots := w.slots.map fun slot => match slot with
      | some e => if locationExists c e.location then some e else none
      | none => none }

end Sys2Proof.Machine
end

