-- ==== Sys2Proof/Machine/EngineOps.lean ====
section
/-! DEFINITION. Machine/EngineOps.lean: the migration queue and engine: joining and leaving the queue, the try of a start,
the candidate's request, completion and aborts (R32 to R57, R65 to R68). -/

namespace Sys2Proof.Machine

/-! ## The queue -/

/-- Whether a request names a location (R33). -/
def State.hasRequest (s : State) (location : Location) : Bool :=
  s.migration.queue.any fun r => r.location == location

/-- The migration queue replaced. -/
def State.setQueue (s : State) (queue : List Request) : State :=
  { s with migration := { s.migration with queue := queue } }

/-- A request joins at the tail (R32). -/
def State.joinQueue (s : State) (location : Location) (origin : RequestOrigin) : State :=
  s.setQueue (s.migration.queue ++ [{ location := location, origin := origin, retried := false, started := false }])

/-- The entry for a location becomes QUEUED (R65, R67, R69). -/
def State.queueEntry (s : State) (location : Location) : State :=
  { s with watch := s.watch.modify location WatchEntry.enqueue }

/-- The oldest WAITING entry is offered to the queue: it joins as an AUTO request, unless a request already names its
location, and becomes QUEUED; a full queue takes none (R33, R67, R68). -/
def State.offerWaiting (s : State) : State :=
  match s.watch.oldestWaiting with
  | none => s
  | some (_, e) =>
    if s.hasRequest e.location then s.queueEntry e.location
    else if s.migration.queue.length < 8 then (s.queueEntry e.location).joinQueue e.location .auto
    else s

/-- A place has freed in the queue: with AUTO_SPARE on, one WAITING entry joins (R35, R68). -/
def State.placeFreed (s : State) : State := if s.settings.autoSpare then s.offerWaiting else s

/-- `n` places have freed (R35, R152). -/
def State.placesFreed : Nat → State → State
  | 0, s => s
  | n + 1, s => State.placesFreed n s.placeFreed

/-! ## The try of a start (R38 to R41) -/

/-- Whether a dual spare write is pending (R22). -/
def State.dualPending (s : State) : Bool :=
  match s.upstream.progress with
  | .store work => work.dual.isSome
  | .idle | .fetch | .mergeRead | .answer _ => false

/-- Whether the conditions of a try all hold (R38). -/
def State.mayTry (s : State) : Bool :=
  s.mode == .online && s.migration.engine == .idle && !s.migration.queue.isEmpty && s.port.link == .up
    && !s.dualPending

/-- Whether a request is valid at the try (R39). -/
def State.validRequest (s : State) (location : Location) : Bool :=
  match location with
  | .visible b => b < s.settings.visible && (entryFor s.remap b).isNone
  | .spare j => j < s.settings.spares && (entryAt s.remap j).isActive

/-- A stale head, `rest` behind it, is removed with its location's watch entry, and a REQUEST_STALE record is made; the
place frees (R39, R35). -/
def State.dropStale (s : State) (location : Location) (rest : List Request) : State :=
  let s := s.setQueue rest
  let s : State := { s with watch := s.watch.remove location }
  let s := s.makeRecord { kind := .requestStale, source := .engine, location := some location }
  s.placeFreed

/-- The engine goes BLOCKED on a valid head with no FREE entry (R40). -/
def State.block (s : State) (location : Location) : State :=
  let s : State := { s with migration := { s.migration with engine := .blocked } }
  s.makeRecord { kind := .sparesExhausted, source := .engine, location := some location }

/-- The working items at the start of a line attempt (R41, R44, R48): an attempt begun with overtake count 4 is held. -/
def CopyWork.attemptAt (target overtakes : Nat) : CopyWork where
  target := target
  phase := .reading
  attempt := 1
  inFlight := false
  overtaken := false
  overtakes := overtakes
  held := 4 ≤ overtakes
  holding := false

/-- The migration of the head request starts into FREE entry `target`, in one change (R24, R41). -/
def State.startMigration (s : State) (r : Request) (rest : List Request) (target : Nat) : State :=
  let remap := match r.location with
    | .visible b => startFromBlock s.remap target b r.origin
    | .spare j => startFromSpare s.remap target j r.origin
  let s : State :=
    { s with
      remap := remap
      migration := { queue := { r with started := true } :: rest, engine := .copying (CopyWork.attemptAt target 0) } }
  s.makeRecord { kind := .migrationStarted, source := .engine, location := some r.location, spare := some target }

/-- The tries one moment brings: stale heads are removed one after another, until a head starts or blocks the engine or a
condition fails. `fuel` bounds the stale removals. -/
def State.tryLoop : Nat → State → State
  | 0, s => s
  | fuel + 1, s =>
    if s.mayTry then
      match s.migration.queue with
      | [] => s
      | r :: rest =>
        if s.validRequest r.location then
          match lowestFree s.remap with
          | none => s.block r.location
          | some target => s.startMigration r rest target
        else State.tryLoop fuel (s.dropStale r.location rest)
    else s

/-- The engine's try (R38). Each stale removal takes one request, and each of the at most 32 watch entries joins at most
once, so the fuel is never spent. -/
def State.tryStart (s : State) : State := State.tryLoop (s.migration.queue.length + 33) s

/-! ## Counted outcomes and candidates (R61 to R66) -/

/-- A TRACKING entry has become a candidate: QUEUED or WAITING, a WATCH_CANDIDATE record, and perhaps an AUTO request,
which may let the engine try a start at once (R65, R38). -/
def State.becomeCandidate (s : State) (source : RecordSource) (location : Location) (offset : Nat) : State :=
  let noted := s.makeRecord
    { kind := .watchCandidate, source := source, location := some location, offset := some offset }
  if s.hasRequest location then noted.queueEntry location
  else if s.settings.autoSpare ∧ s.migration.queue.length < 8 then
    ((noted.queueEntry location).joinQueue location .auto).tryStart
  else { noted with watch := noted.watch.modify location fun e => { e with state := .waiting } }

/-- A counted outcome is applied to its location's entry, and a TRACKING entry is tested; or it goes untracked, with one
TRACKING_FULL record for its read. `full` says that the read has made that record (R61 to R66). -/
def State.countOutcome (s : State) (source : RecordSource) (location : Location) (offset : Nat)
    (uncorrectable full : Bool) : State × Bool :=
  match s.watch.ensure location with
  | none =>
    let s : State := { s with watch := { s.watch with untracked := saturate (s.watch.untracked + 1) } }
    if full then (s, true)
    else
      (s.makeRecord
        { kind := .trackingFull, source := source, location := some location, offset := some offset }, true)
  | some (slot, table) =>
    match table.entryIn slot with
    | none => ({ s with watch := table }, full)
    | some before =>
      let e := before.count offset uncorrectable
      let s : State := { s with watch := table.setSlot slot (some e) }
      if e.state = .tracking ∧ e.meetsLimit s.settings then (s.becomeCandidate source location offset, full)
      else (s, full)

/-! ## Completion and aborts (R49 to R56) -/

/-- A pending dual spare write learns what became of its migration (R23). -/
def State.settleFate (s : State) (fate : MigrationFate) : State :=
  match s.upstream.progress with
  | .store work =>
    { s with
      upstream := { s.upstream with
        progress := .store { work with
          dual := work.dual.map fun d => if d.fate = .inFlight then { d with fate := fate } else d } } }
  | .idle | .fetch | .mergeRead | .answer _ => s

/-- Completion: entries, request, watch entry, engine and record change together, and the place frees (R25, R49, R35). The
engine's next try is the caller's. -/
def State.completeMigration (s : State) (work : CopyWork) : State :=
  match s.migration.queue with
  | [] => s
  | r :: rest =>
    let s : State :=
      { s with
        remap := completeEntries s.remap work.target
        migration := { queue := rest, engine := .idle }
        watch := s.watch.remove r.location }
    let s := s.settleFate .completed
    let s := s.makeRecord
      { kind := .migrationDone, source := .engine, location := some r.location, spare := some work.target }
    s.placeFreed

/-- The causes of an abort (R51). -/
inductive AbortCause where
  | cancelled
  | stopped
  | reset
  | targetFailed
  | readFailed
  deriving DecidableEq, Repr

/-- The reason a MIGRATION_ABORTED record carries (R51). -/
def AbortCause.detail (cause : AbortCause) : RecordDetail :=
  match cause with
  | .cancelled => .cancelled
  | .stopped => .stopped
  | .reset => .reset
  | .targetFailed => .targetFailed
  | .readFailed => .readFailed

/-- A failed attempt of the head request: its first moves it to the tail, its second drops it, with a MIGRATION_DROPPED
record, and demotes its watch entry (R52, R53). -/
def State.failRequest (s : State) (r : Request) (rest : List Request) (target : Nat) : State :=
  if r.retried then
    let s := s.setQueue rest
    let s := s.makeRecord
      { kind := .migrationDropped, source := .engine, location := some r.location, spare := some target }
    let s : State := { s with watch := s.watch.modify r.location WatchEntry.demote }
    s.placeFreed
  else s.setQueue (rest ++ [{ r with retried := true, started := false }])

/-- What becomes of the request and of its watch entry (R52, R53, R35). -/
def State.disposeRequest (s : State) (cause : AbortCause) (r : Request) (rest : List Request) (target : Nat) : State :=
  match cause with
  | .stopped | .reset => s.setQueue ({ r with started := false } :: rest)
  | .cancelled =>
    let s := s.setQueue rest
    let s : State := { s with watch := s.watch.modify r.location WatchEntry.demoteCleared }
    s.placeFreed
  | .targetFailed | .readFailed => s.failRequest r rest target

/-- The abort of a migration in flight: entries, engine, record, copy access, request and watch entry (R26, R51 to R53). The
engine's next try is the caller's. -/
def State.abortMigration (s : State) (cause : AbortCause) : State :=
  match s.migration.engine, s.migration.queue with
  | .copying work, r :: rest =>
    let s : State :=
      { s with
        remap := abortEntries s.remap work.target (cause == .targetFailed)
        migration := { s.migration with engine := .idle }
        port := { s.port with migrationPassed := 0 } }
    let s := s.discardOutstanding .migration
    let s := s.settleFate .aborted
    let s := s.makeRecord
      { kind := .migrationAborted, source := .engine, location := some r.location, spare := some work.target,
        detail := some cause.detail }
    s.disposeRequest cause r rest work.target
  | .copying _, [] => s
  | .idle, _ => s
  | .blocked, _ => s

/-- GO_OFFLINE and a system reset stop the engine: a migration in flight is aborted, a BLOCKED engine goes IDLE (R40, R55). -/
def State.stopEngine (s : State) (cause : AbortCause) : State :=
  match s.migration.engine with
  | .copying _ => s.abortMigration cause
  | .blocked => { s with migration := { s.migration with engine := .idle } }
  | .idle => s

end Sys2Proof.Machine
end

