-- ==== Sys2Proof/Machine/UpstreamOps.lean ====
section
/-! DEFINITION. Machine/UpstreamOps.lean: the upstream port: the split of an address, the checks of a transaction, its
phases, its answers, and the ends of its accesses (R7 to R11, R90 to R104). -/

namespace Sys2Proof.Machine

/-! ## Transactions (R7 to R10) -/

/-- The first word address a transaction names (R90). -/
def firstAddress (t : Transaction) : Nat :=
  match t with
  | .read address _ => address
  | .write address _ _ => address

/-- The length a transaction states (R90). -/
def statedLength (t : Transaction) : Nat :=
  match t with
  | .read _ length => length
  | .write _ length _ => length

/-- The visible block of an upstream word address (R7). -/
def blockOf (address : Nat) : Nat := address / 256

/-- The line of an upstream word address (R7). -/
def lineOf (address : Nat) : Nat := address / 16 % 16

/-- The word of an upstream word address within its line (R7). -/
def wordOf (address : Nat) : Nat := address % 16

/-- A WRITE's list holds exactly as many words as it states (R9). -/
def listMatches (t : Transaction) : Bool :=
  match t with
  | .read _ _ => true
  | .write _ length words => words.length == length

/-- The shape check (R9). -/
def shapeOk (t : Transaction) : Bool :=
  1 ≤ statedLength t && statedLength t ≤ 16 && wordOf (firstAddress t) + statedLength t ≤ 16 && listMatches t

/-- The range check (R10). -/
def inRange (c : Settings) (t : Transaction) : Bool := firstAddress t < c.visible * 256

/-- An answer with a status and no list (R11, R93). -/
def bareAnswer (t : Transaction) (status : AnswerStatus) : Answer :=
  match t with
  | .read _ _ => .read status []
  | .write _ _ _ => .write status []

/-! ## Phases -/

/-- The transaction in progress. -/
def State.current (s : State) : Option Transaction := (s.upstream.held.head?).map (·.transaction)

/-- The phase of the transaction in progress replaced. -/
def State.setProgress (s : State) (progress : Progress) : State :=
  { s with upstream := { s.upstream with progress := progress } }

/-- The first and the last partial word of a WRITE, which the merge read reaches from and to (R83). -/
def partialSpan (words : List WriteWord) : Option (Nat × Nat) :=
  match words.findIdx? isPartial, words.reverse.findIdx? isPartial with
  | some first, some back => some (first, words.length - 1 - back)
  | _, _ => none

/-- The STORE phase is entered with the runs and planned statuses of the words (R84, R98). -/
def State.enterStore (s : State) (address start : Nat) (fetched : List StoredWord) (words : List WriteWord) : State :=
  let plan := planWords start fetched words
  s.setProgress
    (.store { runs := storeRuns (wordOf address) (plan.map (·.1)), statuses := plan.map (·.2), dual := none })

/-- A transaction marked SERVE has become the one in progress: the checks of R94, then its first phase (R92, R95, R98). -/
def State.beginServed (s : State) (t : Transaction) : State :=
  if shapeOk t = false then s.setProgress (.answer (bareAnswer t .badRequest))
  else if inRange s.settings t = false then s.setProgress (.answer (bareAnswer t .outOfRange))
  else
    match t with
    | .read _ _ => s.setProgress .fetch
    | .write address _ words =>
      if words.all fun w => w.enables == 0 then
        s.setProgress (.answer (.write .okay (words.map fun _ => .good)))
      else
        match partialSpan words with
        | some _ => s.setProgress .mergeRead
        | none => s.enterStore address 0 [] words

/-- The oldest held transaction, if there is one, becomes the one in progress (R92 to R94). -/
def State.beginHead (s : State) : State :=
  match s.upstream.held with
  | [] => s.setProgress .idle
  | h :: _ =>
    match h.mark with
    | .refuse => s.setProgress (.answer (bareAnswer h.transaction .notReady))
    | .serve => s.beginServed h.transaction

/-- Whether the phase of the transaction in progress still needs an access (R92). -/
def Progress.needsAccess (progress : Progress) : Bool :=
  match progress with
  | .fetch | .mergeRead | .store _ => true
  | .idle | .answer _ => false

/-- Whether line `line` of visible block `block` is held (R48, R100). -/
def State.lineHeld (s : State) (block line : Nat) : Bool :=
  match s.migration.engine with
  | .copying work =>
    match entryAt s.remap work.target with
    | .copying source _ cursor _ => work.holding && source == block && cursor == line
    | .unused | .free | .active _ _ | .leaving _ _ | .retired _ => false
  | .idle | .blocked => false

/-- Whether the port's next store would be a first access to a held line while the link is UP, so that it waits (R100). The
spare access of a dual store is never held (R48). -/
def State.waitsOnHeldLine (s : State) : Bool :=
  match s.upstream.progress, s.current with
  | .store work, some t =>
    work.dual.isNone && s.port.link == .up && s.lineHeld (blockOf (firstAddress t)) (lineOf (firstAddress t))
  | _, _ => false

/-! ## Answers of a WRITE -/

/-- The statuses of a WRITE whose present run failed: BAD for the words of that run and of the runs not stored (R102). -/
def failedStatuses (word : Nat) (runs : List StoreRun) (statuses : List WriteStatus) : List WriteStatus :=
  statuses.zipIdx.map fun (status, k) =>
    if runs.any fun r => r.first ≤ word + k && word + k < r.first + r.forms.length then .bad else status

/-- A store run has failed: the WRITE is answered LINK_FAILED (R101, R102). -/
def State.failRun (s : State) (t : Transaction) (work : StoreWork) : State :=
  s.setProgress (.answer (.write .linkFailed (failedStatuses (wordOf (firstAddress t)) work.runs work.statuses)))

/-- A store run has succeeded: the next run is asked for, or the WRITE is answered (R99, R102). -/
def State.finishRun (s : State) (work : StoreWork) : State :=
  match work.runs.tail with
  | [] =>
    s.setProgress (.answer (.write (if work.statuses.all (· == .good) then .okay else .dataError) work.statuses))
  | rest => s.setProgress (.store { work with runs := rest, dual := none })

/-! ## Words read -/

/-- What a read does with its words besides giving them to its requester: its source, the place it went to, whether it makes
POISON_READ records, and whether it offers CORRECTED words for write-back (R43, R83, R97, R127). -/
structure ReadUse where
  source : RecordSource
  block : Nat
  line : Nat
  recordsPoison : Bool
  offers : Bool
  deriving DecidableEq, Repr

/-- An offer to the write-back buffer: ignored, taken or dropped (R118). -/
def WriteBackBuffer.offer (b : WriteBackBuffer) (e : WriteBack) : WriteBackBuffer :=
  if b.entries.any fun x => x.block == e.block && x.line == e.line && x.word == e.word then b
  else if b.entries.length < 4 then { b with entries := b.entries ++ [e] }
  else { b with dropped := saturate (b.dropped + 1) }

/-- One word of a read: its record, then the watch table's count, then the write-back offer (R61, R81, R97, R127). `full` says
that the read has made its TRACKING_FULL record. -/
def State.takeWord (s : State) (use : ReadUse) (word : Nat) (fetched : StoredWord) (full : Bool) : State × Bool :=
  let location := locationOf s.settings use.block
  let offset := 16 * use.line + word
  let body (kind : RecordKind) : RecordBody :=
    { kind := kind, source := use.source, location := some location, offset := some offset }
  match classify fetched with
  | (.clean, _) => (s, full)
  | (.corrected, data) =>
    let noted := if s.settings.recordCorrected then s.makeRecord (body .corrected) else s
    let (counted, full) := noted.countOutcome use.source location offset false full
    if use.offers then
      ({ counted with
          writeBack := counted.writeBack.offer { block := use.block, line := use.line, word := word, data := data } },
        full)
    else (counted, full)
  | (.uncorrectable, _) => (s.makeRecord (body .uncorrectable)).countOutcome use.source location offset true full
  | (.poisoned, _) => (if use.recordsPoison then s.makeRecord (body .poisonRead) else s, full)

/-- The words of a read, one at a time in word index order, the first of them word `word` of the line (R81). -/
def State.takeWords (s : State) (use : ReadUse) (word : Nat) (fetched : List StoredWord) (full : Bool) : State :=
  match fetched with
  | [] => s
  | w :: rest =>
    let next := s.takeWord use word w full
    next.1.takeWords use (word + 1) rest next.2

/-- The word of a READ answer (R96). -/
def readAnswerWord (fetched : StoredWord) : ReadWord :=
  match classify fetched with
  | (.clean, d) => { data := d, status := .good }
  | (.corrected, d) => { data := d, status := .corrected }
  | (.poisoned, d) => { data := d, status := .poison }
  | (.uncorrectable, d) => { data := d, status := .bad }

/-- The answer of a READ whose fetch ended OK (R96). -/
def readAnswer (fetched : List StoredWord) : Answer :=
  let words := fetched.map readAnswerWord
  .read (if words.all fun w => w.status == .good || w.status == .corrected then .okay else .dataError) words

/-! ## Ends of the port's accesses -/

/-- How an access ends for its requester (R108). -/
inductive Ending where
  | ok (words : List StoredWord)
  | failed
  deriving DecidableEq, Repr

/-- The word statuses of a WRITE whose merge read failed (R98). -/
def mergeFailedStatuses (words : List WriteWord) : List WriteStatus :=
  words.map fun w => if w.enables = 0 then .good else .bad

/-- The fetch of a READ ends (R95 to R97). `block` is where it was routed. -/
def State.endFetch (s : State) (address block : Nat) (ending : Ending) : State :=
  match ending with
  | .failed => s.setProgress (.answer (.read .linkFailed []))
  | .ok words =>
    let use : ReadUse :=
      { source := .upstreamFetch, block := block, line := lineOf address, recordsPoison := true,
        offers := s.settings.repairOnRead }
    (s.takeWords use (wordOf address) words false).setProgress (.answer (readAnswer words))

/-- The merge read of a WRITE ends (R83, R98). -/
def State.endMergeRead (s : State) (address block : Nat) (list : List WriteWord) (ending : Ending) : State :=
  match ending with
  | .failed => s.setProgress (.answer (.write .linkFailed (mergeFailedStatuses list)))
  | .ok words =>
    let start := ((partialSpan list).map (·.1)).getD 0
    let use : ReadUse :=
      { source := .mergeRead, block := block, line := lineOf address, recordsPoison := true, offers := false }
    (s.takeWords use (wordOf address + start) words false).enterStore address start words list

/-- The end of the spare access of a dual store, by its case (R23, R101); the pending dual spare write has ended. -/
def State.endSpareStore (s : State) (t : Transaction) (work : StoreWork) (dual : DualWrite) (ending : Ending) : State :=
  match ending, dual.fate with
  | .ok _, _ => s.finishRun work
  | .failed, .inFlight => (s.finishRun work).abortMigration .targetFailed
  | .failed, .completed => s.failRun t work
  | .failed, .aborted => s.finishRun work

/-- A store access of the present run ends (R99, R101). A single access or the first of a dual store that ends OK finishes the
run or leaves the spare access to be asked for. -/
def State.endStore (s : State) (t : Transaction) (work : StoreWork) (spare : Bool) (ending : Ending) : State :=
  match spare, work.dual with
  | true, some dual => s.endSpareStore t { work with dual := none } dual ending
  | true, none => s
  | false, dual =>
    match ending, dual with
    | .failed, _ => s.failRun t { work with dual := none }
    | .ok _, none => s.finishRun work
    | .ok _, some _ => s

/-- An access of the transaction in progress has ended (R95, R98, R101). `spare` marks the spare access of a dual store, and
`block` is the downstream block the access went to. -/
def State.endUpstream (s : State) (spare : Bool) (block : Nat) (ending : Ending) : State :=
  match s.upstream.progress, s.current with
  | .fetch, some t => s.endFetch (firstAddress t) block ending
  | .mergeRead, some (.write address _ words) => s.endMergeRead address block words ending
  | .store work, some t => s.endStore t work spare ending
  | _, _ => s

/-- While the link is DOWN the port's request is ended LINK_FAILED without issue (R103, R114); a store that waited on a held
line asks then and ends so too (R100). -/
def State.endWithoutIssue (s : State) : State :=
  if s.port.link = .down ∧ s.upstream.progress.needsAccess = true ∧ s.awaiting .upstream = false then
    s.endUpstream s.dualPending 0 .failed
  else s

/-- What follows a change at once: the port's request ends without issue while the link is DOWN, and a spare access so ended
may be followed by the next run's, which ends so as well; then the engine tries, if its conditions hold (R38, R101, R114). -/
def State.settle (s : State) : State := s.endWithoutIssue.endWithoutIssue.tryStart

end Sys2Proof.Machine
end

