-- ==== Sys2Proof/Machine/ScrubOps.lean ====
section
/-! DEFINITION. Machine/ScrubOps.lean: the scrubber's timer, position, withdrawal and the end of its read (R123 to R132). -/

namespace Sys2Proof.Machine

/-- The three conditions under which the interval timer runs (R124). -/
def State.timerMayRun (s : State) : Bool :=
  s.mode == .online && s.settings.scrubEnable && s.port.link == .up

/-- The timer follows its conditions: it starts from 0 when they come to hold, keeps its time while they hold, and stops when
one ceases (R124). -/
def State.followTimer (s : State) : State :=
  { s with
    scrubber := { s.scrubber with
      timer := if s.timerMayRun then some (s.scrubber.timer.getD 0) else none } }

/-- The timer starts again from 0 if its conditions hold, and is stopped otherwise (R124, R125). -/
def State.restartTimer (s : State) : State :=
  { s with scrubber := { s.scrubber with timer := if s.timerMayRun then some 0 else none } }

/-- A DUE or PENDING scrub is withdrawn: a waiting request goes and its pass-over count returns to 0; an outstanding read's
result is discarded (R130, R117). -/
def State.withdrawScrub (s : State) : State :=
  let s := match s.scrubber.state with
    | .pending => s.discardOutstanding .scrub
    | .idle | .due => s
  { s with
    scrubber := { s.scrubber with state := .idle }
    port := { s.port with scrubPassed := 0 } }

/-- The interval timer expires: it starts again from 0, and an IDLE scrubber goes DUE; otherwise the expiry is lost (R125). A
stopped timer does not expire. -/
def State.expireInterval (s : State) : State :=
  match s.scrubber.timer with
  | none => s
  | some _ =>
    { s with
      scrubber := { s.scrubber with
        timer := some 0
        state := match s.scrubber.state with
          | .idle => .due
          | .due => .due
          | .pending => .pending } }

/-- The end of a pass: the pass count rises and the watch table decays (R129, R70). -/
def State.endPass (s : State) : State :=
  { s with
    scrubber := { s.scrubber with passCount := s.scrubber.passCount + 1 }
    watch := s.watch.decay }

/-- The position moves to the next line of the visible area (R129). -/
def State.advanceScrub (s : State) : State :=
  if s.scrubber.line < 15 then { s with scrubber := { s.scrubber with line := s.scrubber.line + 1 } }
  else if s.scrubber.block + 1 < s.settings.visible then
    { s with scrubber := { s.scrubber with block := s.scrubber.block + 1, line := 0 } }
  else State.endPass { s with scrubber := { s.scrubber with block := 0, line := 0 } }

/-- The scrub read ends: its words are handed on, the position advances, and the scrubber goes IDLE (R127 to R129). -/
def State.endScrub (s : State) (block line : Nat) (ending : Ending) : State :=
  let s := match ending with
    | .ok words =>
      s.takeWords { source := .scrub, block := block, line := line, recordsPoison := true, offers := true } 0 words false
    | .failed => s
  let s := s.advanceScrub
  { s with scrubber := { s.scrubber with state := .idle } }

end Sys2Proof.Machine
end

