-- ==== Sys2Proof/Machine/PortOps.lean ====
section
/-! DEFINITION. Machine/PortOps.lean: the memory-side port, its arbiter and the copy accesses: who waits, the grant and the
issue of an access, and the ends of accesses (R42 to R48, R107 to R120). -/

namespace Sys2Proof.Machine

/-! ## Waiting requests and the choice (R116, R117) -/

/-- Whether a requester has a request waiting: its state calls for an access, and none of its own whose result it will take
is outstanding (R116). The write-back buffer asks only while no write-back of its own is outstanding at all (R120). While
the link is DOWN no request waits (R114). -/
def State.waiting (s : State) (r : Requester) : Bool :=
  s.port.link == .up &&
  match r with
  | .upstream => s.upstream.progress.needsAccess && !s.awaiting .upstream && !s.waitsOnHeldLine
  | .writeBack =>
    !s.writeBack.entries.isEmpty &&
    match s.port.outstanding with
    | some a => a.purpose != .writeBack
    | none => true
  | .migration =>
    !s.awaiting .migration &&
    match s.migration.engine with
    | .copying _ => true
    | .idle | .blocked => false
  | .scrub => s.scrubber.state == .due

/-- Whether a requester's request is among those a grant chooses from. `busy` holds the requesters that an ending not yet taken
keeps out (`State.busyAfter`); at a grant with no such ending it is empty (R116). -/
def State.candidate (s : State) (busy : List Requester) (r : Requester) : Bool := !busy.contains r && s.waiting r

/-- The arbiter's choice: a waiting requester with count 32, MIGRATION before SCRUB, else the first waiting one in the base
order (R117). -/
def State.choose (s : State) (busy : List Requester) : Option Requester :=
  if s.candidate busy .migration ∧ s.port.migrationPassed = 32 then some .migration
  else if s.candidate busy .scrub ∧ s.port.scrubPassed = 32 then some .scrub
  else [Requester.upstream, .writeBack, .migration, .scrub].find? (s.candidate busy)

/-- A pass-over count after a grant: 0 for the requester granted or with no request, else one more, up to 32 (R117). -/
def passOver (granted waiting : Bool) (count : Nat) : Nat :=
  if granted then 0 else if waiting then min (count + 1) 32 else 0

/-- The pass-over counts after the grant to `r` (R117). -/
def State.countPassOver (s : State) (busy : List Requester) (r : Requester) : State :=
  { s with
    port := { s.port with
      migrationPassed := passOver (r == .migration) (s.candidate busy .migration) s.port.migrationPassed
      scrubPassed := passOver (r == .scrub) (s.candidate busy .scrub) s.port.scrubPassed } }

/-! ## The issue (R108, R109, R119) -/

/-- The tag of the next access: the tag last given plus 1, skipping every abandoned tag (R109). -/
def nextTag (last : Tag) (abandoned : List Tag) : Tag :=
  (((List.range 16).map fun k => last + 1 + BitVec.ofNat 4 k).find? fun t => !abandoned.contains t).getD (last + 1)

/-- Whether a write-back entry's word lies in a run (R119). -/
def WriteBack.coveredBy (e : WriteBack) (block line first count : Nat) : Bool :=
  e.block == block && e.line == line && first ≤ e.word && e.word < first + count

/-- The access is issued: it gets its tag and its timer, and a WRITE_RUN other than a write-back cancels the write-back
entries whose words it covers (R108, R109, R119). -/
def State.issue (s : State) (purpose : Purpose) (block line first count : Nat) (words : List StoredWord) : State :=
  let tag := nextTag s.port.lastTag s.port.abandoned
  let s : State :=
    { s with
      port := { s.port with
        lastTag := tag
        outstanding := some
          { purpose := purpose, block := block, line := line, first := first, count := count, words := words, tag := tag,
            elapsed := 0, discarded := false } } }
  if purpose.isWrite ∧ purpose ≠ .writeBack then
    { s with
      writeBack := { s.writeBack with
        entries := s.writeBack.entries.filter fun e => !e.coveredBy block line first count } }
  else s

/-! ## What each requester's grant does -/

/-- The forms of a run with the armed injection applied to the word it names (R87). `address` is the run's first word
address. -/
def injectRun (i : Injection) (address : Nat) (forms : List StoredWord) : List StoredWord :=
  forms.zipIdx.map fun (form, k) => if address + k = i.address then injectForm i.kind form else form

/-- At the grant of a store access the armed record is applied if it names a word of the run: the forms change, the record is
disarmed, and an INJECT_APPLIED record is made (R87). -/
def State.applyInjection (s : State) (address : Nat) (forms : List StoredWord) : State × List StoredWord :=
  match s.injection with
  | none => (s, forms)
  | some i =>
    if address ≤ i.address ∧ i.address < address + forms.length then
      let s : State := { s with injection := none }
      (s.makeRecord
        { kind := .injectApplied, source := .management, location := some (.visible (blockOf i.address)),
          offset := some (i.address % 256) }, injectRun i address forms)
    else (s, forms)

/-- An upstream store to line `line` of visible block `block` is granted: if that line is in flight, it is overtaken (R47). -/
def State.markOvertaken (s : State) (block line : Nat) : State :=
  match s.migration.engine with
  | .copying work =>
    match entryAt s.remap work.target with
    | .copying source _ cursor _ =>
      if work.inFlight = true ∧ source = block ∧ cursor = line then
        { s with migration := { s.migration with engine := .copying { work with overtaken := true } } }
      else s
    | .unused | .free | .active _ _ | .leaving _ _ | .retired _ => s
  | .idle | .blocked => s

/-- The grant of the first or single access of the present store run (R21, R22, R47, R87, R99). -/
def State.grantRun (s : State) (address : Nat) (work : StoreWork) (run : StoreRun) : State :=
  let b := blockOf address
  let l := lineOf address
  let route := storeRoute s.settings.visible s.remap b l
  let (s, forms) := s.applyInjection (256 * b + 16 * l + run.first) run.forms
  let s := s.markOvertaken b l
  match route.2 with
  | none => s.issue .storeSingle route.1 l run.first forms.length forms
  | some target =>
    let s := s.setProgress (.store { work with dual := some { block := target, forms := forms, fate := .inFlight } })
    s.issue .storeFirst route.1 l run.first forms.length forms

/-- The grant of the upstream port's request (R95, R98, R99). DESIGN CHOICE (log entry 17), unsafe: the spare access of a dual store
carries the stored forms fixed at the first grant, and a record armed between the two grants stays armed for a later write. -/
def State.grantUpstream (s : State) : State :=
  match s.upstream.progress, s.current with
  | .fetch, some t =>
    let a := firstAddress t
    s.issue .fetch (readRoute s.settings.visible s.remap (blockOf a) (lineOf a)) (lineOf a) (wordOf a) (statedLength t) []
  | .mergeRead, some (.write a _ words) =>
    match partialSpan words with
    | some (first, last) =>
      s.issue .mergeRead (readRoute s.settings.visible s.remap (blockOf a) (lineOf a)) (lineOf a) (wordOf a + first)
        (last + 1 - first) []
    | none => s
  | .store work, some t =>
    match work.runs, work.dual with
    | run :: _, none => s.grantRun (firstAddress t) work run
    | run :: _, some dual =>
      s.issue .storeSpare dual.block (lineOf (firstAddress t)) run.first dual.forms.length dual.forms
    | [], _ => s
  | _, _ => s

/-- The grant of the oldest write-back (R120). -/
def State.grantWriteBack (s : State) : State :=
  match s.writeBack.entries with
  | [] => s
  | e :: _ => s.issue .writeBack e.block e.line e.word 1 [cleanForm e.data]

/-- The grant of a copy access: the copy read puts the line in flight and begins a held attempt's hold (R42, R44, R48). -/
def State.grantCopy (s : State) (work : CopyWork) : State :=
  match entryAt s.remap work.target with
  | .copying source copyFrom cursor _ =>
    match work.phase with
    | .reading =>
      let work := { work with inFlight := true, holding := work.held }
      let s : State := { s with migration := { s.migration with engine := .copying work } }
      s.issue .copyRead (fromBlock s.settings.visible source copyFrom) cursor 0 16 []
    | .writing buffer => s.issue .copyWrite (s.settings.visible + work.target) cursor 0 16 buffer
  | .unused | .free | .active _ _ | .leaving _ _ | .retired _ => s

/-- The grant of the migration engine's request. -/
def State.grantMigration (s : State) : State :=
  match s.migration.engine with
  | .copying work => s.grantCopy work
  | .idle | .blocked => s

/-- The grant of a DUE scrub: it goes PENDING, and its read is routed as a read (R126). -/
def State.grantScrub (s : State) : State :=
  let s : State := { s with scrubber := { s.scrubber with state := .pending } }
  s.issue .scrubRead (readRoute s.settings.visible s.remap s.scrubber.block s.scrubber.line) s.scrubber.line 0 16 []

/-- The arbiter's grant: with no access outstanding, the link UP and a request waiting, it chooses one and issues its access
(R108, R116, R117); else there is no grant. -/
def State.grant (s : State) (busy : List Requester) : State :=
  match s.port.outstanding, s.choose busy with
  | none, some r =>
    let s := s.countPassOver busy r
    match r with
    | .upstream => s.grantUpstream
    | .writeBack => s.grantWriteBack
    | .migration => s.grantMigration
    | .scrub => s.grantScrub
  | _, _ => s

/-! ## Ends of the engine's and the buffer's accesses -/

/-- The copy read ends (R42, R43, R45). `block` is the from-location's. -/
def State.endCopyRead (s : State) (block line : Nat) (ending : Ending) : State :=
  match s.migration.engine, ending with
  | .copying work, .ok words =>
    let s : State :=
      { s with
        migration := { s.migration with engine := .copying { work with phase := .writing (words.map copyForm) } } }
    s.takeWords { source := .copy, block := block, line := line, recordsPoison := false, offers := false } 0 words false
  | .copying work, .failed =>
    if work.attempt < 3 then
      { s with
        migration := { s.migration with
          engine := .copying { work with attempt := work.attempt + 1, inFlight := false, overtaken := false } } }
    else s.abortMigration .readFailed
  | .idle, _ => s
  | .blocked, _ => s

/-- The copy write ends (the table of R44; R49, R50). -/
def State.endCopyWrite (s : State) (line : Nat) (ending : Ending) : State :=
  match s.migration.engine, ending with
  | .copying work, .ok _ =>
    if work.overtaken then
      { s with
        migration := { s.migration with
          engine := .copying (CopyWork.attemptAt work.target (work.overtakes + 1)) } }
    else if line < 15 then
      { s with
        remap := advanceCursor s.remap work.target
        migration := { s.migration with engine := .copying (CopyWork.attemptAt work.target 0) } }
    else s.completeMigration work
  | .copying _, .failed => s.abortMigration .targetFailed
  | .idle, _ => s
  | .blocked, _ => s

/-- A write-back ends: its entry leaves the buffer, however it ended (R120). -/
def State.endWriteBack (s : State) (a : Access) : State :=
  { s with
    writeBack := { s.writeBack with
      entries := s.writeBack.entries.filter fun e => !e.coveredBy a.block a.line a.first 1 } }

/-- The words a READ_RUN that ended OK brought: those the response carries, up to the run's count; one it should have carried
and did not is a free value (R107, R111; log entry 4). -/
def State.receive (s : State) (a : Access) (words : List StoredWord) : State × List StoredWord :=
  let missing := a.count - words.length
  ({ s with freeIndex := s.freeIndex + missing },
    words.take a.count ++ (List.range missing).map fun k => Config.unsentWord (s.freeIndex + k))

/-- The ending of an access is handed to its requester, unless its result is discarded (R108). -/
def State.hand (s : State) (a : Access) (ending : Ending) : State :=
  if a.discarded then s
  else
    match a.purpose with
    | .fetch | .mergeRead | .storeSingle | .storeFirst => s.endUpstream false a.block ending
    | .storeSpare => s.endUpstream true a.block ending
    | .copyRead => s.endCopyRead a.block a.line ending
    | .copyWrite => s.endCopyWrite a.line ending
    | .scrubRead => s.endScrub a.block a.line ending
    | .writeBack => s.endWriteBack a

/-- The ending OK of an access, with the words it takes (R111). -/
def State.handOk (s : State) (a : Access) (words : List StoredWord) : State :=
  if a.discarded = true ∨ a.purpose.isWrite = true then s.hand a (.ok [])
  else
    let received := s.receive a words
    received.1.hand a (.ok received.2)

/-! ## Ends at the port (R111 to R113) -/

/-- Whether a failed access is the spare access of a dual store whose migration is in flight: its ending aborts that migration
(R23, R50). -/
def State.abortsCopy (s : State) (a : Access) (failed : Bool) : Bool :=
  failed && !a.discarded && a.purpose == .storeSpare &&
  match s.upstream.progress with
  | .store work => work.dual.any fun d => d.fate == .inFlight
  | .idle | .fetch | .mergeRead | .answer _ => false

/-- The requesters with no request to grant when the next grant is taken before an access's ending is: the one who made the
access and has not yet taken its ending (R116, R120), and the engine, when the ending aborts its migration and so withdraws its
copy access, which is never outstanding at such an abort (R51). -/
def State.busyAfter (s : State) (a : Access) (failed : Bool) : List Requester :=
  (if a.purpose = .writeBack then [.writeBack]
    else if a.discarded then []
    else [a.purpose.requester])
  ++ if s.abortsCopy a failed then [.migration] else []

/-- The record of a failed access (R112). -/
def linkRecord (c : Settings) (kind : RecordKind) (a : Access) : RecordBody where
  kind := kind
  source := if a.purpose = .writeBack then .writeBack else .link
  location := some (locationOf c a.block)
  offset := some (16 * a.line + a.first)

/-- The slot freed: no access outstanding, the timer stopped (R108, R110). -/
def State.freeSlot (s : State) : State := { s with port := { s.port with outstanding := none } }

/-- The next grant, if it is taken before the requester takes the ending (R19, R47, R116). -/
def State.grantIfFirst (s : State) (grantFirst : Bool) (a : Access) (failed : Bool) : State :=
  if grantFirst then s.grant (s.busyAfter a failed) else s

/-- The link goes DOWN: a LINK_DOWN record, the interval timer stopped, a DUE scrub withdrawn, and the waiting requests'
pass-over counts at 0 (R113, R114, R117, R124, R130). -/
def State.linkGoesDown (s : State) : State :=
  let s := s.makeRecord { kind := .linkDown, source := .link }
  { s with
    port := { s.port with link := .down, migrationPassed := 0, scrubPassed := 0 }
    scrubber := { s.scrubber with
      timer := none
      state := match s.scrubber.state with
        | .idle => .idle
        | .due => .idle
        | .pending => .pending } }

/-- The response timer of the outstanding access expires: the access ends LINK_FAILED, its tag joins the abandoned set, a
LINK_TIMEOUT record is made, and the set's eighth tag takes the link DOWN (R110, R111, R113). With no access outstanding
the timer does not run. -/
def State.expireResponse (s : State) (grantFirst : Bool) : State :=
  match s.port.outstanding with
  | none => s
  | some a =>
    let s := s.freeSlot
    let s : State := { s with port := { s.port with abandoned := s.port.abandoned ++ [a.tag] } }
    let s := s.makeRecord (linkRecord s.settings .linkTimeout a)
    let s := if 8 ≤ s.port.abandoned.length then s.linkGoesDown else s
    ((s.grantIfFirst grantFirst a true).hand a .failed).settle

/-- A response that does not answer the outstanding access: late, its tag leaves the abandoned set; or foreign, a LINK_FAULT
record with detail UNEXPECTED_TAG (R111). -/
def State.strayResponse (s : State) (tag : Tag) : State :=
  if tag ∈ s.port.abandoned then { s with port := { s.port with abandoned := s.port.abandoned.erase tag } }
  else s.makeRecord { kind := .linkFault, source := .link, detail := some .unexpectedTag }

/-- A response with the current tag ends the outstanding access (R111). -/
def State.answerAccess (s : State) (a : Access) (result : MemResult) (words : List StoredWord) (grantFirst : Bool) :
    State :=
  match result with
  | .ok => ((s.freeSlot.grantIfFirst grantFirst a false).handOk a words).settle
  | .fault =>
    let s := s.freeSlot.makeRecord (linkRecord s.settings .linkFault a)
    ((s.grantIfFirst grantFirst a true).hand a .failed).settle

/-- A response reaches the port (the table of R111). -/
def State.takeResponse (s : State) (tag : Tag) (result : MemResult) (words : List StoredWord) (grantFirst : Bool) :
    State :=
  match s.port.outstanding with
  | some a => if a.tag = tag then s.answerAccess a result words grantFirst else s.strayResponse tag
  | none => s.strayResponse tag

end Sys2Proof.Machine
end

