-- ==== Sys2Proof/Machine/TimeOps.lean ====
section
/-! DEFINITION. Machine/TimeOps.lean: the two timers compared with their limits, and the passing of one microsecond (R110,
R125; log entry 1). -/

namespace Sys2Proof.Machine

/-- The response timer compared with LINK_TIMEOUT: at or above it, it expires (R110). -/
def State.checkResponseTimer (s : State) : State :=
  match s.port.outstanding with
  | some a => if s.settings.linkTimeout ≤ a.elapsed then s.expireResponse false else s
  | none => s

/-- The interval timer compared with SCRUB_INTERVAL: at or above it, it expires (R125). -/
def State.checkIntervalTimer (s : State) : State :=
  match s.scrubber.timer with
  | some time => if s.settings.scrubInterval ≤ time then s.expireInterval else s
  | none => s

/-- Both running timers one microsecond later. -/
def State.passMicrosecond (s : State) : State :=
  { s with
    port := { s.port with outstanding := s.port.outstanding.map fun a => { a with elapsed := a.elapsed + 1 } }
    scrubber := { s.scrubber with timer := s.scrubber.timer.map (· + 1) } }

/-- One microsecond passes while no command waits: DESIGN CHOICE, the response timer is compared first (log entry 1). -/
def State.tick (s : State) : State := s.passMicrosecond.checkResponseTimer.checkIntervalTimer

end Sys2Proof.Machine
end

