-- ==== Sys2Proof/Machine/ConfigCommands.lean ====
section
/-! DEFINITION. Machine/ConfigCommands.lean: READ_STATUS, READ_CONFIG, WRITE_CONFIG and the items with rows of their own
(R3, R15, R16, R67, R110, R125, R131, R140 to R144, R151, R152, R159 to R161). -/

namespace Sys2Proof.Machine

/-- READ_STATUS (R159). -/
def execReadStatus (address : BusAddress) (args : List Byte) (s : State) : Host.Outcome State Fault Refusal :=
  .next (s.takeCommand address args 0 fun s => s.respond .ok (statusPayload s))

/-- The answer to READ_CONFIG of an item (R160). -/
def State.readItem (s : State) (item : Byte) : State :=
  match itemValue s.settings item with
  | some value => s.respond .ok (item :: leBytes 4 value)
  | none => s.answerStatus .badArgument

/-- READ_CONFIG (R160). -/
def execReadConfig (address : BusAddress) (args : List Byte) (s : State) : Host.Outcome State Fault Refusal :=
  .next (s.takeCommand address args 1 fun s => s.readItem (args.getD 0 0))

/-! ## Writing an item -/

/-- A write of a value outside `low`..`high` is refused BAD_ARGUMENT (R161). -/
def State.ranged (s : State) (low high value : Nat) (effect : State → State) : State :=
  if low ≤ value ∧ value ≤ high then effect s else s.answerStatus .badArgument

/-- A geometry item is written in OFFLINE only (R151). -/
def State.offlineOnly (s : State) (effect : State → State) : State :=
  if s.mode = .offline then effect s else s.answerStatus .wrongMode

/-- The requests and watch entries of locations that no longer exist removed; each request removed frees a place (R152). -/
def State.pruneTables (s : State) : State :=
  let kept := s.migration.queue.filter fun r => locationExists s.settings r.location
  let freed := s.migration.queue.length - kept.length
  let s : State := { s.setQueue kept with watch := s.watch.prune s.settings }
  State.placesFreed freed s

/-- A write of D (R6, R151). -/
def State.writeDownstream (s : State) (value : Nat) : State :=
  s.offlineOnly fun s => s.ranged 1 131072 value fun s =>
    let s : State := { s with settings := { s.settings with downstream := value } }
    s.answerStatus .ok

/-- A write of V: guarded by the sources, it empties the write-back buffer, prunes the tables and sets the scrub position to
0/0 (R16, R121, R131, R151, R152). -/
def State.writeVisible (s : State) (value : Nat) : State :=
  s.offlineOnly fun s => s.ranged 1 131072 value fun s =>
    if sourceAtOrAbove s.remap value then s.answerStatus .conflict
    else
      let s : State := { s with settings := { s.settings with visible := value } }
      let s := s.emptyWriteBack.pruneTables
      let s : State := { s with scrubber := { s.scrubber with block := 0, line := 0 } }
      s.answerStatus .ok

/-- A write of S: entries become FREE or UNUSED, the write-back buffer is emptied and the tables are pruned (R15, R121, R151,
R152). -/
def State.writeSpares (s : State) (value : Nat) : State :=
  s.offlineOnly fun s => s.ranged 0 64 value fun s =>
    if loweringBlocked s.remap s.settings.spares value then s.answerStatus .conflict
    else
      let s : State :=
        { s with
          remap := resizeEntries s.remap s.settings.spares value
          settings := { s.settings with spares := value } }
      s.emptyWriteBack.pruneTables.answerStatus .ok

/-- AUTO_SPARE written on offers the WAITING entries, oldest first, until none is left or the queue is full; the request that
joins may let the engine try at once (R67, R38). `fuel` bounds the offers by the 32 slots. -/
def State.offerAll : Nat → State → State
  | 0, s => s
  | fuel + 1, s =>
    if s.watch.oldestWaiting.isSome ∧ s.migration.queue.length < 8 then State.offerAll fuel s.offerWaiting.tryStart
    else s

/-- A write of AUTO_SPARE (R67). -/
def State.writeAutoSpare (s : State) (value : Nat) : State :=
  s.ranged 0 1 value fun s =>
    let s : State := { s with settings := { s.settings with autoSpare := value == 1 } }
    let s := if s.settings.autoSpare then State.offerAll 32 s else s
    s.answerStatus .ok

/-- A write of SCRUB_ENABLE: on starts the timer where R124 allows, off stops it and withdraws a scrub (R124, R130, R131). -/
def State.writeScrubEnable (s : State) (value : Nat) : State :=
  s.ranged 0 1 value fun s =>
    let s : State := { s with settings := { s.settings with scrubEnable := value == 1 } }
    let s := if s.settings.scrubEnable then s else s.withdrawScrub
    s.followTimer.answerStatus .ok

/-- A write of SCRUB_INTERVAL, compared at once with the running timer (R125). -/
def State.writeScrubInterval (s : State) (value : Nat) : State :=
  s.ranged 1 65535 value fun s =>
    let s : State := { s with settings := { s.settings with scrubInterval := value } }
    s.checkIntervalTimer.answerStatus .ok

/-- A write of LINK_TIMEOUT, compared at once with the running response timer (R110). -/
def State.writeLinkTimeout (s : State) (value : Nat) : State :=
  s.ranged 8 1023 value fun s =>
    let s : State := { s with settings := { s.settings with linkTimeout := value } }
    s.checkResponseTimer.answerStatus .ok

/-- A write of ALERT_ENABLES, no bit set beyond the five flag bits (R144, R161). -/
def State.writeAlertEnables (s : State) (value : Nat) : State :=
  s.ranged 0 31 value fun s =>
    let s : State := { s with settings := { s.settings with alertEnables := flagsOfNat value } }
    s.answerStatus .ok

/-- A write of ALERT_DEPTH (R140). -/
def State.writeAlertDepth (s : State) (value : Nat) : State :=
  s.ranged 1 16 value fun s =>
    let s : State := { s with settings := { s.settings with alertDepth := value } }
    s.answerStatus .ok

/-- A write of SPARE_LOW_MARK (R141). -/
def State.writeSpareLowMark (s : State) (value : Nat) : State :=
  s.ranged 0 64 value fun s =>
    let s : State := { s with settings := { s.settings with spareLowMark := value } }
    s.answerStatus .ok

/-- A write of CORRECTED_LIMIT (R73). -/
def State.writeCorrectedLimit (s : State) (value : Nat) : State :=
  s.ranged 1 255 value fun s =>
    let s : State := { s with settings := { s.settings with correctedLimit := value } }
    s.answerStatus .ok

/-- A write of WORD_LIMIT (R73). -/
def State.writeWordLimit (s : State) (value : Nat) : State :=
  s.ranged 1 4 value fun s =>
    let s : State := { s with settings := { s.settings with wordLimit := value } }
    s.answerStatus .ok

/-- A write of REPAIR_ON_READ (R97, R161). -/
def State.writeRepairOnRead (s : State) (value : Nat) : State :=
  s.ranged 0 1 value fun s =>
    let s : State := { s with settings := { s.settings with repairOnRead := value == 1 } }
    s.answerStatus .ok

/-- A write of RECORD_CORRECTED (R97, R127, R161). -/
def State.writeRecordCorrected (s : State) (value : Nat) : State :=
  s.ranged 0 1 value fun s =>
    let s : State := { s with settings := { s.settings with recordCorrected := value == 1 } }
    s.answerStatus .ok

/-- A write of any item, by its code; an unknown one is refused BAD_ARGUMENT (R160, R161). -/
def State.writeItem (s : State) (item : Byte) (value : Nat) : State :=
  match item with
  | 0x01#8 => s.writeVisible value
  | 0x02#8 => s.writeDownstream value
  | 0x03#8 => s.writeSpares value
  | 0x04#8 => s.writeCorrectedLimit value
  | 0x05#8 => s.writeWordLimit value
  | 0x06#8 => s.writeAutoSpare value
  | 0x07#8 => s.writeRepairOnRead value
  | 0x08#8 => s.writeScrubEnable value
  | 0x09#8 => s.writeScrubInterval value
  | 0x0A#8 => s.writeLinkTimeout value
  | 0x0B#8 => s.writeRecordCorrected value
  | 0x0C#8 => s.writeAlertEnables value
  | 0x0D#8 => s.writeAlertDepth value
  | 0x0E#8 => s.writeSpareLowMark value
  | _ => s.answerStatus .badArgument

/-- WRITE_CONFIG: the item code and the value as 4 bytes (R161). -/
def execWriteConfig (address : BusAddress) (args : List Byte) (s : State) : Host.Outcome State Fault Refusal :=
  .next (s.takeCommand address args 5 fun s => s.writeItem (args.getD 0 0) (leValue (args.drop 1)))

/-- DOWNSTREAM_BLOCKS (R6, R151). -/
def execDownstreamBlocks (address : BusAddress) (value : Word) (s : State) : Host.Outcome State Fault Refusal :=
  .next (s.takeFrame address fun s => s.writeDownstream value.toNat)

/-- VISIBLE_BLOCKS (R16, R151). -/
def execVisibleBlocks (address : BusAddress) (value : Word) (s : State) : Host.Outcome State Fault Refusal :=
  .next (s.takeFrame address fun s => s.writeVisible value.toNat)

/-- SPARE_COUNT (R15, R151). -/
def execSpareCount (address : BusAddress) (value : Word) (s : State) : Host.Outcome State Fault Refusal :=
  .next (s.takeFrame address fun s => s.writeSpares value.toNat)

/-- AUTO_SPARE (R67). -/
def execAutoSpare (address : BusAddress) (value : Word) (s : State) : Host.Outcome State Fault Refusal :=
  .next (s.takeFrame address fun s => s.writeAutoSpare value.toNat)

/-- SCRUB_ENABLE (R131). -/
def execScrubEnable (address : BusAddress) (value : Word) (s : State) : Host.Outcome State Fault Refusal :=
  .next (s.takeFrame address fun s => s.writeScrubEnable value.toNat)

/-- SCRUB_INTERVAL (R125). -/
def execScrubInterval (address : BusAddress) (value : Word) (s : State) : Host.Outcome State Fault Refusal :=
  .next (s.takeFrame address fun s => s.writeScrubInterval value.toNat)

/-- LINK_TIMEOUT (R110). -/
def execLinkTimeout (address : BusAddress) (value : Word) (s : State) : Host.Outcome State Fault Refusal :=
  .next (s.takeFrame address fun s => s.writeLinkTimeout value.toNat)

/-- ALERT_ENABLES (R144). -/
def execAlertEnables (address : BusAddress) (value : Word) (s : State) : Host.Outcome State Fault Refusal :=
  .next (s.takeFrame address fun s => s.writeAlertEnables value.toNat)

/-- ALERT_DEPTH (R140). -/
def execAlertDepth (address : BusAddress) (value : Word) (s : State) : Host.Outcome State Fault Refusal :=
  .next (s.takeFrame address fun s => s.writeAlertDepth value.toNat)

/-- SPARE_LOW_MARK (R141). -/
def execSpareLowMark (address : BusAddress) (value : Word) (s : State) : Host.Outcome State Fault Refusal :=
  .next (s.takeFrame address fun s => s.writeSpareLowMark value.toNat)

end Sys2Proof.Machine
end

