-- ==== Sys2Proof/Machine/UpstreamEvents.lean ====
section
/-! DEFINITION. Machine/UpstreamEvents.lean: TRANSACTION_ACCEPTED and ANSWER_TAKEN (R91 to R94, R150). -/

namespace Sys2Proof.Machine

/-- The admission mark of a transaction accepted in a mode (R93). -/
def admissionMark (mode : Mode) : Mark :=
  match mode with
  | .online => .serve
  | .stopping => .refuse
  | .offline => .refuse

/-- A transaction joins the acceptance queue, and is in progress at once if the queue was empty (R91 to R94). -/
def State.accept (s : State) (t : Transaction) : State :=
  let held := s.upstream.held ++ [{ transaction := t, mark := admissionMark s.mode }]
  let joined : State := { s with upstream := { s.upstream with held := held } }
  if s.upstream.held.isEmpty then joined.beginHead.settle else joined

/-- TRANSACTION_ACCEPTED: a transaction presented is taken while fewer than 4 are held; else it is not taken (R91). -/
def execTransactionAccepted (t : Transaction) (s : State) : Host.Outcome State Fault Refusal :=
  .next (if s.upstream.held.length < 4 then s.accept t else s)

/-- Whether the upstream port holds a transaction marked SERVE (R93). -/
def State.holdsServe (s : State) : Bool := s.upstream.held.any fun h => h.mark == .serve

/-- STOPPING ends when no transaction marked SERVE is held (R150). -/
def State.endStopping (s : State) : State :=
  if s.mode = .stopping ∧ s.holdsServe = false then { s with mode := .offline } else s

/-- The oldest transaction leaves the queue, and the next becomes the one in progress (R92, R150). -/
def State.leaveQueue (s : State) : State :=
  let s : State := { s with upstream := { s.upstream with held := s.upstream.held.tail } }
  s.endStopping.beginHead.settle

/-- ANSWER_TAKEN: the interconnect takes the answer being given (R92); with none being given nothing is taken (log entry 9). -/
def execAnswerTaken (s : State) : Host.Outcome State Fault Refusal :=
  .next (match s.upstream.progress with
    | .answer _ => s.leaveQueue
    | .idle | .fetch | .mergeRead | .store _ => s)

end Sys2Proof.Machine
end

