-- ==== Sys2Proof/Machine/ModeCommands.lean ====
section
/-! DEFINITION. Machine/ModeCommands.lean: GO_ONLINE, GO_OFFLINE and CLEAR_LINK (R4, R115, R147 to R150, R162). -/

namespace Sys2Proof.Machine

/-- The geometry check (R4). -/
def geometryOk (c : Settings) : Bool := 1 ≤ c.visible && c.visible + c.spares ≤ c.downstream

/-- An accepted GO_ONLINE: the mode, the interval timer, the engine's try (R148). -/
def State.enterOnline (s : State) : State :=
  let s : State := { s with mode := .online }
  s.followTimer.tryStart

/-- What GO_ONLINE does in each mode (R147). -/
def State.goOnline (s : State) : State :=
  match s.mode with
  | .offline => if geometryOk s.settings then s.enterOnline.answerStatus .ok else s.answerStatus .badArgument
  | .online => s.answerStatus .ok
  | .stopping => s.answerStatus .busy

/-- GO_ONLINE (R147). -/
def execGoOnline (address : BusAddress) (args : List Byte) (s : State) : Host.Outcome State Fault Refusal :=
  .next (s.takeCommand address args 0 State.goOnline)

/-- GO_OFFLINE taken in ONLINE: STOPPING, the migration aborted, the scrub withdrawn, the buffer emptied; and OFFLINE at once
when no transaction marked SERVE is held (R149). -/
def State.leaveOnline (s : State) : State :=
  let s : State := { s with mode := .stopping }
  let s := (s.stopEngine .stopped).withdrawScrub.followTimer.emptyWriteBack
  s.endStopping

/-- What GO_OFFLINE does in each mode (R149). -/
def State.goOffline (s : State) : State :=
  match s.mode with
  | .online => s.leaveOnline.answerStatus .ok
  | .offline => s.answerStatus .ok
  | .stopping => s.answerStatus .ok

/-- GO_OFFLINE (R149). -/
def execGoOffline (address : BusAddress) (args : List Byte) (s : State) : Host.Outcome State Fault Refusal :=
  .next (s.takeCommand address args 0 State.goOffline)

/-- The abandoned set emptied and the link UP; the timer may start and the engine may try (R115, R124, R38). -/
def State.clearLink (s : State) : State :=
  let s : State := { s with port := { s.port with abandoned := [], link := .up } }
  s.followTimer.tryStart

/-- CLEAR_LINK (R115). -/
def execClearLink (address : BusAddress) (args : List Byte) (s : State) : Host.Outcome State Fault Refusal :=
  .next (s.takeCommand address args 0 fun s => s.clearLink.answerStatus .ok)

end Sys2Proof.Machine
end

