-- ==== Sys2Proof/Machine/QueueCommands.lean ====
section
/-! DEFINITION. Machine/QueueCommands.lean: REQUEST_SPARE, CANCEL_REQUEST and READ_QUEUE (R34, R36, R54, R165). -/

namespace Sys2Proof.Machine

/-- The first check of R34 that refuses a request for a location, if one does. -/
def State.requestRefusal (s : State) (location : Location) : Option Status :=
  if locationExists s.settings location = false then some .badArgument
  else
    match location with
    | .spare j =>
      if (entryAt s.remap j).isActive = false then some .badArgument
      else if s.hasRequest location then some .duplicate
      else if 8 ≤ s.migration.queue.length then some .full
      else none
    | .visible b =>
      if (entryFor s.remap b).isSome then some .alreadySpared
      else if s.hasRequest location then some .duplicate
      else if 8 ≤ s.migration.queue.length then some .full
      else none

/-- REQUEST_SPARE: a MANUAL request joins, a TRACKING or WAITING entry of the location becomes QUEUED, and the engine may try
(R34, R69, R38). -/
def State.requestSpare (s : State) (location : Location) : State :=
  match s.requestRefusal location with
  | some status => s.answerStatus status
  | none => ((s.queueEntry location).joinQueue location .manual).tryStart.answerStatus .ok

/-- A command that takes a location: its kind byte is checked first (R165). -/
def State.withLocation (s : State) (args : List Byte) (effect : State → Location → State) : State :=
  match locationOfBytes (args.getD 0 0) (args.getD 1 0) (args.getD 2 0) (args.getD 3 0) with
  | some location => effect s location
  | none => s.answerStatus .badArgument

/-- REQUEST_SPARE (R34). -/
def execRequestSpare (address : BusAddress) (args : List Byte) (s : State) : Host.Outcome State Fault Refusal :=
  .next (s.takeCommand address args 4 fun s => s.withLocation args State.requestSpare)

/-- A request that is not the migration in flight is removed from wherever it stands; its watch entry is demoted and cleared,
and the place frees (R53, R54). -/
def State.removeRequest (s : State) (location : Location) : State :=
  let s := s.setQueue (s.migration.queue.filter fun r => r.location != location)
  let s : State := { s with watch := s.watch.modify location WatchEntry.demoteCleared }
  s.placeFreed

/-- Whether the head of the queue names a location. -/
def State.headNames (s : State) (location : Location) : Bool :=
  match s.migration.queue with
  | r :: _ => r.location == location
  | [] => false

/-- The removal of the request for a location: an abort if it is the migration in flight; an unblocking if it is the head of a
BLOCKED engine (R40, R51, R54). -/
def State.cancelRequest (s : State) (location : Location) : State :=
  match s.migration.engine with
  | .copying _ => if s.headNames location then s.abortMigration .cancelled else s.removeRequest location
  | .blocked =>
    if s.headNames location then
      State.removeRequest { s with migration := { s.migration with engine := .idle } } location
    else s.removeRequest location
  | .idle => s.removeRequest location

/-- CANCEL_REQUEST (R54). -/
def execCancelRequest (address : BusAddress) (args : List Byte) (s : State) : Host.Outcome State Fault Refusal :=
  .next (s.takeCommand address args 4 fun s => s.withLocation args fun s location =>
    if s.hasRequest location then (s.cancelRequest location).tryStart.answerStatus .ok else s.answerStatus .notFound)

/-- READ_QUEUE of a position (R36). -/
def State.readQueue (s : State) (position : Byte) : State :=
  if 8 ≤ position.toNat then s.answerStatus .badArgument
  else
    match s.migration.queue[position.toNat]? with
    | some r => s.respond .ok (requestPayload position r)
    | none => s.answerStatus .notFound

/-- READ_QUEUE (R36). -/
def execReadQueue (address : BusAddress) (args : List Byte) (s : State) : Host.Outcome State Fault Refusal :=
  .next (s.takeCommand address args 1 fun s => s.readQueue (args.getD 0 0))

end Sys2Proof.Machine
end

