-- ==== Sys2Proof/Machine/RecordCommands.lean ====
section
/-! DEFINITION. Machine/RecordCommands.lean: PEEK_RECORD, POP_RECORD, ACK_ALERT and INJECT (R86, R137, R138, R143, R167,
R168). -/

namespace Sys2Proof.Machine

/-- The head record as a response; EMPTY without one (R137). -/
def State.peekRecord (s : State) : State :=
  match s.records.queue with
  | [] => s.answerStatus .empty
  | r :: _ => s.respond .ok (recordPayload r)

/-- PEEK_RECORD (R137). -/
def execPeekRecord (address : BusAddress) (args : List Byte) (s : State) : Host.Outcome State Fault Refusal :=
  .next (s.takeCommand address args 0 State.peekRecord)

/-- The head record as a response, and removed (R138). -/
def State.popRecord (s : State) : State :=
  match s.records.queue with
  | [] => s.answerStatus .empty
  | r :: rest =>
    let s : State := { s with records := { s.records with queue := rest } }
    s.respond .ok (recordPayload r)

/-- POP_RECORD (R138). -/
def execPopRecord (address : BusAddress) (args : List Byte) (s : State) : Host.Outcome State Fault Refusal :=
  .next (s.takeCommand address args 0 State.popRecord)

/-- The sticky flag cleared if the argument names it; level flags and bits above the flags name nothing (R143, R167). -/
def State.ackAlert (s : State) (flags : Byte) : State :=
  let s : State :=
    { s with records := { s.records with droppedFlag := s.records.droppedFlag && !flags.getLsbD 1 } }
  s.answerStatus .ok

/-- ACK_ALERT (R143). -/
def execAckAlert (address : BusAddress) (args : List Byte) (s : State) : Host.Outcome State Fault Refusal :=
  .next (s.takeCommand address args 1 fun s => s.ackAlert (args.getD 0 0))

/-- The kind and positions three argument bytes give, if they fit (R86, R168). -/
def injectKindOf (kind first second : Byte) : Option InjectKind :=
  match kind with
  | 1#8 => if first.toNat < 32 then some (.one first.toNat) else none
  | 2#8 =>
    if first.toNat < 32 ∧ second.toNat < 32 ∧ first ≠ second then some (.two first.toNat second.toNat) else none
  | 3#8 => some .poison
  | _ => none

/-- INJECT with its checks; an accepted one replaces any record armed (R86). -/
def State.inject (s : State) (address : Nat) (kind : Option InjectKind) : State :=
  if s.settings.visible * 256 ≤ address then s.answerStatus .badArgument
  else
    match kind with
    | none => s.answerStatus .badArgument
    | some k =>
      let s : State := { s with injection := some { address := address, kind := k } }
      s.answerStatus .ok

/-- INJECT (R86, R168). -/
def execInject (address : BusAddress) (args : List Byte) (s : State) : Host.Outcome State Fault Refusal :=
  .next (s.takeCommand address args 7 fun s =>
    s.inject (leValue (args.take 4)) (injectKindOf (args.getD 4 0) (args.getD 5 0) (args.getD 6 0)))

end Sys2Proof.Machine
end

