-- ==== Sys2Proof/Machine/RemapCommands.lean ====
section
/-! DEFINITION. Machine/RemapCommands.lean: READ_REMAP, RESTORE_REMAP, DROP_REMAP and RELEASE_SPARE (R27 to R30, R164). -/

namespace Sys2Proof.Machine

/-- READ_REMAP of entry `i` (R30). -/
def State.readRemap (s : State) (i : Byte) : State :=
  if i.toNat < 64 then s.respond .ok (remapPayload i (entryAt s.remap i.toNat)) else s.answerStatus .badArgument

/-- READ_REMAP (R30). -/
def execReadRemap (address : BusAddress) (args : List Byte) (s : State) : Host.Outcome State Fault Refusal :=
  .next (s.takeCommand address args 1 fun s => s.readRemap (args.getD 0 0))

/-- The states RESTORE_REMAP may ask for (R27). -/
inductive RestoreState where
  | active
  | retired
  deriving DecidableEq, Repr

/-- The state argument of RESTORE_REMAP (R164, R169). -/
def restoreStateOf (code : Byte) : Option RestoreState :=
  match code with
  | 3#8 => some .active
  | 5#8 => some .retired
  | _ => none

/-- RESTORE_REMAP with its checks in order (R27). -/
def State.restoreRemap (s : State) (i : Nat) (state : Option RestoreState) (source : Nat) : State :=
  if s.mode ≠ .offline then s.answerStatus .wrongMode
  else if s.settings.spares ≤ i then s.answerStatus .badArgument
  else
    match state with
    | none => s.answerStatus .badArgument
    | some .retired =>
      if entryAt s.remap i ≠ .free then s.answerStatus .conflict
      else
        let s : State := { s with remap := setEntry s.remap i (.retired .restored) }
        s.answerStatus .ok
    | some .active =>
      if s.settings.visible ≤ source then s.answerStatus .badArgument
      else if entryAt s.remap i ≠ .free then s.answerStatus .conflict
      else if namesSource s.remap source then s.answerStatus .duplicate
      else
        let s : State := { s with remap := setEntry s.remap i (.active source .restored) }
        s.answerStatus .ok

/-- RESTORE_REMAP (R27). -/
def execRestoreRemap (address : BusAddress) (args : List Byte) (s : State) : Host.Outcome State Fault Refusal :=
  .next (s.takeCommand address args 5 fun s =>
    s.restoreRemap (args.getD 0 0).toNat (restoreStateOf (args.getD 1 0)) (leValue (args.drop 2)))

/-- DROP_REMAP with its checks in order (R28). -/
def State.dropRemap (s : State) (i : Nat) : State :=
  if s.mode ≠ .offline then s.answerStatus .wrongMode
  else if s.settings.spares ≤ i then s.answerStatus .badArgument
  else if (entryAt s.remap i).isActive = false then s.answerStatus .conflict
  else
    let s : State := { s with remap := setEntry s.remap i .free }
    s.answerStatus .ok

/-- DROP_REMAP (R28). -/
def execDropRemap (address : BusAddress) (args : List Byte) (s : State) : Host.Outcome State Fault Refusal :=
  .next (s.takeCommand address args 1 fun s => s.dropRemap (args.getD 0 0).toNat)

/-- An entry has become FREE: a BLOCKED engine goes IDLE and tries its start again (R29, R40). -/
def State.unblock (s : State) : State :=
  match s.migration.engine with
  | .blocked => State.tryStart { s with migration := { s.migration with engine := .idle } }
  | .idle | .copying _ => s

/-- Whether an entry is RETIRED. -/
def RemapEntry.isRetired (entry : RemapEntry) : Bool :=
  match entry with
  | .retired _ => true
  | .unused | .free | .copying _ _ _ _ | .active _ _ | .leaving _ _ => false

/-- RELEASE_SPARE with its checks in order (R29). -/
def State.releaseSpare (s : State) (i : Nat) : State :=
  if s.settings.spares ≤ i then s.answerStatus .badArgument
  else if (entryAt s.remap i).isRetired = false then s.answerStatus .conflict
  else
    let s : State := { s with remap := setEntry s.remap i .free }
    s.unblock.answerStatus .ok

/-- RELEASE_SPARE (R29). -/
def execReleaseSpare (address : BusAddress) (args : List Byte) (s : State) : Host.Outcome State Fault Refusal :=
  .next (s.takeCommand address args 1 fun s => s.releaseSpare (args.getD 0 0).toNat)

end Sys2Proof.Machine
end

