-- ==== Sys2Proof/Machine/Resets.lean ====
section
/-! DEFINITION. Machine/Resets.lean: POWER_ON, SYSTEM_RESET and RESET_PART (R31, R57, R74, R89, R105, R106, R122, R132, R145,
R153, R154, R163). -/

namespace Sys2Proof.Machine

/-- The starting state of R154 with the model's own fields kept: the waiting commands and the counter of free values. -/
def State.startOver (s : State) (straps : BitVec 2) : State :=
  { State.poweredOn straps with freeIndex := s.freeIndex, pending := s.pending }

/-- POWER_ON: the whole bridge to its starting state, and the straps read (R154, R155). -/
def execPowerOn (straps : BitVec 2) (s : State) : Host.Outcome State Fault Refusal := .next (s.startOver straps)

/-- The mode after a system reset (R153). -/
def modeAfterReset (mode : Mode) : Mode :=
  match mode with
  | .online => .online
  | .stopping => .offline
  | .offline => .offline

/-- The upstream port at a system reset: every held transaction is discarded, a pending dual spare write is not issued, and
the result of an access outstanding is discarded (R105). -/
def State.dropTransactions (s : State) : State :=
  let s := s.discardOutstanding .upstream
  { s with upstream := { held := [], progress := .idle } }

/-- The changes of R153 made together, before the engine's next try. -/
def State.systemReset (s : State) : State :=
  let s := s.dropTransactions
  let s := s.stopEngine .reset
  let s := s.emptyWriteBack
  let s := (s.discardOutstanding .migration).withdrawScrub.discardOutstanding .scrub
  let s : State :=
    { s with
      mode := modeAfterReset s.mode
      injection := none
      port := { s.port with migrationPassed := 0, scrubPassed := 0 } }
  s.restartTimer

/-- SYSTEM_RESET: each block's reset effects, then the engine's try in a bridge left ONLINE (R153, R38). -/
def execSystemReset (s : State) : Host.Outcome State Fault Refusal := .next s.systemReset.tryStart

/-- RESET_PART: the effects of power-on, the straps not read again, and no response of its own (R154, R163). -/
def execResetPart (address : BusAddress) (args : List Byte) (s : State) : Host.Outcome State Fault Refusal :=
  .next (s.takeCommand address args 0 fun s => (s.startOver s.management.straps).onBus true [])

end Sys2Proof.Machine
end

