-- ==== Sys2Proof/Machine/WatchCommands.lean ====
section
/-! DEFINITION. Machine/WatchCommands.lean: READ_WATCH and CLEAR_WATCH (R71, R72, R166). -/

namespace Sys2Proof.Machine

/-- READ_WATCH of a slot (R72). -/
def State.readWatch (s : State) (slot : Byte) : State :=
  if 32 ≤ slot.toNat then s.answerStatus .badArgument
  else
    match s.watch.entryIn slot.toNat with
    | some e => s.respond .ok (watchPayload slot e)
    | none => s.answerStatus .notFound

/-- READ_WATCH (R72). -/
def execReadWatch (address : BusAddress) (args : List Byte) (s : State) : Host.Outcome State Fault Refusal :=
  .next (s.takeCommand address args 1 fun s => s.readWatch (args.getD 0 0))

/-- CLEAR_WATCH of a slot with its checks in order (R71). -/
def State.clearWatch (s : State) (slot : Nat) : State :=
  if 32 ≤ slot then s.answerStatus .badArgument
  else
    match s.watch.entryIn slot with
    | none => s.answerStatus .notFound
    | some e =>
      if e.state = .queued then s.answerStatus .conflict
      else
        let s : State := { s with watch := s.watch.setSlot slot none }
        s.answerStatus .ok

/-- CLEAR_WATCH (R71). -/
def execClearWatch (address : BusAddress) (args : List Byte) (s : State) : Host.Outcome State Fault Refusal :=
  .next (s.takeCommand address args 1 fun s => s.clearWatch (args.getD 0 0).toNat)

end Sys2Proof.Machine
end

