-- ==== Sys2Proof/Machine/FrameEvents.lean ====
section
/-! DEFINITION. Machine/FrameEvents.lean: READ_FRAME and UNKNOWN_COMMAND (R155 to R157). -/

namespace Sys2Proof.Machine

/-- The first `count` bytes a read frame returns: status, length, payload, then 0xFF (R157, R171). -/
def Response.bytes (r : Response) (count : Nat) : List Byte :=
  let sent := (r.status.code :: byteOf r.payload.length :: r.payload).take count
  sent ++ List.replicate (count - sent.length) 0xFF#8

/-- READ_FRAME: the response buffer goes out on the line and stays as it is; another target's frame is not acknowledged (R155,
R157). -/
def execReadFrame (address : BusAddress) (count : Nat) (s : State) : Host.Outcome State Fault Refusal :=
  .next
    (if address = s.management.address then s.onBus true (s.management.response.bytes count) else s.onBus false [])

/-- UNKNOWN_COMMAND: a write frame as it ends. One with no byte changes nothing but the line; one whose first byte is no
command code is refused UNKNOWN_COMMAND (R156). A frame whose first byte is a code is no frame of this row: it is the
frame of the row it spells, and does what that row does (R156; log entry 11). -/
def execUnknownCommand (address : BusAddress) (frame : List Byte) (s : State) : Host.Outcome State Fault Refusal :=
  match decodeFrame address frame with
  | .readStatus a args => execReadStatus a args s
  | .readConfig a args => execReadConfig a args s
  | .writeConfig a args => execWriteConfig a args s
  | .downstreamBlocks a value => execDownstreamBlocks a value s
  | .visibleBlocks a value => execVisibleBlocks a value s
  | .spareCount a value => execSpareCount a value s
  | .autoSpare a value => execAutoSpare a value s
  | .scrubEnable a value => execScrubEnable a value s
  | .scrubInterval a value => execScrubInterval a value s
  | .linkTimeout a value => execLinkTimeout a value s
  | .alertEnables a value => execAlertEnables a value s
  | .alertDepth a value => execAlertDepth a value s
  | .spareLowMark a value => execSpareLowMark a value s
  | .goOnline a args => execGoOnline a args s
  | .goOffline a args => execGoOffline a args s
  | .resetPart a args => execResetPart a args s
  | .clearLink a args => execClearLink a args s
  | .readRemap a args => execReadRemap a args s
  | .restoreRemap a args => execRestoreRemap a args s
  | .dropRemap a args => execDropRemap a args s
  | .releaseSpare a args => execReleaseSpare a args s
  | .requestSpare a args => execRequestSpare a args s
  | .cancelRequest a args => execCancelRequest a args s
  | .readQueue a args => execReadQueue a args s
  | .readWatch a args => execReadWatch a args s
  | .clearWatch a args => execClearWatch a args s
  | .peekRecord a args => execPeekRecord a args s
  | .popRecord a args => execPopRecord a args s
  | .ackAlert a args => execAckAlert a args s
  | .inject a args => execInject a args s
  | .unknownCommand a bytes =>
    .next (s.takeFrame a fun s => if bytes.isEmpty then s else s.answerStatus .unknownCommand)
  | .powerOn _ | .systemReset | .transactionAccepted _ | .answerTaken | .arbiterGrant | .memoryResponse _ _ _ _
  | .responseTimerExpiry _ | .scrubIntervalExpiry | .migrationStart | .readFrame _ _ => .next s

end Sys2Proof.Machine
end

