-- ==== Sys2Proof/Machine/PortEvents.lean ====
section
/-! DEFINITION. Machine/PortEvents.lean: ARBITER_GRANT, MEMORY_RESPONSE, RESPONSE_TIMER_EXPIRY, SCRUB_INTERVAL_EXPIRY and
MIGRATION_START. -/

namespace Sys2Proof.Machine

/-- ARBITER_GRANT (R108, R116, R117). -/
def execArbiterGrant (s : State) : Host.Outcome State Fault Refusal := .next (s.grant [])

/-- MEMORY_RESPONSE (R111). -/
def execMemoryResponse (tag : Tag) (result : MemResult) (words : List StoredWord) (grantFirst : Bool) (s : State) :
    Host.Outcome State Fault Refusal :=
  .next (s.takeResponse tag result words grantFirst)

/-- RESPONSE_TIMER_EXPIRY: the moment the response timer reaches LINK_TIMEOUT (R110, R111). -/
def execResponseTimerExpiry (grantFirst : Bool) (s : State) : Host.Outcome State Fault Refusal :=
  .next (s.expireResponse grantFirst)

/-- SCRUB_INTERVAL_EXPIRY: the moment the interval timer reaches SCRUB_INTERVAL (R125). -/
def execScrubIntervalExpiry (s : State) : Host.Outcome State Fault Refusal := .next s.expireInterval

/-- MIGRATION_START: the engine's try, made while its conditions hold (R38 to R41). -/
def execMigrationStart (s : State) : Host.Outcome State Fault Refusal := .next s.tryStart

end Sys2Proof.Machine
end

