-- ==== Sys2Proof/Machine/Dispatch.lean ====
section
/-! DEFINITION. Machine/Dispatch.lean: the meaning of each command, one arm per row of spec/opcode_table.json. -/

namespace Sys2Proof.Machine

-- The effect of a command on everything but the queue of waiting commands.
def exec (i : Instr) (s : State) : Host.Outcome State Fault Refusal :=
  match i with
  | .powerOn straps => Sys2Proof.Machine.execPowerOn straps s
  | .systemReset => Sys2Proof.Machine.execSystemReset s
  | .transactionAccepted t => Sys2Proof.Machine.execTransactionAccepted t s
  | .answerTaken => Sys2Proof.Machine.execAnswerTaken s
  | .arbiterGrant => Sys2Proof.Machine.execArbiterGrant s
  | .memoryResponse tag result words grantFirst => Sys2Proof.Machine.execMemoryResponse tag result words grantFirst s
  | .responseTimerExpiry grantFirst => Sys2Proof.Machine.execResponseTimerExpiry grantFirst s
  | .scrubIntervalExpiry => Sys2Proof.Machine.execScrubIntervalExpiry s
  | .migrationStart => Sys2Proof.Machine.execMigrationStart s
  | .readFrame address count => Sys2Proof.Machine.execReadFrame address count s
  | .unknownCommand address frame => Sys2Proof.Machine.execUnknownCommand address frame s
  | .readStatus address args => Sys2Proof.Machine.execReadStatus address args s
  | .readConfig address args => Sys2Proof.Machine.execReadConfig address args s
  | .writeConfig address args => Sys2Proof.Machine.execWriteConfig address args s
  | .downstreamBlocks address value => Sys2Proof.Machine.execDownstreamBlocks address value s
  | .visibleBlocks address value => Sys2Proof.Machine.execVisibleBlocks address value s
  | .spareCount address value => Sys2Proof.Machine.execSpareCount address value s
  | .autoSpare address value => Sys2Proof.Machine.execAutoSpare address value s
  | .scrubEnable address value => Sys2Proof.Machine.execScrubEnable address value s
  | .scrubInterval address value => Sys2Proof.Machine.execScrubInterval address value s
  | .linkTimeout address value => Sys2Proof.Machine.execLinkTimeout address value s
  | .alertEnables address value => Sys2Proof.Machine.execAlertEnables address value s
  | .alertDepth address value => Sys2Proof.Machine.execAlertDepth address value s
  | .spareLowMark address value => Sys2Proof.Machine.execSpareLowMark address value s
  | .goOnline address args => Sys2Proof.Machine.execGoOnline address args s
  | .goOffline address args => Sys2Proof.Machine.execGoOffline address args s
  | .resetPart address args => Sys2Proof.Machine.execResetPart address args s
  | .clearLink address args => Sys2Proof.Machine.execClearLink address args s
  | .readRemap address args => Sys2Proof.Machine.execReadRemap address args s
  | .restoreRemap address args => Sys2Proof.Machine.execRestoreRemap address args s
  | .dropRemap address args => Sys2Proof.Machine.execDropRemap address args s
  | .releaseSpare address args => Sys2Proof.Machine.execReleaseSpare address args s
  | .requestSpare address args => Sys2Proof.Machine.execRequestSpare address args s
  | .cancelRequest address args => Sys2Proof.Machine.execCancelRequest address args s
  | .readQueue address args => Sys2Proof.Machine.execReadQueue address args s
  | .readWatch address args => Sys2Proof.Machine.execReadWatch address args s
  | .clearWatch address args => Sys2Proof.Machine.execClearWatch address args s
  | .peekRecord address args => Sys2Proof.Machine.execPeekRecord address args s
  | .popRecord address args => Sys2Proof.Machine.execPopRecord address args s
  | .ackAlert address args => Sys2Proof.Machine.execAckAlert address args s
  | .inject address args => Sys2Proof.Machine.execInject address args s

end Sys2Proof.Machine
end

