-- ==== Sys2Proof/WellFormed.lean ====
section
/-! DEFINITION. WellFormed.lean: which terms of `Instr` spell the row their constructor names. -/

namespace Sys2Proof

/-- A response carries words only when its result is OK, and never more than a run holds (R107). -/
def wellFormedResponse (result : MemResult) (words : List StoredWord) : Bool :=
  match result with
  | .ok => words.length ≤ 16
  | .fault => words.isEmpty

/-- The command codes (R159 to R168). -/
def commandCodes : List Byte :=
  [0x01, 0x02, 0x03, 0x10, 0x11, 0x12, 0x13, 0x20, 0x21, 0x22, 0x23, 0x30, 0x31, 0x32, 0x40, 0x41, 0x50, 0x51, 0x52, 0x60]

/-- The codes of the configuration items that have a row of their own in the table (R160). -/
def itemsWithRows : List Byte := [0x01, 0x02, 0x03, 0x06, 0x08, 0x09, 0x0A, 0x0C, 0x0D, 0x0E]

/-- An UNKNOWN_COMMAND frame has no byte, or begins with no command code (R156). -/
def wellFormedUnknown (frame : List Byte) : Bool :=
  match frame with
  | [] => true
  | code :: _ => !commandCodes.contains code

/-- A WRITE_CONFIG row carries another number of bytes than 5, or an item with no row of its own (R161). -/
def wellFormedWrite (args : List Byte) : Bool := args.length != 5 || !itemsWithRows.contains (args.getD 0 0)

/-- The terms that spell the row their constructor names: UNKNOWN_COMMAND carries no known code, and WRITE_CONFIG no item that has
a row of its own (R156, R161). Every transaction may be presented (R90). -/
def wellFormed (i : Instr) : Bool :=
  match i with
  | .memoryResponse _ result words _ => wellFormedResponse result words
  | .unknownCommand _ frame => wellFormedUnknown frame
  | .writeConfig _ args => wellFormedWrite args
  | .powerOn _ | .systemReset | .transactionAccepted _ | .answerTaken | .arbiterGrant | .responseTimerExpiry _
  | .scrubIntervalExpiry | .migrationStart | .readFrame _ _ => true
  | .readStatus _ _ | .readConfig _ _ | .goOnline _ _ | .goOffline _ _ | .resetPart _ _ | .clearLink _ _ => true
  | .downstreamBlocks _ _ | .visibleBlocks _ _ | .spareCount _ _ | .autoSpare _ _ | .scrubEnable _ _
  | .scrubInterval _ _ | .linkTimeout _ _ | .alertEnables _ _ | .alertDepth _ _ | .spareLowMark _ _ => true
  | .readRemap _ _ | .restoreRemap _ _ | .dropRemap _ _ | .releaseSpare _ _ | .requestSpare _ _
  | .cancelRequest _ _ | .readQueue _ _ | .readWatch _ _ | .clearWatch _ _ | .peekRecord _ _ | .popRecord _ _
  | .ackAlert _ _ | .inject _ _ => true

end Sys2Proof
end

