-- ==== Sys2Proof/Safety.lean ====
section
/-! DEFINITION. Safety.lean: the laws the manual lays on the state between events, each of which every step keeps. -/

namespace Sys2Proof.Machine

/-! ## Views -/

/-- The working items, while the engine is COPYING (R37). -/
def Engine.work? (engine : Engine) : Option CopyWork :=
  match engine with
  | .copying work => some work
  | .idle => none
  | .blocked => none

/-- The line buffer, while the line phase is WRITING (R37). -/
def LinePhase.buffer? (phase : LinePhase) : Option (List StoredWord) :=
  match phase with
  | .writing buffer => some buffer
  | .reading => none

/-- The STORE phase's work (R92). -/
def Progress.store? (progress : Progress) : Option StoreWork :=
  match progress with
  | .store work => some work
  | .idle | .fetch | .mergeRead | .answer _ => none

/-- Whether an entry is COPYING. -/
def RemapEntry.isCopying (entry : RemapEntry) : Bool :=
  match entry with
  | .copying _ _ _ _ => true
  | .unused | .free | .active _ _ | .leaving _ _ | .retired _ => false

/-- Whether an entry is LEAVING. -/
def RemapEntry.isLeaving (entry : RemapEntry) : Bool :=
  match entry with
  | .leaving _ _ => true
  | .unused | .free | .copying _ _ _ _ | .active _ _ | .retired _ => false

/-- The block an entry in COPYING or ACTIVE routes (R17). -/
def RemapEntry.routed? (entry : RemapEntry) : Option Nat :=
  match entry with
  | .copying source _ _ _ => some source
  | .active source _ => some source
  | .unused | .free | .leaving _ _ | .retired _ => none

/-- The source, from and cursor fields of a COPYING entry (R13). -/
def RemapEntry.copy? (entry : RemapEntry) : Option (Nat × CopyFrom × Nat) :=
  match entry with
  | .copying source copyFrom cursor _ => some (source, copyFrom, cursor)
  | .unused | .free | .active _ _ | .leaving _ _ | .retired _ => none

/-- The watch entries of a table, in slot order. -/
def WatchTable.entries (w : WatchTable) : List WatchEntry := w.slots.toList.filterMap id

/-! ## Bounds -/

/-- The record queue holds at most 16 records and the dropped count saturates (R133, R136). -/
abbrev State.recordLaw (s : State) : Prop := s.records.queue.length ≤ 16 ∧ s.records.dropped ≤ 65535

/-- The write-back buffer holds at most 4 entries, for distinct words, and its dropped count saturates (R118). -/
abbrev State.writeBackLaw (s : State) : Prop :=
  s.writeBack.entries.length ≤ 4 ∧ (s.writeBack.entries.map fun e => (e.block, e.line, e.word)).Nodup
    ∧ s.writeBack.dropped ≤ 65535

/-- The migration queue holds at most 8 requests, for distinct locations (R32). -/
abbrev State.queueLaw (s : State) : Prop :=
  s.migration.queue.length ≤ 8 ∧ (s.migration.queue.map (·.location)).Nodup

/-- The watch table holds one entry for a location, each with a count and a word list in range, and every QUEUED entry has a
request that names its location; a WAITING entry has none (R58, R61, R65). -/
abbrev State.watchLaw (s : State) : Prop :=
  (s.watch.entries.map (·.location)).Nodup ∧ s.watch.untracked ≤ 65535
    ∧ ∀ e ∈ s.watch.entries, e.corrected ≤ 255 ∧ e.offsets.length ≤ 4 ∧ e.offsets.Nodup
        ∧ (e.state = .queued → s.hasRequest e.location = true) ∧ (e.state = .waiting → s.hasRequest e.location = false)

/-- The counts stay in range: the acceptance queue, the untracked count, each watch entry's count and word list, and the engine's
attempt and overtake counts (R37, R61, R63, R91). -/
abbrev State.countLaw (s : State) : Prop :=
  s.upstream.held.length ≤ 4 ∧ s.watch.untracked ≤ 65535
    ∧ (∀ e ∈ s.watch.entries, e.corrected ≤ 255 ∧ e.offsets.length ≤ 4)
    ∧ ∀ work ∈ s.migration.engine.work?, 1 ≤ work.attempt ∧ work.attempt ≤ 3 ∧ work.overtakes ≤ 4

/-! ## The upstream port -/

/-- The port holds at most 4 transactions, and is idle exactly while it holds none (R91, R92); none marked SERVE is held in
OFFLINE, and one is held in STOPPING (R149, R150); and only a transaction marked SERVE is in a phase that needs an access, a
READ in FETCH, a WRITE in MERGE_READ and STORE (R92, R93). -/
abbrev State.upstreamLaw (s : State) : Prop :=
  s.upstream.held.length ≤ 4 ∧ (s.upstream.progress = .idle ↔ s.upstream.held = [])
    ∧ (s.mode = .offline → s.holdsServe = false) ∧ (s.mode = .stopping → s.holdsServe = true)
    ∧ (s.upstream.progress.needsAccess = true → ∃ h ∈ s.upstream.held.head?, h.mark = .serve ∧ shapeOk h.transaction = true)

/-! ## The memory-side port -/

/-- The abandoned set holds at most 8 distinct tags, fewer while the link is UP, never the outstanding access's; and nothing
is outstanding while the link is DOWN (R109, R113). -/
abbrev State.linkLaw (s : State) : Prop :=
  s.port.abandoned.length ≤ 8 ∧ s.port.abandoned.Nodup ∧ (s.port.link = .up → s.port.abandoned.length < 8)
    ∧ ∀ a ∈ s.port.outstanding, s.port.link = .up ∧ a.tag ∉ s.port.abandoned

/-- The pass-over counts stay in 0..32 (R117). -/
abbrev State.passOverLaw (s : State) : Prop := s.port.migrationPassed ≤ 32 ∧ s.port.scrubPassed ≤ 32

/-! ## The remap table and the engine -/

/-- Entries below S are never UNUSED, and entries at or above S always are (R15). -/
abbrev State.spareLaw (s : State) : Prop :=
  ∀ i, i < 64 → (entryAt s.remap i = .unused ↔ s.settings.spares ≤ i)

/-- At most one entry in COPYING or ACTIVE names a block as source (R17), and every source is below V (R13). -/
abbrev State.sourceLaw (s : State) : Prop :=
  (∀ i, i < 64 → ∀ j, j < 64 → i ≠ j →
      (entryAt s.remap i).routed? = none ∨ (entryAt s.remap i).routed? ≠ (entryAt s.remap j).routed?)
    ∧ ∀ i, i < 64 → ∀ b ∈ (entryAt s.remap i).source?, b < s.settings.visible

/-- The LEAVING entry a copy comes from (R13). -/
def CopyFrom.leaving? (copyFrom : CopyFrom) : Option Nat :=
  match copyFrom with
  | .source => none
  | .leaving j => some j

/-- One entry is COPYING exactly while the engine is, and it is the engine's target; its cursor is a line; a LEAVING entry is
the one it names as from, with the same source; and an outstanding copy access whose result the engine will take is for the
line at the cursor (R13, R17, R37, R42, R44). -/
abbrev State.copyLaw (s : State) : Prop :=
  (∀ i, i < 64 → ((entryAt s.remap i).isCopying = true ↔ ∃ work ∈ s.migration.engine.work?, work.target = i))
    ∧ (∀ j, j < 64 → (entryAt s.remap j).isLeaving = true →
        ∃ work ∈ s.migration.engine.work?, ∃ c ∈ (entryAt s.remap work.target).copy?, c.2.1 = .leaving j)
    ∧ (∀ work ∈ s.migration.engine.work?, work.target < 64 ∧ ∃ c ∈ (entryAt s.remap work.target).copy?,
        c.2.2 ≤ 15 ∧ ∀ j ∈ c.2.1.leaving?,
          j < 64 ∧ (entryAt s.remap j).isLeaving = true ∧ (entryAt s.remap j).source? = some c.1)
    ∧ ∀ a ∈ s.port.outstanding, a.discarded = false → a.purpose.requester = .migration →
        ∃ work ∈ s.migration.engine.work?, ∃ c ∈ (entryAt s.remap work.target).copy?, a.line = c.2.2

/-- The request whose started field is yes is the head, and stands exactly while the engine is COPYING; it names the
from-location (R32, R41). -/
abbrev State.startedLaw (s : State) : Prop :=
  (∀ r ∈ s.migration.queue.tail, r.started = false)
    ∧ (∀ r ∈ s.migration.queue.head?, (r.started = true ↔ s.migration.engine.work?.isSome = true))
    ∧ ∀ work ∈ s.migration.engine.work?, ∃ r ∈ s.migration.queue.head?, ∃ c ∈ (entryAt s.remap work.target).copy?,
        r.location = (match c.2.1 with
          | .source => .visible c.1
          | .leaving j => .spare j)

/-- The engine is COPYING or BLOCKED only in ONLINE; BLOCKED, it has a head request and no entry is FREE (R17, R37, R40). -/
abbrev State.engineModeLaw (s : State) : Prop :=
  (s.migration.engine ≠ .idle → s.mode = .online)
    ∧ (s.migration.engine = .blocked → s.migration.queue ≠ [] ∧ freeSpares s.remap = 0)

/-- The working items stay in range; a held attempt is the one begun with overtake count 4, and is never overtaken; only a line
in flight is overtaken or being written (R37, R45, R47, R48). -/
abbrev State.workLaw (s : State) : Prop :=
  ∀ work ∈ s.migration.engine.work?,
    1 ≤ work.attempt ∧ work.attempt ≤ 3 ∧ work.overtakes ≤ 4 ∧ (work.held = true ↔ work.overtakes = 4)
      ∧ (work.overtaken = true → work.inFlight = true ∧ work.held = false)
      ∧ (work.phase ≠ .reading → work.inFlight = true) ∧ (work.inFlight = true → work.holding = work.held)
      ∧ (work.holding = true → work.held = true)

/-- While the conditions of R38 all hold together a try is made, so between events they never do (log entry 12). -/
abbrev State.settledLaw (s : State) : Prop := s.mayTry = false

/-! ## The scrubber -/

/-- The interval timer runs exactly while ONLINE, SCRUB_ENABLE and an UP link hold together (R124); a DUE scrub needs it running,
a PENDING one is the outstanding scrub read (R123, R130); and the position names a line that exists while the bridge carries
traffic (R123). -/
abbrev State.scrubLaw (s : State) : Prop :=
  (s.scrubber.timer.isSome = true ↔ s.timerMayRun = true) ∧ (s.scrubber.state = .due → s.timerMayRun = true)
    ∧ (s.scrubber.state = .pending ↔ s.awaiting .scrub = true) ∧ (s.scrubber.state = .pending → s.mode = .online)
    ∧ s.scrubber.line ≤ 15 ∧ (s.scrubber.block = 0 ∨ s.scrubber.block < s.settings.visible)
    ∧ (s.mode ≠ .offline → 1 ≤ s.settings.visible)

/-! ## Accesses in their place -/

/-- Whether the outstanding access is one its requester's state calls for (R107). -/
def State.calledFor (s : State) (a : Access) : Bool :=
  match a.purpose with
  | .fetch => s.upstream.progress == .fetch
  | .mergeRead => s.upstream.progress == .mergeRead
  | .storeSingle => s.upstream.progress.store?.any fun work => work.dual.isNone && !work.runs.isEmpty
  | .storeFirst | .storeSpare => s.upstream.progress.store?.any fun work => work.dual.isSome && !work.runs.isEmpty
  | .copyRead => s.migration.engine.work?.any fun work => work.phase == .reading && work.inFlight
  | .copyWrite => s.migration.engine.work?.any fun work => work.phase != .reading
  | .scrubRead => s.scrubber.state == .pending
  | .writeBack =>
    s.writeBack.entries.head?.any fun e => e.block == a.block && e.line == a.line && e.word == a.first

/-- An outstanding access whose result its requester will take is one the requester's state calls for (R107, R108). -/
abbrev State.accessLaw (s : State) : Prop := ∀ a ∈ s.port.outstanding, a.discarded = false → s.calledFor a = true

/-- A place below V + S, and a run within one line (R5, R107). -/
abbrev runFits (c : Settings) (block line first count : Nat) : Prop :=
  block < c.visible + c.spares ∧ line ≤ 15 ∧ 1 ≤ count ∧ first + count ≤ 16

/-- Every place the bridge keeps for an access to come lies in the two areas: the write-backs', a pending dual spare write's,
and the outstanding access's unless its result is discarded (R5, R107, R118, R121). -/
abbrev State.placeLaw (s : State) : Prop :=
  (∀ e ∈ s.writeBack.entries, runFits s.settings e.block e.line e.word 1)
    ∧ (∀ work ∈ s.upstream.progress.store?,
        (∀ run ∈ work.runs, 1 ≤ run.forms.length ∧ run.first + run.forms.length ≤ 16)
          ∧ ∀ dual ∈ work.dual, dual.block < s.settings.visible + s.settings.spares
              ∧ ∃ run ∈ work.runs.head?, dual.forms.length = run.forms.length)
    ∧ (∀ a ∈ s.port.outstanding, a.discarded = false →
        runFits s.settings a.block a.line a.first a.count ∧ (a.purpose.isWrite = true → a.words.length = a.count))
    ∧ (s.upstream.progress.needsAccess = true → ∃ t ∈ s.current, inRange s.settings t = true)
    ∧ (∀ a ∈ s.port.outstanding, a.purpose = .copyRead → a.count = 16)
    ∧ (∀ a ∈ s.port.outstanding, a.discarded = false → a.purpose = .fetch → ∀ t ∈ s.current, a.count = statedLength t)
    ∧ (∀ work ∈ s.migration.engine.work?, ∀ buffer ∈ work.phase.buffer?, buffer.length = 16)
    ∧ s.settings.spares ≤ 64

/-! ## What a command or a grant leaves, for the statements -/

/-- What an executed command leaves in the management port: its frame acknowledged, and its response (R155, R157). -/
def State.answered (s : State) (status : Status) (payload : List Byte) : State :=
  { s with
    management :=
      { straps := s.management.straps, response := { status := status, payload := payload }, acknowledged := true,
        returned := [] } }

/-- A pass-over count after a grant to another requester: it rises for a waiting request, up to 32 (R117). -/
def passedOver (waiting : Bool) (count : Nat) : Nat := if waiting then min (count + 1) 32 else 0

/-- What the grant of an access to a requester leaves at the port: the access outstanding, its tag the tag last given, its
timer at 0, and the pass-over counts (R108, R109, R110, R117). -/
def State.granted (s : State) (r : Requester) (purpose : Purpose) (block line first count : Nat)
    (words : List StoredWord) : State :=
  { s with
    port := { s.port with
      outstanding := some
        { purpose := purpose, block := block, line := line, first := first, count := count, words := words,
          tag := nextTag s.port.lastTag s.port.abandoned, elapsed := 0, discarded := false }
      lastTag := nextTag s.port.lastTag s.port.abandoned
      migrationPassed := if r = .migration then 0 else passedOver (s.waiting .migration) s.port.migrationPassed
      scrubPassed := if r = .scrub then 0 else passedOver (s.waiting .scrub) s.port.scrubPassed } }

/-- The write-back buffer without the entries whose word lies in a run (R119). -/
def State.cancelRun (s : State) (block line first count : Nat) : State :=
  { s with
    writeBack := { s.writeBack with
      entries := s.writeBack.entries.filter fun e =>
        !(e.block == block && e.line == line && first ≤ e.word && e.word < first + count) } }

/-- The place of a requester in the base order (R117). -/
def Requester.rank (r : Requester) : Nat :=
  match r with
  | .upstream => 0
  | .writeBack => 1
  | .migration => 2
  | .scrub => 3

/-- How many argument bytes the command with a code takes (R171). -/
def argumentCount (code : Byte) : Nat :=
  if code ∈ [0x01#8, 0x10#8, 0x11#8, 0x12#8, 0x13#8, 0x50#8, 0x51#8] then 0
  else if code ∈ [0x30#8, 0x31#8] then 4
  else if code ∈ [0x03#8, 0x21#8] then 5
  else if code = 0x60#8 then 7
  else 1

/-- The table's laws together (R13, R15, R17, R32, R37, R40). -/
abbrev State.tableLaw (s : State) : Prop :=
  s.sourceLaw ∧ s.copyLaw ∧ s.startedLaw ∧ s.engineModeLaw ∧ s.spareLaw

/-- The laws of the ports, the scrubber and the line under copy together. -/
abbrev State.trafficLaw (s : State) : Prop :=
  s.upstreamLaw ∧ s.linkLaw ∧ s.accessLaw ∧ s.workLaw ∧ s.scrubLaw

/-! ## What the end of an access leaves, for the statements -/

/-- A pending dual spare write learns what became of the migration it belonged to, while that was still in flight (R23). -/
def Progress.withFate (progress : Progress) (fate : MigrationFate) : Progress :=
  match progress with
  | .store work =>
    .store { work with dual := work.dual.map fun d => { d with fate := if d.fate = .inFlight then fate else d.fate } }
  | .idle => .idle
  | .fetch => .fetch
  | .mergeRead => .mergeRead
  | .answer given => .answer given

/-- What the end of a store run that succeeded leaves in the upstream port: the next run to make, or the answer by the planned
statuses (R99, R102). -/
def StoreWork.succeeded (work : StoreWork) (rest : List StoreRun) : Progress :=
  if rest = [] then .answer (.write (if ∀ x ∈ work.statuses, x = .good then .okay else .dataError) work.statuses)
  else .store { work with runs := rest, dual := none }

/-- The answer of a WRITE whose present run failed, its first word at index `first` of the line: the words of this run and of the
later ones are BAD (R101, R102). -/
def StoreWork.failed (work : StoreWork) (first : Nat) : Progress :=
  .answer (.write .linkFailed
    (work.statuses.zipIdx.map fun (status, k) =>
      if ∃ r ∈ work.runs, r.first ≤ first + k ∧ first + k < r.first + r.forms.length then .bad else status))

/-- The event `c` makes the outstanding access `a` fail, with the link still UP, and leaves `u` before its requester takes the
ending: the slot free, the port's record, and after an expiry the tag abandoned (R108, R110 to R113). -/
def State.failsBy (s : State) (a : Access) (c : Instr) (u : State) : Prop :=
  ∃ (kind : RecordKind) (abandoned : List Tag),
    ((∃ words, c = .memoryResponse a.tag .fault words false) ∧ kind = .linkFault ∧ abandoned = s.port.abandoned
      ∨ c = .responseTimerExpiry false ∧ s.port.abandoned.length < 7 ∧ kind = .linkTimeout
        ∧ abandoned = s.port.abandoned ++ [a.tag])
    ∧ u = { s with
        port := { s.port with outstanding := none, abandoned := abandoned }
        records := s.records.take
          { kind := kind, source := if a.purpose = .writeBack then .writeBack else .link,
            location := some (locationOf s.settings a.block), offset := some (16 * a.line + a.first) } }

/-- The table that the abort of the migration into `target` leaves: the target as `left` says, and a LEAVING from-entry ACTIVE
again with its source and origin (R26). -/
def State.abortsTo (s : State) (target : Nat) (left : RemapEntry) (table : RemapTable) : Prop :=
  ∃ (source cursor : Nat) (origin : Origin),
    entryAt s.remap target = .copying source .source cursor origin ∧ table = setEntry s.remap target left
      ∨ ∃ (j was : Nat) (old : Origin), entryAt s.remap target = .copying source (.leaving j) cursor origin
        ∧ entryAt s.remap j = .leaving was old ∧ table = setEntry (setEntry s.remap j (.active was old)) target left

/-- What an abort leaves, whatever its cause: the table, the engine IDLE, a copy access waiting withdrawn and one outstanding to be
discarded, the record, and a pending dual spare write that knows of it (R22, R23, R26, R51, R117). -/
def State.afterAbort (s : State) (work : CopyWork) (r : Request) (table : RemapTable) (detail : RecordDetail) : State :=
  { s with
    remap := table
    migration := { s.migration with engine := .idle }
    upstream := { s.upstream with progress := s.upstream.progress.withFate .aborted }
    port := { s.port with
      migrationPassed := 0
      outstanding := s.port.outstanding.map fun a =>
        { a with discarded := a.discarded || a.purpose == .copyRead || a.purpose == .copyWrite } }
    records := s.records.take
      { kind := .migrationAborted, source := .engine, location := some r.location, spare := some work.target,
        detail := some detail } }

/-- What becomes of the head request `r`, `rest` behind it, when its attempt has failed: the first time it goes to the tail; the
second time it is dropped, with its record, its watch entry is demoted with its history kept, and the place frees (R35, R52,
R53). -/
def State.afterFailure (s : State) (r : Request) (rest : List Request) (target : Nat) : State :=
  if r.retried = false then
    { s with migration := { s.migration with queue := rest ++ [{ r with retried := true, started := false }] } }
  else
    State.placeFreed
      { s with
        migration := { s.migration with queue := rest }
        watch := s.watch.modify r.location fun e => { e with state := .tracking }
        records := s.records.take
          { kind := .migrationDropped, source := .engine, location := some r.location, spare := some target } }

/-- The state in which the expiry of access `a` has taken the link DOWN, before any requester takes an ending: the slot free, the tag
abandoned, the pass-over counts at 0, the interval timer stopped, a DUE scrub withdrawn, and the two records, in the model's order
(log entry 8) (R110 to R114, R117, R124, R130). -/
def State.linkLost (s : State) (a : Access) : State :=
  { s with
    port := { s.port with
      link := .down, outstanding := none, abandoned := s.port.abandoned ++ [a.tag], migrationPassed := 0, scrubPassed := 0 }
    scrubber := { s.scrubber with
      timer := none, state := if s.scrubber.state = .due then .idle else s.scrubber.state }
    records :=
      (s.records.take
        { kind := .linkTimeout, source := if a.purpose = .writeBack then .writeBack else .link,
          location := some (locationOf s.settings a.block), offset := some (16 * a.line + a.first) }).take
        { kind := .linkDown, source := .link } }

/-- What ending the upstream port's request LINK_FAILED without issue, while the link is DOWN, leaves of `s`: `u`. A READ is answered
with an empty list, a WRITE in MERGE_READ with BAD for each word with bytes enabled, and a store run fails with the later ones. Of a
pending spare access whose migration has completed the run fails too; else the run stands, a migration still in flight is aborted with
target failure, and the next run, if there is one, fails without issue in its turn (R23, R50, R98, R101 to R103, R114). -/
def State.requestEnds (s u : State) : Prop :=
  (s.upstream.progress.needsAccess = false → u = s)
    ∧ ∀ t, s.current = some t →
      (s.upstream.progress = .fetch → u = { s with upstream := { s.upstream with progress := .answer (.read .linkFailed []) } })
        ∧ (∀ a n words, t = .write a n words → s.upstream.progress = .mergeRead →
          u = { s with
            upstream := { s.upstream with
              progress := .answer (.write .linkFailed (words.map fun w => if w.enables = 0 then .good else .bad)) } })
        ∧ ∀ work : StoreWork, s.upstream.progress = .store work →
          ∀ failed : State, failed = { s with upstream := { s.upstream with progress := work.failed (firstAddress t % 16) } } →
            (work.dual = none → u = failed)
              ∧ ∀ dual run rest, work.dual = some dual → work.runs = run :: rest →
                ∀ stands : State,
                  stands = { s with
                    upstream := { s.upstream with
                      progress :=
                        if rest = [] then work.succeeded []
                        else StoreWork.failed { work with runs := rest } (firstAddress t % 16) } } →
                  (dual.fate = .completed → u = failed)
                    ∧ (dual.fate = .aborted → u = stands)
                    ∧ ∀ copy r behind table, dual.fate = .inFlight →
                      s.migration = { queue := r :: behind, engine := .copying copy } →
                      s.abortsTo copy.target (.retired .writeFailed) table →
                      u = (stands.afterAbort copy r table .targetFailed).afterFailure r behind copy.target

/-- The scrubber and the watch table after the end of a scrub read: the position at the next line, and after line 15 of the last
block the pass count one higher and the table decayed (R70, R129). -/
def State.scrubMoved (s : State) : State :=
  { s with
    scrubber := { s.scrubber with
      state := .idle
      line := if s.scrubber.line < 15 then s.scrubber.line + 1 else 0
      block :=
        if s.scrubber.line < 15 then s.scrubber.block
        else if s.scrubber.block + 1 < s.settings.visible then s.scrubber.block + 1 else 0
      passCount :=
        if s.scrubber.line = 15 ∧ s.scrubber.block + 1 = s.settings.visible then s.scrubber.passCount + 1
        else s.scrubber.passCount }
    watch :=
      if s.scrubber.line = 15 ∧ s.scrubber.block + 1 = s.settings.visible then s.watch.decay else s.watch }

/-! ## The words of a read, for the statements -/

/-- The write-back offers of a read's words, the first of them word `first` of the line: one for each CORRECTED word, in word index
order (R97, R118, R127). -/
def offersOf (block line first : Nat) (words : List StoredWord) : List WriteBack :=
  words.zipIdx.filterMap fun (w, k) =>
    if (classify w).1 = .corrected then
      some { block := block, line := line, word := first + k, data := (classify w).2 }
    else none

/-- The word and the status a word fetched for a READ goes into the answer with (R96). -/
def answerWord (w : StoredWord) : ReadWord where
  data := (classify w).2
  status :=
    match (classify w).1 with
    | .clean => .good
    | .corrected => .corrected
    | .uncorrectable => .bad
    | .poisoned => .poison

/-- A place a read took a word from: the location read and the word's offset, and the source its records name (R60, R97). -/
structure ReadPlace where
  source : RecordSource
  location : Location
  offset : Nat
  deriving DecidableEq, Repr

/-- Where a counted outcome for a location is counted: in `slot`, in the entry `before`, of `table`. The entry there is, with the
table as it stands; or a new one with the next stamp, in the lowest empty slot, or in a full table in the slot of the TRACKING
entry with the smallest corrected count and, among equals, the smallest stamp (R58, R59, R61, R62). -/
def WatchTable.countsIn (w : WatchTable) (location : Location) (slot : Nat) (before : WatchEntry) (table : WatchTable) : Prop :=
  w.entryIn slot = some before ∧ before.location = location ∧ table = w
      ∧ (∀ i e, i < slot → w.entryIn i = some e → e.location ≠ location)
    ∨ (∀ i e, w.entryIn i = some e → e.location ≠ location) ∧ slot < 32
      ∧ before =
        { location := location, corrected := 0, offsets := [], uncorrectable := false, state := .tracking,
          stamp := w.nextStamp }
      ∧ table = { w with nextStamp := w.nextStamp + 1 }
      ∧ (w.entryIn slot = none ∧ (∀ i, i < slot → w.entryIn i ≠ none)
        ∨ (∀ i, i < 32 → w.entryIn i ≠ none)
          ∧ ∃ old, w.entryIn slot = some old ∧ old.state = .tracking
            ∧ ∀ i e, i ≠ slot → w.entryIn i = some e → e.state = .tracking →
              old.corrected < e.corrected ∨ old.corrected = e.corrected ∧ old.stamp.toNat < e.stamp.toNat)

/-- What a counted outcome makes of an entry (the table of R61). -/
def WatchEntry.counted (e : WatchEntry) (uncorrectable : Bool) (offset : Nat) : WatchEntry :=
  if uncorrectable then { e with uncorrectable := true }
  else
    { e with
      corrected := min (e.corrected + 1) 255
      offsets := if offset ∈ e.offsets ∨ 4 ≤ e.offsets.length then e.offsets else e.offsets ++ [offset] }

/-- Whether an entry meets one of the three thresholds (R64). -/
abbrev WatchEntry.atLimit (e : WatchEntry) (c : Settings) : Prop :=
  c.correctedLimit ≤ e.corrected ∨ c.wordLimit ≤ e.offsets.length ∨ e.uncorrectable = true

/-- What one word of a read, taken from `place` in state `s`, brings about: `v`. `full` says that the read has made its
TRACKING_FULL record, and `full'` that it then has. A CLEAN word brings nothing about; a POISONED one a POISON_READ record, but in a
copy. Any other is recorded and counted: untracked, or in its entry, which then may be a candidate; the request that a candidate
brings may let the engine start (log entry 12) (R43, R59, R61 to R66, R81, R97, R127). -/
def State.wordTaken (s : State) (place : ReadPlace) (w : StoredWord) (full : Bool) (v : State) (full' : Bool) : Prop :=
  let body (kind : RecordKind) : RecordBody :=
    { kind := kind, source := place.source, location := some place.location, offset := some place.offset }
  ((classify w).1 = .clean ∧ v = s ∧ full' = full)
    ∨ ((classify w).1 = .poisoned ∧ full' = full
      ∧ v = { s with records := if place.source = .copy then s.records else s.records.take (body .poisonRead) })
    ∨ ∃ (bad : Bool) (read : State),
      (classify w).1 = (if bad then .uncorrectable else .corrected)
        ∧ read = { s with
            records :=
              if bad = true ∨ s.settings.recordCorrected = true then
                s.records.take (body (if bad then .uncorrectable else .corrected))
              else s.records }
        ∧ (((∀ slot, slot < 32 →
                ∃ e, s.watch.entryIn slot = some e ∧ e.location ≠ place.location ∧ e.state ≠ .tracking)
              ∧ full' = true
              ∧ v = { read with
                  watch := { s.watch with untracked := min (s.watch.untracked + 1) 65535 }
                  records := if full then read.records else read.records.take (body .trackingFull) })
          ∨ ∃ slot before table e, s.watch.countsIn place.location slot before table
            ∧ e = before.counted bad place.offset ∧ full' = full
            ∧ ((e.state ≠ .tracking ∨ ¬ e.atLimit s.settings) ∧ v = { read with watch := table.setSlot slot (some e) }
              ∨ e.state = .tracking ∧ e.atLimit s.settings
                ∧ ∃ noted : State,
                  noted = { read with
                    watch := table.setSlot slot (some { e with state := .queued })
                    records := read.records.take (body .watchCandidate) }
                  ∧ ((∃ r ∈ s.migration.queue, r.location = place.location) ∧ v = noted
                    ∨ (∀ r ∈ s.migration.queue, r.location ≠ place.location)
                      ∧ ((s.settings.autoSpare = false ∨ 8 ≤ s.migration.queue.length)
                          ∧ v = { noted with watch := table.setSlot slot (some { e with state := .waiting }) }
                        ∨ s.settings.autoSpare = true ∧ s.migration.queue.length < 8
                          ∧ exec .migrationStart
                            { noted with
                              migration := { s.migration with
                                queue := s.migration.queue
                                  ++ [{ location := place.location, origin := .auto, retried := false,
                                        started := false }] } } = .next v))))

/-- What the words of a read bring about, one after another in word index order, the first of them taken from `place` (R81). -/
def State.wordsTaken (s : State) (place : ReadPlace) (words : List StoredWord) (full : Bool) (v : State) : Prop :=
  match words with
  | [] => v = s
  | w :: rest =>
    ∃ (next : State) (full' : Bool), s.wordTaken place w full next full'
      ∧ next.wordsTaken { place with offset := place.offset + 1 } rest full' v

/-! ## The first phase of a transaction, for the statements -/

/-- A transaction marked SERVE that becomes the one in progress enters phase `p`: the first of R94's checks that applies decides
it, and while the link is DOWN one that needs an access is answered LINK_FAILED at once (R9 to R11, R94, R95, R98, R102, R103). -/
def firstPhase (c : Settings) (link : Link) (t : Transaction) (p : Progress) : Prop :=
  (shapeOk t = false → p = .answer (bareAnswer t .badRequest))
    ∧ (shapeOk t = true → c.visible * 256 ≤ firstAddress t → p = .answer (bareAnswer t .outOfRange))
    ∧ (shapeOk t = true → firstAddress t < c.visible * 256 →
      (∀ a n, t = .read a n → p = if link = .up then .fetch else .answer (.read .linkFailed []))
        ∧ ∀ a n words, t = .write a n words →
          ((∀ w ∈ words, w.enables = 0) → p = .answer (.write .okay (words.map fun _ => .good)))
            ∧ (link = .up → (∃ w ∈ words, isPartial w = true) → p = .mergeRead)
            ∧ (link = .up → (∃ w ∈ words, w.enables ≠ 0) → (∀ w ∈ words, isPartial w = false) →
              p = .store
                { runs := storeRuns (a % 16) (words.map fun w =>
                    if w.enables = 0 then none else some (cleanForm w.data)),
                  statuses := words.map fun _ => .good, dual := none })
            ∧ (link = .down → (∃ w ∈ words, w.enables ≠ 0) →
              p = .answer (.write .linkFailed (words.map fun w => if w.enables = 0 then .good else .bad))))

end Sys2Proof.Machine
end

