-- ==== Sys2Proof/Certificates/Slice0/Obligations.lean ====
section
/-! DEFINITION. Certificates/Slice0/Obligations.lean: the statements for the provers. -/

open Sys2Proof Sys2Proof.Machine

/-! ## The queue of commands, frames and the response buffer -/

/-- A step takes the command at the front of the queue and executes it with the queue's rest. The model's choice (log entry 1):
with no command waiting and neither timer reaching its limit, a step is one microsecond of both running timers and nothing
else. -/
def Obligations.StepRunsFrontCommand : Prop :=
  (∀ (c : Instr) (s : State) (rest : List Instr),
      step { s with pending := c :: rest } = exec c { s with pending := rest })
    ∧ ∀ s : State, s.pending = [] →
        (∀ a ∈ s.port.outstanding, a.elapsed + 1 < s.settings.linkTimeout) →
        (∀ time ∈ s.scrubber.timer, time + 1 < s.settings.scrubInterval) →
        step s = .next
          { s with
            port := { s.port with
              outstanding := s.port.outstanding.map fun a => { a with elapsed := a.elapsed + 1 } }
            scrubber := { s.scrubber with timer := s.scrubber.timer.map fun time => time + 1 } }

/-- Every command answers a next state, and none touches the commands that wait behind it. The queue, and that POWER_ON and
RESET_PART leave it, are the model's choices (log entries 14 and 15), and so is the next state of an event that cannot come (log
entry 9). -/
def Obligations.ExecAnswersAndLeavesQueue : Prop :=
  ∀ (c : Instr) (s : State), ∃ t, exec c s = .next t ∧ t.pending = s.pending

/-- Decoding the frame of a well-formed command gives the command back (R156, R161, R171). -/
def Obligations.FrameRoundTrip : Prop :=
  ∀ (i : Instr) (address : BusAddress) (frame : List Byte),
    wellFormed i = true → encodeFrame i = some (address, frame) → decodeFrame address frame = i

/-- A write frame for another target is not acknowledged and not taken (R155); one with no byte changes nothing but the line, an
unknown code is refused UNKNOWN_COMMAND, and a wrong number of argument bytes BAD_LENGTH (R156). -/
def Obligations.FramesRefused : Prop :=
  (∀ (i : Instr) (address : BusAddress) (frame : List Byte) (s : State),
      encodeFrame i = some (address, frame) → address ≠ s.management.address →
      exec i s = .next { s with management := { s.management with acknowledged := false, returned := [] } })
    ∧ (∀ s : State,
        exec (.unknownCommand s.management.address []) s
          = .next { s with management := { s.management with acknowledged := true, returned := [] } })
    ∧ (∀ (code : Byte) (args : List Byte) (s : State), code ∉ commandCodes →
        exec (.unknownCommand s.management.address (code :: args)) s = .next (s.answered .unknownCommand []))
    ∧ ∀ (i : Instr) (code : Byte) (args : List Byte) (s : State),
        encodeFrame i = some (s.management.address, code :: args) → code ∈ commandCodes →
        args.length ≠ argumentCount code → exec i s = .next (s.answered .badLength [])

/-- A read frame returns the response buffer from its status byte, 0xFF past its end, and changes nothing but the line; one for
another target is not acknowledged (R155, R157, R171). -/
def Obligations.ReadFrameReturnsResponse : Prop :=
  ∀ (address : BusAddress) (count : Nat) (s : State),
    (address = s.management.address →
      exec (.readFrame address count) s = .next
        { s with
          management := { s.management with
            acknowledged := true
            returned :=
              (s.management.response.status.code :: BitVec.ofNat 8 s.management.response.payload.length
                :: (s.management.response.payload ++ List.replicate count 0xFF#8)).take count } })
    ∧ (address ≠ s.management.address →
      exec (.readFrame address count) s = .next
        { s with management := { s.management with acknowledged := false, returned := [] } })

/-! ## The check code -/

/-- The signature of data position j is the (j+1)-th smallest pattern of seven with an odd number of ones, at least three; they
are distinct, and none is 0, a single one or 127 (R76). -/
def Obligations.SignaturesOfDataPositions : Prop :=
  ((List.range 128).filter fun n => 3 ≤ ones (BitVec.ofNat 7 n) && ones (BitVec.ofNat 7 n) % 2 == 1).take 32
      = (List.range 32).map (fun j => (signature j).toNat)
    ∧ ((List.range 32).map signature).Nodup
    ∧ ∀ j, j < 32 → signature j ≠ 0 ∧ ones (signature j) ≠ 1 ∧ signature j ≠ 127

/-- The clean form holds its data, check position i is the parity of the data ones whose signature has a one at i, position 39
the parity of the other 39, and the 40 positions hold an even number of ones (R77, R170); the poison form inverts the 8 check
positions (R78). -/
def Obligations.CheckFieldOfForms : Prop :=
  ∀ d : Word,
    (∀ j, j < 32 → (cleanForm d).getLsbD j = d.getLsbD j)
      ∧ (∀ i, i < 7 → (cleanForm d).getLsbD (32 + i)
          = (((List.range 32).countP fun j => d.getLsbD j && (signature j).getLsbD i) % 2 == 1))
      ∧ (cleanForm d).getLsbD 39 = (((List.range 39).countP fun j => (cleanForm d).getLsbD j) % 2 == 1)
      ∧ ones (cleanForm d) % 2 = 0
      ∧ (∀ j, j < 32 → (poisonForm d).getLsbD j = d.getLsbD j)
      ∧ (∀ i, i < 8 → (poisonForm d).getLsbD (32 + i) = !(cleanForm d).getLsbD (32 + i))

/-- The outcome of any 40 positions is the class R79 puts them in, with the data R79 gives; and a clean or poison form with two
positions inverted is UNCORRECTABLE. -/
def Obligations.OutcomeClasses : Prop :=
  (∀ w : StoredWord,
      ((classify w).1 = .clean ↔ w = cleanForm (storedData w))
        ∧ ((classify w).1 = .corrected ↔ ∃ d p, p < 40 ∧ w = flipAt (cleanForm d) p)
        ∧ ((classify w).1 = .poisoned ↔ ∃ d, w = poisonForm d ∨ ∃ p, p < 40 ∧ w = flipAt (poisonForm d) p)
        ∧ (∀ d p, p < 40 → w = flipAt (cleanForm d) p → (classify w).2 = d)
        ∧ ((classify w).1 ≠ .corrected → (classify w).2 = storedData w))
    ∧ ∀ (d : Word) (p q : Nat), p < q → q < 40 →
        (classify (flipAt (flipAt (cleanForm d) p) q)).1 = .uncorrectable
          ∧ (classify (flipAt (flipAt (poisonForm d) p) q)).1 = .uncorrectable

/-- What a later read of an injected word gives, over a clean and over a poison form (R87, R88). -/
def Obligations.InjectionOutcomes : Prop :=
  ∀ (d : Word) (p q : Nat), p < 32 → q < 32 → p ≠ q →
    classify (injectForm (.one p) (cleanForm d)) = (.corrected, d)
      ∧ classify (injectForm (.two p q) (cleanForm d)) = (.uncorrectable, flipAt (flipAt d p) q)
      ∧ classify (injectForm .poison (cleanForm d)) = (.poisoned, d)
      ∧ (classify (injectForm (.one p) (poisonForm d))).1 = .poisoned
      ∧ (classify (injectForm (.two p q) (poisonForm d))).1 = .uncorrectable
      ∧ injectForm .poison (poisonForm d) = poisonForm d

/-- The stored form and the word status of one word of a WRITE, by its byte enables, and the bytes of merged data (R82). -/
def Obligations.StoredFormsOfWrite : Prop :=
  (∀ (enables : BitVec 4) (written stored : Word) (k : Nat), k < 4 →
      (mergeData enables written stored).extractLsb' (8 * k) 8
        = if enables.getLsbD k then written.extractLsb' (8 * k) 8 else stored.extractLsb' (8 * k) 8)
    ∧ ∀ (w : WriteWord) (fetched : StoredWord),
        (w.enables = 15 → planWord w fetched = (some (cleanForm w.data), .good))
          ∧ (w.enables = 0 → planWord w fetched = (none, .good))
          ∧ (w.enables ≠ 0 → w.enables ≠ 15 →
              planWord w fetched =
                if (classify fetched).1 = .clean ∨ (classify fetched).1 = .corrected then
                  (some (cleanForm (mergeData w.enables w.data (classify fetched).2)), .good)
                else (some (poisonForm (mergeData w.enables w.data (storedData fetched))), .bad))

/-- The store runs of a list of words that starts at word `first` of the line: they hold exactly the words to be stored, each at
its place, in address order, and a word not stored stands between any two (R84). -/
def Obligations.StoreRunsHoldStoredWords : Prop :=
  ∀ (first : Nat) (words : List (Option StoredWord)),
    (∀ (k : Nat) (form : StoredWord),
        words[k]? = some (some form)
          ↔ ∃ run ∈ storeRuns first words, run.first ≤ first + k ∧ run.forms[first + k - run.first]? = some form)
      ∧ (∀ run ∈ storeRuns first words, run.forms ≠ [] ∧ first ≤ run.first)
      ∧ (storeRuns first words).Pairwise fun a b => a.first + a.forms.length < b.first

/-! ## The upstream port -/

/-- The split of an upstream word address, and the word offset (R7). -/
def Obligations.AddressSplit : Prop :=
  ∀ a : Nat,
    blockOf a = a / 256 ∧ lineOf a = a / 16 % 16 ∧ wordOf a = a % 16
      ∧ a % 256 = 16 * lineOf a + wordOf a ∧ a = 256 * blockOf a + 16 * lineOf a + wordOf a
      ∧ lineOf a < 16 ∧ wordOf a < 16

/-- TRANSACTION_ACCEPTED: while 4 are held the transaction is not taken; behind others it joins at the tail with the mark its
mode gives (R91, R93); alone and marked REFUSE, it is answered NOT_READY at once, whatever its shape (R92, R93). -/
def Obligations.AcceptanceTakesMark : Prop :=
  ∀ (t : Transaction) (s : State),
    (4 ≤ s.upstream.held.length → exec (.transactionAccepted t) s = .next s)
      ∧ (1 ≤ s.upstream.held.length → s.upstream.held.length < 4 →
          exec (.transactionAccepted t) s = .next
            { s with
              upstream := { s.upstream with
                held := s.upstream.held
                  ++ [{ transaction := t, mark := if s.mode = .online then .serve else .refuse }] } })
      ∧ (s.upstream.held = [] → s.mode ≠ .online → s.port.link = .up →
          exec (.transactionAccepted t) s = .next
            { s with
              upstream :=
                { held := [{ transaction := t, mark := .refuse }], progress := .answer (bareAnswer t .notReady) } })

/-- A transaction accepted ONLINE into an empty queue is checked for shape, range and enabled bytes, in that order, and refused or
answered without an access (R9, R10, R11, R94). -/
def Obligations.ServedTransactionChecks : Prop :=
  ∀ (t : Transaction) (s : State),
    s.mode = .online → s.upstream.held = [] → s.upstream.progress = .idle → s.port.link = .up → s.settledLaw →
    ∃ p : Progress,
      (exec (.transactionAccepted t) s = .next
          { s with upstream := { held := [{ transaction := t, mark := .serve }], progress := p } })
        ∧ (¬ (1 ≤ statedLength t ∧ statedLength t ≤ 16 ∧ firstAddress t % 16 + statedLength t ≤ 16
                ∧ (∀ a n words, t = .write a n words → words.length = n)) →
            p = .answer (bareAnswer t .badRequest))
        ∧ (shapeOk t = true → s.settings.visible * 256 ≤ firstAddress t → p = .answer (bareAnswer t .outOfRange))
        ∧ (shapeOk t = true → firstAddress t < s.settings.visible * 256 →
            (∀ a n words, t = .write a n words → (∀ w ∈ words, w.enables = 0) →
                p = .answer (.write .okay (words.map fun _ => .good)))
              ∧ (∀ a n, t = .read a n → p = .fetch)
              ∧ (∀ a n words, t = .write a n words → (∃ w ∈ words, isPartial w = true) → p = .mergeRead)
              ∧ (∀ a n words, t = .write a n words → (∃ w ∈ words, w.enables ≠ 0) → (∀ w ∈ words, isPartial w = false) →
                  p = .store
                    { runs := storeRuns (a % 16) (words.map fun w =>
                        if w.enables = 0 then none else some (cleanForm w.data)),
                      statuses := words.map fun _ => .good, dual := none }))

/-- While the link is DOWN a transaction marked SERVE that needs an access is answered LINK_FAILED at once, with no access, record
or count (R98, R101, R102, R103). -/
def Obligations.LinkDownAnswersAtOnce : Prop :=
  ∀ (t : Transaction) (s : State),
    s.mode = .online → s.upstream.held = [] → s.port.link = .down → s.port.outstanding = none →
    shapeOk t = true → inRange s.settings t = true →
    (∀ a n, t = .read a n →
        exec (.transactionAccepted t) s = .next
          { s with
            upstream := { held := [{ transaction := t, mark := .serve }], progress := .answer (.read .linkFailed []) } })
      ∧ ∀ a n words, t = .write a n words → (∃ w ∈ words, w.enables ≠ 0) →
          exec (.transactionAccepted t) s = .next
            { s with
              upstream :=
                { held := [{ transaction := t, mark := .serve }]
                  progress := .answer (.write .linkFailed
                    (words.map fun w => if w.enables = 0 then .good else .bad)) } }

/-- ANSWER_TAKEN: the oldest transaction leaves the queue; the next, if there is one marked REFUSE, is answered NOT_READY, and one
marked SERVE enters the phase that R94's checks give it, or is answered LINK_FAILED while the link is DOWN; and STOPPING ends when no
transaction marked SERVE is left (R92, R93, R94, R103, R150). -/
def Obligations.AnswerTakenLeavesQueue : Prop :=
  ∀ (s : State) (given : Answer) (h : Held) (rest : List Held),
    s.upstream.progress = .answer given → s.upstream.held = h :: rest → s.settledLaw →
    (rest = [] →
        exec .answerTaken s = .next
          { s with
            mode := if s.mode = .stopping then .offline else s.mode
            upstream := { held := [], progress := .idle } })
      ∧ ∀ next more, rest = next :: more →
        (next.mark = .refuse →
            exec .answerTaken s = .next
              { s with
                mode := if s.mode = .stopping ∧ (∀ x ∈ rest, x.mark = .refuse) then .offline else s.mode
                upstream := { held := rest, progress := .answer (bareAnswer next.transaction .notReady) } })
          ∧ (next.mark = .serve → (s.port.link = .down → s.port.outstanding = none) →
            ∃ p, firstPhase s.settings s.port.link next.transaction p
              ∧ exec .answerTaken s = .next { s with upstream := { held := rest, progress := p } })

/-! ## Routes, tags and the arbiter -/

/-- Where a read and the store of a run go, for each state of the entry for a block, when at most one entry routes it (R17, R20,
R21). -/
def Obligations.RoutesFollowEntry : Prop :=
  ∀ (v : Nat) (table : RemapTable) (b l : Nat),
    ((∀ j, j < 64 → (entryAt table j).routed? ≠ some b) →
        readRoute v table b l = b ∧ storeRoute v table b l = (b, none))
      ∧ ∀ i, i < 64 → (∀ j, j < 64 → j ≠ i → (entryAt table j).routed? ≠ some b) →
          (∀ origin, entryAt table i = .active b origin →
              readRoute v table b l = v + i ∧ storeRoute v table b l = (v + i, none))
            ∧ (∀ cursor origin, entryAt table i = .copying b .source cursor origin →
                (l < cursor → readRoute v table b l = v + i ∧ storeRoute v table b l = (b, some (v + i)))
                  ∧ (cursor ≤ l → readRoute v table b l = b ∧ storeRoute v table b l = (b, none)))
            ∧ ∀ j cursor origin, entryAt table i = .copying b (.leaving j) cursor origin →
                (l < cursor → readRoute v table b l = v + i ∧ storeRoute v table b l = (v + j, some (v + i)))
                  ∧ (cursor ≤ l → readRoute v table b l = v + j ∧ storeRoute v table b l = (v + j, none))

/-- The tag of the next access is the tag last given plus 1 modulo 16, skipping every abandoned tag; it is never an abandoned one
(R109, R113). -/
def Obligations.TagSkipsAbandoned : Prop :=
  ∀ (last : Tag) (abandoned : List Tag), abandoned.length ≤ 8 →
    nextTag last abandoned ∉ abandoned
      ∧ ∃ k, k < 16 ∧ nextTag last abandoned = last + 1 + BitVec.ofNat 4 k
          ∧ ∀ m, m < k → last + 1 + BitVec.ofNat 4 m ∈ abandoned

/-- With no access outstanding and a request waiting, the arbiter chooses a waiting requester: one at 32, MIGRATION before SCRUB, else
the first in the base order; the count of the requester granted returns to 0 and that of a waiting one passed over rises by 1, up to 32.
It grants none while an access is outstanding or none waits, and no request waits while the link is DOWN (R108, R114, R116, R117). That
ARBITER_GRANT then changes nothing is the model's choice for an event that cannot come (log entry 9). While the link is UP and no access
of its own is outstanding, a store run makes a request but for the first access to a held line: the grant of a held attempt's copy read
withdraws the request, and the OK end of the attempt's copy write, or an abort, brings it back (R48, R100). -/
def Obligations.ArbiterOrder : Prop :=
  (∀ s : State,
    (s.port.outstanding ≠ none ∨ (∀ r, s.waiting r = false) → exec .arbiterGrant s = .next s)
      ∧ (s.port.link = .down → ∀ r, s.waiting r = false)
      ∧ (s.port.outstanding = none → ∀ r, s.waiting r = true → ∃ q, s.choose [] = some q)
      ∧ (s.port.outstanding = none → ∀ r, s.choose [] = some r →
          s.waiting r = true
            ∧ (s.waiting .migration = true → s.port.migrationPassed = 32 → r = .migration)
            ∧ (s.waiting .scrub = true → s.port.scrubPassed = 32 → r = .scrub ∨ r = .migration ∧ s.port.migrationPassed = 32)
            ∧ (¬ (s.waiting .migration = true ∧ s.port.migrationPassed = 32) →
                ¬ (s.waiting .scrub = true ∧ s.port.scrubPassed = 32) →
                ∀ q : Requester, q.rank < r.rank → s.waiting q = false)
            ∧ ∃ t, exec .arbiterGrant s = .next t
                ∧ t.port.migrationPassed
                    = (if r = .migration then 0 else passedOver (s.waiting .migration) s.port.migrationPassed)
                ∧ t.port.scrubPassed = if r = .scrub then 0 else passedOver (s.waiting .scrub) s.port.scrubPassed))
    ∧ ∀ (s : State) (t : Transaction) (store : StoreWork),
      s.port.link = .up → s.upstream.progress = .store store → s.current = some t →
      (s.awaiting .upstream = false →
          (s.waiting .upstream = false ↔
            store.dual = none ∧ ∃ copy copyFrom origin, s.migration.engine = .copying copy ∧ copy.holding = true
              ∧ entryAt s.remap copy.target
                = .copying (blockOf (firstAddress t)) copyFrom (lineOf (firstAddress t)) origin))
        ∧ ∀ copy, s.migration.engine = .copying copy → store.dual = none →
          (∀ copyFrom origin, s.port.outstanding = none → s.choose [] = some .migration → copy.held = true →
              copy.phase = .reading →
              entryAt s.remap copy.target
                = .copying (blockOf (firstAddress t)) copyFrom (lineOf (firstAddress t)) origin →
              ∃ u, exec .arbiterGrant s = .next u ∧ u.upstream = s.upstream ∧ u.waiting .upstream = false)
            ∧ ∀ a c u, s.port.outstanding = some a → a.discarded = false → s.migration.queue ≠ [] →
              (a.purpose = .copyWrite ∧ (c = .memoryResponse a.tag .ok [] false ∨ s.failsBy a c u)
                ∨ a.purpose = .copyRead ∧ 3 ≤ copy.attempt ∧ s.failsBy a c u) →
              ∃ v, exec c s = .next v ∧ v.upstream = s.upstream ∧ v.waiting .upstream = true

/-- ARBITER_GRANT to each requester but a store: the access it issues, and all that changes (R42, R44, R48, R95, R108, R119, R120,
R126). -/
def Obligations.GrantIssuesAccess : Prop :=
  ∀ s : State, s.port.outstanding = none →
    (∀ a n, s.choose [] = some .upstream → s.upstream.progress = .fetch → s.current = some (.read a n) →
        exec .arbiterGrant s = .next
          (s.granted .upstream .fetch (readRoute s.settings.visible s.remap (blockOf a) (lineOf a)) (lineOf a) (wordOf a) n
            []))
      ∧ (∀ a n words first last, s.choose [] = some .upstream → s.upstream.progress = .mergeRead →
          s.current = some (.write a n words) → first ≤ last →
          (∀ k w, words[k]? = some w → isPartial w = true → first ≤ k ∧ k ≤ last) →
          (∃ w, words[first]? = some w ∧ isPartial w = true) → (∃ w, words[last]? = some w ∧ isPartial w = true) →
          exec .arbiterGrant s = .next
            (s.granted .upstream .mergeRead (readRoute s.settings.visible s.remap (blockOf a) (lineOf a)) (lineOf a)
              (wordOf a + first) (last + 1 - first) []))
      ∧ (∀ e rest, s.choose [] = some .writeBack → s.writeBack.entries = e :: rest →
          exec .arbiterGrant s = .next (s.granted .writeBack .writeBack e.block e.line e.word 1 [cleanForm e.data]))
      ∧ (s.choose [] = some .scrub →
          exec .arbiterGrant s = .next
            (State.granted s .scrub .scrubRead
                (readRoute s.settings.visible s.remap s.scrubber.block s.scrubber.line) s.scrubber.line 0 16 []
              |> fun t => { t with scrubber := { s.scrubber with state := .pending } }))
      ∧ ∀ work source copyFrom cursor origin, s.choose [] = some .migration → s.migration.engine = .copying work →
          entryAt s.remap work.target = .copying source copyFrom cursor origin →
          (work.phase = .reading →
              exec .arbiterGrant s = .next
                (s.granted .migration .copyRead (fromBlock s.settings.visible source copyFrom) cursor 0 16 []
                  |> fun t => { t with
                      migration := { s.migration with
                        engine := .copying { work with inFlight := true, holding := work.held } } }))
            ∧ ∀ buffer, work.phase = .writing buffer →
                exec .arbiterGrant s = .next
                  ((s.cancelRun (s.settings.visible + work.target) cursor 0 16).granted .migration .copyWrite
                    (s.settings.visible + work.target) cursor 0 16 buffer)

/-- ARBITER_GRANT to a store run none of whose words the armed injection names and whose line is not in flight: one access, or the
first of a dual store with its spare access pending; and the spare access goes to the block fixed at the first grant. Each cancels
the write-back entries its run covers (R21, R22, R84, R87, R99, R108, R119). That the spare access carries the forms of the first grant
whatever record has been armed since, and leaves that record armed, is the model's choice (log entry 17). -/
def Obligations.GrantIssuesStore : Prop :=
  ∀ (s : State) (t : Transaction) (work : StoreWork) (run : StoreRun) (rest : List StoreRun) (b l : Nat),
    s.port.outstanding = none → s.choose [] = some .upstream → s.upstream.progress = .store work →
    s.current = some t → work.runs = run :: rest → b = blockOf (firstAddress t) → l = lineOf (firstAddress t) →
    (work.dual = none →
        (∀ i ∈ s.injection, i.address < 256 * b + 16 * l + run.first ∨
          256 * b + 16 * l + run.first + run.forms.length ≤ i.address) →
        (∀ copy ∈ s.migration.engine.work?, copy.inFlight = true →
          ∀ c ∈ (entryAt s.remap copy.target).copy?, c.1 ≠ b ∨ c.2.2 ≠ l) →
        (∀ block, storeRoute s.settings.visible s.remap b l = (block, none) →
          exec .arbiterGrant s = .next
            ((s.cancelRun block l run.first run.forms.length).granted .upstream .storeSingle block l run.first
              run.forms.length run.forms))
          ∧ ∀ block spare, storeRoute s.settings.visible s.remap b l = (block, some spare) →
            exec .arbiterGrant s = .next
              (((s.cancelRun block l run.first run.forms.length).granted .upstream .storeFirst block l run.first
                  run.forms.length run.forms)
                |> fun u => { u with
                    upstream := { s.upstream with
                      progress := .store { work with
                        dual := some { block := spare, forms := run.forms, fate := .inFlight } } } }))
      ∧ ∀ dual, work.dual = some dual →
          exec .arbiterGrant s = .next
            ((s.cancelRun dual.block l run.first dual.forms.length).granted .upstream .storeSpare dual.block l run.first
              dual.forms.length dual.forms)

/-- The grant of an upstream store to the line in flight, none of whose words the armed injection names, marks the line overtaken
and sends the store to the from-location alone (R21, R47, R87). -/
def Obligations.StoreOvertakesLine : Prop :=
  ∀ (s : State) (t : Transaction) (store : StoreWork) (run : StoreRun) (rest : List StoreRun) (work : CopyWork)
    (source cursor : Nat) (copyFrom : CopyFrom) (origin : Origin),
    s.port.outstanding = none → s.choose [] = some .upstream → s.upstream.progress = .store store →
    s.current = some t → store.runs = run :: rest → store.dual = none →
    (∀ i ∈ s.injection, i.address < 256 * source + 16 * cursor + run.first ∨
      256 * source + 16 * cursor + run.first + run.forms.length ≤ i.address) →
    s.migration.engine = .copying work → entryAt s.remap work.target = .copying source copyFrom cursor origin →
    entryFor s.remap source = some work.target → blockOf (firstAddress t) = source → lineOf (firstAddress t) = cursor →
    work.inFlight = true →
    exec .arbiterGrant s = .next
      (((s.cancelRun (fromBlock s.settings.visible source copyFrom) cursor run.first run.forms.length).granted .upstream
          .storeSingle (fromBlock s.settings.visible source copyFrom) cursor run.first run.forms.length run.forms)
        |> fun u => { u with migration := { s.migration with engine := .copying { work with overtaken := true } } })

/-- INJECT arms the record it names, in place of any other, unless its address lies beyond the visible area, its kind is unknown or
its positions do not fit (R86, R168). At the grant of a store run that holds the word the armed record names, the word's form is
changed by the kind and no other, the record is disarmed, and one INJECT_APPLIED record is made; a run that does not hold it
leaves the record armed. The access goes to the place R21 gives, and for a dual store the pending spare access carries the same forms,
changed or not (R21, R22, R87). The spare grant of a dual store is GrantIssuesStore's (log entry 17). -/
def Obligations.InjectionArmedAndApplied : Prop :=
  (∀ (s : State) (a0 a1 a2 a3 kind p q : Byte) (a : Nat), leValue [a0, a1, a2, a3] = a →
      (256 * s.settings.visible ≤ a ∨ (kind ≠ 1 ∧ kind ≠ 2 ∧ kind ≠ 3) ∨ (kind = 1 ∧ 32 ≤ p.toNat)
            ∨ (kind = 2 ∧ (32 ≤ p.toNat ∨ 32 ≤ q.toNat ∨ p = q)) →
          exec (.inject s.management.address [a0, a1, a2, a3, kind, p, q]) s = .next (s.answered .badArgument []))
        ∧ (a < 256 * s.settings.visible →
            (p.toNat < 32 →
                exec (.inject s.management.address [a0, a1, a2, a3, 1, p, q]) s = .next
                  (State.answered { s with injection := some { address := a, kind := .one p.toNat } } .ok []))
              ∧ (p.toNat < 32 → q.toNat < 32 → p ≠ q →
                exec (.inject s.management.address [a0, a1, a2, a3, 2, p, q]) s = .next
                  (State.answered { s with injection := some { address := a, kind := .two p.toNat q.toNat } } .ok []))
              ∧ exec (.inject s.management.address [a0, a1, a2, a3, 3, p, q]) s = .next
                  (State.answered { s with injection := some { address := a, kind := .poison } } .ok [])))
    ∧ ∀ (s : State) (t : Transaction) (work : StoreWork) (run : StoreRun) (rest : List StoreRun) (armed : Injection),
      s.port.outstanding = none → s.choose [] = some .upstream → s.upstream.progress = .store work →
      s.current = some t → work.runs = run :: rest → work.dual = none → s.injection = some armed →
      ∃ u a, exec .arbiterGrant s = .next u ∧ u.port.outstanding = some a ∧ a.first = run.first
        ∧ a.words.length = run.forms.length ∧ a.line = lineOf (firstAddress t)
        ∧ (∀ block spare?,
            storeRoute s.settings.visible s.remap (blockOf (firstAddress t)) (lineOf (firstAddress t)) = (block, spare?) →
            a.block = block
              ∧ (spare? = none → a.purpose = .storeSingle ∧ u.upstream = s.upstream)
              ∧ ∀ spare, spare? = some spare → a.purpose = .storeFirst
                ∧ u.upstream = { s.upstream with
                    progress := .store { work with
                      dual := some { block := spare, forms := a.words, fate := .inFlight } } })
        ∧ (∀ base, base = 256 * blockOf (firstAddress t) + 16 * lineOf (firstAddress t) + run.first →
            (base ≤ armed.address → armed.address < base + run.forms.length →
                u.injection = none
                  ∧ u.records = s.records.take
                      { kind := .injectApplied, source := .management,
                        location := some (.visible (armed.address / 256)), offset := some (armed.address % 256) }
                  ∧ ∀ k form, run.forms[k]? = some form →
                      a.words[k]? = some (if base + k = armed.address then injectForm armed.kind form else form))
              ∧ (armed.address < base ∨ base + run.forms.length ≤ armed.address →
                  u.injection = some armed ∧ u.records = s.records ∧ a.words = run.forms))

/-! ## Ends of accesses -/

/-- A response whose tag is not the outstanding access's: a late one only leaves the abandoned set; a foreign one only makes a
LINK_FAULT record with detail UNEXPECTED_TAG (R111, R112). -/
def Obligations.StrayResponsesDiscarded : Prop :=
  ∀ (s : State) (tag : Tag) (result : MemResult) (words : List StoredWord) (grantFirst : Bool),
    (∀ a ∈ s.port.outstanding, a.tag ≠ tag) →
    (tag ∈ s.port.abandoned →
        exec (.memoryResponse tag result words grantFirst) s = .next
          { s with port := { s.port with abandoned := s.port.abandoned.erase tag } })
      ∧ (tag ∉ s.port.abandoned →
        exec (.memoryResponse tag result words grantFirst) s = .next
          { s with
            records := s.records.take { kind := .linkFault, source := .link, detail := some .unexpectedTag } })

/-- A fetch that ends OK: the READ goes to ANSWER with each word's data and status by its outcome, OKAY when no word is BAD or
POISON, else DATA_ERROR; the slot is free; each CORRECTED word is offered for write-back in turn while REPAIR_ON_READ is on; and when
every word is CLEAN nothing else changes (R95, R96, R97, R108, R118). -/
def Obligations.FetchAnswersWords : Prop :=
  ∀ (s : State) (a : Access) (t : Transaction) (words : List StoredWord),
    s.port.link = .up → s.port.outstanding = some a → a.purpose = .fetch → a.discarded = false →
    s.upstream.progress = .fetch → s.current = some t → words.length = a.count →
    (∃ u status answer,
      exec (.memoryResponse a.tag .ok words false) s = .next u
        ∧ u.port.outstanding = none ∧ u.upstream = { s.upstream with progress := .answer (.read status answer) }
        ∧ u.mode = s.mode ∧ u.settings = s.settings ∧ u.management = s.management ∧ u.injection = s.injection
        ∧ u.writeBack =
          (if s.settings.repairOnRead then
            (offersOf a.block (lineOf (firstAddress t)) (wordOf (firstAddress t)) words).foldl WriteBackBuffer.offer
              s.writeBack
          else s.writeBack)
        ∧ answer.length = words.length
        ∧ (∀ (k : Nat) (w : StoredWord), words[k]? = some w →
            answer[k]? = some
              { data := if (classify w).1 = .corrected then (classify w).2 else storedData w
                status :=
                  match (classify w).1 with
                  | .clean => .good
                  | .corrected => .corrected
                  | .uncorrectable => .bad
                  | .poisoned => .poison })
        ∧ (status = .okay ↔ ∀ w ∈ words, (classify w).1 = .clean ∨ (classify w).1 = .corrected)
        ∧ (status = .okay ∨ status = .dataError))
      ∧ (s.settledLaw → (∀ w ∈ words, (classify w).1 = .clean) →
        exec (.memoryResponse a.tag .ok words false) s = .next
          { s with
            port := { s.port with outstanding := none }
            upstream := { s.upstream with
              progress := .answer (.read .okay (words.map fun w => { data := storedData w, status := .good })) } })

/-- A fetch that ends by FAULT, or by expiry below the eighth abandoned tag: the READ is answered LINK_FAILED with an empty list,
the port's record is made, and an expiry adds the tag to the abandoned set (R95, R110, R111, R112). -/
def Obligations.FetchFails : Prop :=
  ∀ (s : State) (a : Access) (t : Transaction),
    s.port.link = .up → s.settledLaw → s.port.outstanding = some a → a.purpose = .fetch → a.discarded = false →
    s.upstream.progress = .fetch → s.current = some t →
    (exec (.memoryResponse a.tag .fault [] false) s = .next
        { s with
          port := { s.port with outstanding := none }
          records := s.records.take
            { kind := .linkFault, source := .link, location := some (locationOf s.settings a.block),
              offset := some (16 * a.line + a.first) }
          upstream := { s.upstream with progress := .answer (.read .linkFailed []) } })
      ∧ (s.port.abandoned.length < 7 →
        exec (.responseTimerExpiry false) s = .next
          { s with
            port := { s.port with outstanding := none, abandoned := s.port.abandoned ++ [a.tag] }
            records := s.records.take
              { kind := .linkTimeout, source := .link, location := some (locationOf s.settings a.block),
                offset := some (16 * a.line + a.first) }
            upstream := { s.upstream with progress := .answer (.read .linkFailed []) } })

/-- The merge read of a WRITE ends: OK, the WRITE goes to STORE with the runs of its stored words and their planned statuses, each
partial word merged with its own fetched word, and when every word is CLEAN nothing else changes; failed, it is answered LINK_FAILED
with every word that has a byte enabled BAD (R82, R83, R84, R98). -/
def Obligations.MergeReadEnds : Prop :=
  ∀ (s : State) (a : Access) (address n first last : Nat) (list : List WriteWord) (words : List StoredWord),
    s.port.link = .up → s.settledLaw → s.port.outstanding = some a → a.purpose = .mergeRead → a.discarded = false →
    s.upstream.progress = .mergeRead → s.current = some (.write address n list) → first ≤ last →
    (∀ k w, list[k]? = some w → isPartial w = true → first ≤ k ∧ k ≤ last) →
    (∃ w, list[first]? = some w ∧ isPartial w = true) → (∃ w, list[last]? = some w ∧ isPartial w = true) →
    ∀ plan : List (Option StoredWord × WriteStatus),
      plan = (list.zipIdx.map fun (w, k) => planWord w (words.getD (k - first) 0)) →
      (a.count = last + 1 - first → words.length = a.count →
          (∃ u, exec (.memoryResponse a.tag .ok words false) s = .next u ∧ u.port.outstanding = none
            ∧ u.upstream = { s.upstream with
                progress := .store
                  { runs := storeRuns (wordOf address) (plan.map (·.1)), statuses := plan.map (·.2), dual := none } }
            ∧ u.writeBack = s.writeBack ∧ u.settings = s.settings ∧ u.injection = s.injection)
          ∧ ((∀ w ∈ words, (classify w).1 = .clean) →
            exec (.memoryResponse a.tag .ok words false) s = .next
              { s with
                port := { s.port with outstanding := none }
                upstream := { s.upstream with
                  progress := .store
                    { runs := storeRuns (wordOf address) (list.zipIdx.map fun (w, k) =>
                        if w.enables = 0 then none
                        else if w.enables = 15 then some (cleanForm w.data)
                        else some (cleanForm (mergeData w.enables w.data (storedData (words.getD (k - first) 0))))),
                      statuses := list.map fun _ => .good, dual := none } } }))
        ∧ ∀ c u, s.failsBy a c u →
          exec c s = .next
            { u with
              upstream := { s.upstream with
                progress := .answer (.write .linkFailed (list.map fun w => if w.enables = 0 then .good else .bad)) } }

/-- The expiry that brings the abandoned set to 8 tags takes the link DOWN in the same change, whatever access it ends: nothing is
outstanding, no request waits, the interval timer stops, a DUE scrub is withdrawn with its position kept, and LINK_DOWN is set
(R111, R113, R114, R124, R142). The requester of the expired access takes its ending, and the upstream request or the pending spare
access that waits then, or is next asked for, ends LINK_FAILED without issue (R23, R50, R101, R103, R114). That the requester comes
first, and LINK_TIMEOUT before LINK_DOWN, is the model's order (log entry 8). -/
def Obligations.EighthTagTakesLinkDown : Prop :=
  ∀ (s : State) (a : Access) (grantFirst : Bool),
    s.port.outstanding = some a → s.port.abandoned.length = 7 →
    ∃ t, exec (.responseTimerExpiry grantFirst) s = .next t
      ∧ t.port.link = .down ∧ t.port.abandoned = s.port.abandoned ++ [a.tag] ∧ t.port.outstanding = none
      ∧ t.port.lastTag = s.port.lastTag ∧ (∀ r, t.waiting r = false) ∧ t.scrubber.timer = none ∧ t.flags.linkDown = true
      ∧ t.mode = s.mode ∧ t.settings = s.settings ∧ t.management = s.management
      ∧ (s.scrubber.state = .due → a.purpose ≠ .scrubRead →
          t.scrubber = { s.scrubber with timer := none, state := .idle })
      ∧ ∀ lost : State, lost = s.linkLost a →
        (a.discarded = true → lost.requestEnds t)
          ∧ (a.discarded = false →
            (a.purpose = .scrubRead → s.scrubber.line ≤ 15 → s.scrubber.block < s.settings.visible →
                lost.scrubMoved.requestEnds t)
              ∧ (a.purpose = .writeBack →
                State.requestEnds
                  { lost with
                    writeBack := { s.writeBack with
                      entries := s.writeBack.entries.filter fun e =>
                        !(e.block == a.block && e.line == a.line && e.word == a.first) } } t)
              ∧ (∀ copy, a.purpose = .copyRead → s.migration.engine = .copying copy → copy.attempt < 3 →
                State.requestEnds
                  { lost with
                    migration := { s.migration with
                      engine := .copying
                        { copy with attempt := copy.attempt + 1, inFlight := false, overtaken := false } } } t)
              ∧ (∀ copy r behind detail left table, s.migration = { queue := r :: behind, engine := .copying copy } →
                a.purpose = .copyRead ∧ 3 ≤ copy.attempt ∧ detail = .readFailed ∧ left = .free
                  ∨ a.purpose = .copyWrite ∧ detail = .targetFailed ∧ left = .retired .writeFailed →
                s.abortsTo copy.target left table →
                ((lost.afterAbort copy r table detail).afterFailure r behind copy.target).requestEnds t)
              ∧ (a.purpose = .fetch ∨ a.purpose = .mergeRead ∨ a.purpose = .storeSingle ∨ a.purpose = .storeSpare →
                s.calledFor a = true → lost.requestEnds t)
              ∧ ∀ transaction work, a.purpose = .storeFirst → s.upstream.progress = .store work →
                s.current = some transaction →
                t = { lost with
                  upstream := { s.upstream with progress := work.failed (firstAddress transaction % 16) } })

/-- The ends of store accesses. A single access: OK, the next run is asked for or the WRITE is answered by its planned statuses;
failed, the WRITE is answered LINK_FAILED with the words of this and later runs BAD. The first of a dual store: OK, the spare access
is asked for; failed, LINK_FAILED in the same way, the spare access is not issued, and the migration stands. The spare access: OK, the
run has succeeded. Where no dual spare write is left pending the engine tries (log entry 12). The end of a write-back, OK or failed:
its entry leaves the buffer, if it is still there (R22, R23, R99, R101, R102, R120). -/
def Obligations.StoreRunEnds : Prop :=
  (∀ (s : State) (a : Access) (t : Transaction) (work : StoreWork) (run : StoreRun) (rest : List StoreRun),
    s.port.link = .up → s.port.outstanding = some a → a.discarded = false → s.upstream.progress = .store work →
    s.current = some t → work.runs = run :: rest →
    (a.purpose = .storeSingle → work.dual = none → s.settledLaw →
        exec (.memoryResponse a.tag .ok [] false) s = .next
            { s with
              port := { s.port with outstanding := none }
              upstream := { s.upstream with progress := work.succeeded rest } }
          ∧ ∀ c u, s.failsBy a c u →
            exec c s = .next
              { u with upstream := { s.upstream with progress := work.failed (firstAddress t % 16) } })
      ∧ (∀ dual, a.purpose = .storeFirst → work.dual = some dual →
          (∀ asked : State, asked = { s with port := { s.port with outstanding := none } } →
              exec (.memoryResponse a.tag .ok [] false) s = .next asked ∧ asked.waiting .upstream = true)
            ∧ ∀ c u, s.failsBy a c u →
              exec c s = exec .migrationStart
                { u with upstream := { s.upstream with progress := work.failed (firstAddress t % 16) } })
      ∧ ∀ dual, a.purpose = .storeSpare → work.dual = some dual →
          exec (.memoryResponse a.tag .ok [] false) s = exec .migrationStart
            { s with
              port := { s.port with outstanding := none }
              upstream := { s.upstream with progress := work.succeeded rest } })
    ∧ ∀ (s : State) (a : Access) (left : WriteBackBuffer),
      s.port.link = .up → s.settledLaw → s.port.outstanding = some a → a.purpose = .writeBack →
      left = (if a.discarded then s.writeBack
        else { s.writeBack with
          entries := s.writeBack.entries.filter fun e =>
            !(e.block == a.block && e.line == a.line && e.word == a.first) }) →
      exec (.memoryResponse a.tag .ok [] false) s = .next
          { s with port := { s.port with outstanding := none }, writeBack := left }
        ∧ ∀ c u, s.failsBy a c u → exec c s = .next { u with writeBack := left }

/-- The spare access of a dual store that fails. With its migration in flight the run stands and the migration is aborted with target
failure: the target RETIRED, a LEAVING entry ACTIVE again, the request moved to the tail or dropped, and, whichever of the ending and
the next grant is taken first (log entry 5), no copy access is outstanding after it. With that migration completed the run has failed: the WRITE is
answered LINK_FAILED with the words of this and later runs BAD. With it aborted the run stands. Then the engine tries, since no dual
spare write is pending (log entry 12) (R22, R23, R26, R50, R51, R52, R53, R101). -/
def Obligations.SpareStoreFails : Prop :=
  ∀ (s : State) (a : Access) (t : Transaction) (work : StoreWork) (run : StoreRun) (rest : List StoreRun) (dual : DualWrite),
    s.port.link = .up → s.port.outstanding = some a → a.purpose = .storeSpare → a.discarded = false →
    s.upstream.progress = .store work → s.current = some t → work.runs = run :: rest → work.dual = some dual →
    (∀ c u, s.failsBy a c u →
        (dual.fate = .completed →
            exec c s = exec .migrationStart
              { u with upstream := { s.upstream with progress := work.failed (firstAddress t % 16) } })
          ∧ ∀ stands : State, stands = { u with upstream := { s.upstream with progress := work.succeeded rest } } →
            (dual.fate = .aborted → exec c s = exec .migrationStart stands)
              ∧ ∀ copy r behind table, dual.fate = .inFlight →
                s.migration = { queue := r :: behind, engine := .copying copy } →
                s.abortsTo copy.target (.retired .writeFailed) table →
                exec c s = exec .migrationStart
                  ((stands.afterAbort copy r table .targetFailed).afterFailure r behind copy.target))
      ∧ ∀ grantFirst c, dual.fate = .inFlight →
          c = .memoryResponse a.tag .fault [] grantFirst ∨ c = .responseTimerExpiry grantFirst →
          ∃ u, exec c s = .next u ∧ ∀ b ∈ u.port.outstanding, b.purpose ≠ .copyRead ∧ b.purpose ≠ .copyWrite

/-! ## The scrubber -/

/-- SCRUB_INTERVAL_EXPIRY: the running timer starts again from 0, and an IDLE scrubber goes DUE; in DUE or PENDING the expiry is lost
(R125). That the event changes nothing while the timer is stopped is the model's choice for an event that cannot come (log entry 9). -/
def Obligations.ScrubExpiryMakesDue : Prop :=
  ∀ s : State,
    (s.scrubber.timer = none → exec .scrubIntervalExpiry s = .next s)
      ∧ (∀ time, s.scrubber.timer = some time →
          exec .scrubIntervalExpiry s = .next
            { s with
              scrubber := { s.scrubber with
                timer := some 0, state := if s.scrubber.state = .idle then .due else s.scrubber.state } })

/-- The end of a scrub read, whatever its words, moves the position to the next line of the visible area and leaves the scrubber IDLE;
after line 15 of the last block the pass count rises and the watch table decays. Each CORRECTED word is offered for write-back in turn;
with CLEAN words, or when the read fails, nothing else changes. An offer for a word that an entry names is ignored, another joins at the
tail while fewer than 4 are held, and is else dropped and counted (R70, R118, R127, R128, R129). -/
def Obligations.ScrubReadMovesPosition : Prop :=
  (∀ (s : State) (a : Access) (words : List StoredWord),
    s.port.link = .up → s.settledLaw → s.port.outstanding = some a → a.purpose = .scrubRead → a.discarded = false →
    s.scrubber.line ≤ 15 → s.scrubber.block < s.settings.visible →
    (a.count = 16 → words.length = 16 →
        (∃ u, exec (.memoryResponse a.tag .ok words false) s = .next u ∧ u.port.outstanding = none
          ∧ u.scrubber = s.scrubMoved.scrubber ∧ u.settings = s.settings ∧ u.upstream = s.upstream
          ∧ u.writeBack = (offersOf a.block a.line 0 words).foldl WriteBackBuffer.offer s.writeBack)
        ∧ ((∀ w ∈ words, (classify w).1 = .clean) →
          exec (.memoryResponse a.tag .ok words false) s
            = .next (State.scrubMoved { s with port := { s.port with outstanding := none } })))
      ∧ ∀ c u, s.failsBy a c u → exec c s = .next u.scrubMoved)
    ∧ ∀ (buffer : WriteBackBuffer) (e : WriteBack),
      ((∃ x ∈ buffer.entries, x.block = e.block ∧ x.line = e.line ∧ x.word = e.word) → buffer.offer e = buffer)
        ∧ ((∀ x ∈ buffer.entries, x.block ≠ e.block ∨ x.line ≠ e.line ∨ x.word ≠ e.word) →
          (buffer.entries.length < 4 → buffer.offer e = { buffer with entries := buffer.entries ++ [e] })
            ∧ (4 ≤ buffer.entries.length →
              buffer.offer e = { buffer with dropped := min (buffer.dropped + 1) 65535 }))

/-! ## The watch table -/

/-- Decay halves the count of every TRACKING entry, removes one left with count 0 and its flag clear, and changes nothing else
(R70). -/
def Obligations.DecayHalvesCounts : Prop :=
  ∀ (w : WatchTable) (i : Nat),
    (w.entryIn i = none → w.decay.entryIn i = none)
      ∧ (∀ e, w.entryIn i = some e → e.state ≠ .tracking → w.decay.entryIn i = some e)
      ∧ (∀ e, w.entryIn i = some e → e.state = .tracking → e.corrected / 2 = 0 → e.uncorrectable = false →
          w.decay.entryIn i = none)
      ∧ (∀ e, w.entryIn i = some e → e.state = .tracking → (e.corrected / 2 ≠ 0 ∨ e.uncorrectable = true) →
          w.decay.entryIn i = some { e with corrected := e.corrected / 2 })
      ∧ w.decay.nextStamp = w.nextStamp ∧ w.decay.untracked = w.untracked

/-- The words of a fetch, merge read, scrub read or copy read that ends OK, whatever they are and however many are not CLEAN, in every
mode, taken one after another in word index order. POISONED, a word makes a POISON_READ record but in a copy, and is not counted.
CORRECTED (recorded while RECORD_CORRECTED is on) or UNCORRECTABLE (always recorded), it is counted against the location read: in its
entry, or in a new one with the next stamp in the lowest empty slot or in that of the TRACKING entry evicted; with 32 WAITING or QUEUED
entries it goes untracked, and the first such word of the read alone makes a TRACKING_FULL record. An entry that is WAITING or QUEUED,
or meets no threshold, only counts; a TRACKING one at a threshold is a candidate: a WATCH_CANDIDATE record, and QUEUED by a request
that names it or by an AUTO request that joins, or WAITING. Then the read's own effects, and the engine's try (log entry 12) (R43, R59,
R61 to R66, R81, R97, R127). -/
def Obligations.UncorrectableFetchMakesCandidate : Prop :=
  ∀ (s : State) (a : Access) (words : List StoredWord) (place : ReadPlace) (asked v : State),
    s.port.link = .up → s.port.outstanding = some a → a.discarded = false → words.length = a.count →
    place.location = locationOf s.settings a.block → asked = { s with port := { s.port with outstanding := none } } →
    (∀ t, a.purpose = .fetch → s.upstream.progress = .fetch → s.current = some t → place.source = .upstreamFetch →
        place.offset = 16 * lineOf (firstAddress t) + wordOf (firstAddress t) → asked.wordsTaken place words false v →
        exec (.memoryResponse a.tag .ok words false) s = exec .migrationStart
          { v with
            upstream := { s.upstream with
              progress := .answer (.read
                (if ∀ w ∈ words, (classify w).1 = .clean ∨ (classify w).1 = .corrected then .okay else .dataError)
                (words.map answerWord)) }
            writeBack :=
              if s.settings.repairOnRead then
                (offersOf a.block (lineOf (firstAddress t)) (wordOf (firstAddress t)) words).foldl WriteBackBuffer.offer
                  s.writeBack
              else s.writeBack })
      ∧ (∀ address n first list, a.purpose = .mergeRead → s.upstream.progress = .mergeRead →
        s.current = some (.write address n list) → (∀ k w, list[k]? = some w → isPartial w = true → first ≤ k) →
        (∃ w, list[first]? = some w ∧ isPartial w = true) → place.source = .mergeRead →
        place.offset = 16 * lineOf address + wordOf address + first → asked.wordsTaken place words false v →
        ∀ plan : List (Option StoredWord × WriteStatus),
          plan = (list.zipIdx.map fun (w, k) => planWord w (words.getD (k - first) 0)) →
          exec (.memoryResponse a.tag .ok words false) s = exec .migrationStart
            { v with
              upstream := { s.upstream with
                progress := .store
                  { runs := storeRuns (wordOf address) (plan.map (·.1)), statuses := plan.map (·.2), dual := none } } })
      ∧ (a.purpose = .scrubRead → s.scrubber.line ≤ 15 → s.scrubber.block < s.settings.visible → place.source = .scrub →
        place.offset = 16 * a.line → asked.wordsTaken place words false v →
        exec (.memoryResponse a.tag .ok words false) s = exec .migrationStart
          (State.scrubMoved
            { v with writeBack := (offersOf a.block a.line 0 words).foldl WriteBackBuffer.offer s.writeBack }))
      ∧ ∀ work, a.purpose = .copyRead → s.migration.engine = .copying work → place.source = .copy →
        place.offset = 16 * a.line →
        State.wordsTaken
          { asked with
            migration := { s.migration with engine := .copying { work with phase := .writing (words.map copyForm) } } }
          place words false v →
        exec (.memoryResponse a.tag .ok words false) s = .next v

/-! ## Migration -/

/-- MIGRATION_START: with the conditions of R38, a valid head request and a FREE entry, the migration starts into the lowest FREE
entry in one change; a request for an ACTIVE spare makes its entry LEAVING in the same change (R18, R24, R39, R41). -/
def Obligations.MigrationStarts : Prop :=
  ∀ (s : State) (r : Request) (rest : List Request) (target : Nat),
    s.mode = .online → s.migration.engine = .idle → s.port.link = .up → s.dualPending = false →
    s.migration.queue = r :: rest → target < 64 → entryAt s.remap target = .free →
    (∀ j, j < target → entryAt s.remap j ≠ .free) →
    ∀ started : State,
      started = { s with
        migration :=
          { queue := { r with started := true } :: rest
            engine := .copying
              { target := target, phase := .reading, attempt := 1, inFlight := false, overtaken := false, overtakes := 0,
                held := false, holding := false } }
        records := s.records.take
          { kind := .migrationStarted, source := .engine, location := some r.location, spare := some target } } →
      (∀ b, r.location = .visible b → b < s.settings.visible →
          (∀ i, i < 64 → (entryAt s.remap i).routed? ≠ some b) →
          exec .migrationStart s = .next
            { started with remap := setEntry s.remap target (.copying b .source 0 r.origin.toOrigin) })
        ∧ ∀ j source origin, r.location = .spare j → j < s.settings.spares →
            entryAt s.remap j = .active source origin →
            exec .migrationStart s = .next
              { started with
                remap := setEntry (setEntry s.remap j (.leaving source origin)) target
                  (.copying source (.leaving j) 0 r.origin.toOrigin) }

/-- A try that starts nothing: a stale head, whatever stands behind it, is removed with its watch entry and a REQUEST_STALE record, its
place frees, and the next head is tried; a valid head with no FREE entry leaves the engine BLOCKED with a SPARES_EXHAUSTED record; and
while a condition of R38 fails no try is made (R35, R38, R39, R40). -/
def Obligations.TryWithoutStart : Prop :=
  ∀ s : State,
    ((s.mode ≠ .online ∨ s.migration.engine ≠ .idle ∨ s.migration.queue = [] ∨ s.port.link = .down ∨ s.dualPending = true) →
        exec .migrationStart s = .next s)
      ∧ (s.mode = .online → s.migration.engine = .idle → s.port.link = .up → s.dualPending = false →
          (∀ r rest, s.migration.queue = r :: rest → (s.settings.autoSpare = true → s.watchLaw) →
              ((∃ b, r.location = .visible b
                  ∧ (s.settings.visible ≤ b ∨ ∃ i, i < 64 ∧ (entryAt s.remap i).routed? = some b))
                ∨ ∃ j, r.location = .spare j ∧ (s.settings.spares ≤ j ∨ (entryAt s.remap j).isActive = false)) →
              exec .migrationStart s = exec .migrationStart
                (State.placeFreed
                  { s with
                    migration := { queue := rest, engine := .idle }
                    watch := s.watch.remove r.location
                    records := s.records.take { kind := .requestStale, source := .engine, location := some r.location } }))
            ∧ ∀ r rest, s.migration.queue = r :: rest → (∀ i, i < 64 → entryAt s.remap i ≠ .free) →
                ((∃ b, r.location = .visible b ∧ b < s.settings.visible
                    ∧ ∀ i, i < 64 → (entryAt s.remap i).routed? ≠ some b)
                  ∨ ∃ j source origin, r.location = .spare j ∧ j < s.settings.spares
                    ∧ entryAt s.remap j = .active source origin) →
                exec .migrationStart s = .next
                  { s with
                    migration := { s.migration with engine := .blocked }
                    records := s.records.take
                      { kind := .sparesExhausted, source := .engine, location := some r.location } })

/-- A copy read that ends OK fills the line buffer with the form each word's outcome sets and leaves the line WRITING, and when every
word is CLEAN nothing else changes (R42, R43). One that fails below the third attempt is made again, with the mark cleared; the third
aborts the migration with READ_FAILED: the target FREE, a LEAVING entry ACTIVE again, the request moved to the tail or dropped, and then
the engine's try (log entry 12) (R26, R45, R51, R52, R53). -/
def Obligations.CopyReadEnds : Prop :=
  ∀ (s : State) (a : Access) (work : CopyWork) (words : List StoredWord),
    s.port.link = .up → s.port.outstanding = some a → a.purpose = .copyRead → a.discarded = false → a.count = 16 →
    s.migration.engine = .copying work →
    (words.length = 16 →
        (∃ (u : State) (buffer : List StoredWord), exec (.memoryResponse a.tag .ok words false) s = .next u ∧ u.port.outstanding = none
          ∧ u.migration.engine = .copying { work with phase := .writing buffer } ∧ buffer.length = 16
          ∧ u.remap = s.remap ∧ u.writeBack = s.writeBack
          ∧ ∀ (k : Nat) (w : StoredWord), words[k]? = some w → buffer[k]? = some
              (if (classify w).1 = .clean ∨ (classify w).1 = .corrected then cleanForm (classify w).2
              else poisonForm (storedData w)))
        ∧ ((∀ w ∈ words, (classify w).1 = .clean) →
          exec (.memoryResponse a.tag .ok words false) s = .next
            { s with
              port := { s.port with outstanding := none }
              migration := { s.migration with
                engine := .copying { work with phase := .writing (words.map fun w => cleanForm (storedData w)) } } }))
      ∧ ∀ c u, s.failsBy a c u →
          (work.attempt < 3 →
              exec c s = .next
                { u with
                  migration := { s.migration with
                    engine := .copying
                      { work with attempt := work.attempt + 1, inFlight := false, overtaken := false } } })
            ∧ ∀ r rest table, 3 ≤ work.attempt → s.migration.queue = r :: rest → s.abortsTo work.target .free table →
              exec c s = exec .migrationStart ((u.afterAbort work r table .readFailed).afterFailure r rest work.target)

/-- A copy write that ends OK: an overtaken line is copied again with its overtake count one higher, and held from the fourth; a
line below 15 raises the cursor. Where the next grant is taken first (the operand of log entry 5) and goes to a store to the line, none
of whose words the armed injection names, the store goes to the from-location alone, and the line, overtaken by it, is copied again
(R21, R24, R44, R47, R48, R117). -/
def Obligations.CopyWriteEnds : Prop :=
  ∀ (s : State) (a : Access) (work : CopyWork) (source cursor : Nat) (copyFrom : CopyFrom) (origin : Origin),
    s.port.link = .up → s.port.outstanding = some a → a.purpose = .copyWrite → a.discarded = false →
    s.migration.engine = .copying work →
    entryAt s.remap work.target = .copying source copyFrom cursor origin → a.line = cursor →
    (work.overtaken = true →
        exec (.memoryResponse a.tag .ok [] false) s = .next
          { s with
            port := { s.port with outstanding := none }
            migration := { s.migration with
              engine := .copying
                { target := work.target, phase := .reading, attempt := 1, inFlight := false, overtaken := false,
                  overtakes := work.overtakes + 1, held := 4 ≤ work.overtakes + 1, holding := false } } })
      ∧ (work.overtaken = false → cursor < 15 →
        exec (.memoryResponse a.tag .ok [] false) s = .next
          { s with
            port := { s.port with outstanding := none }
            remap := setEntry s.remap work.target (.copying source copyFrom (cursor + 1) origin)
            migration := { s.migration with
              engine := .copying
                { target := work.target, phase := .reading, attempt := 1, inFlight := false, overtaken := false,
                  overtakes := 0, held := false, holding := false } } })
      ∧ ∀ (freed : State) (t : Transaction) (store : StoreWork) (run : StoreRun) (rest : List StoreRun),
        freed = { s with port := { s.port with outstanding := none } } → freed.waiting .upstream = true →
        (freed.waiting .scrub = true → s.port.scrubPassed ≠ 32) → s.upstream.progress = .store store →
        s.current = some t → store.runs = run :: rest → store.dual = none →
        (∀ i ∈ s.injection, i.address < 256 * source + 16 * cursor + run.first ∨
          256 * source + 16 * cursor + run.first + run.forms.length ≤ i.address) →
        entryFor s.remap source = some work.target → blockOf (firstAddress t) = source →
        lineOf (firstAddress t) = cursor → work.inFlight = true →
        exec (.memoryResponse a.tag .ok [] true) s = .next
          (((freed.cancelRun (fromBlock s.settings.visible source copyFrom) cursor run.first run.forms.length).granted
              .upstream .storeSingle (fromBlock s.settings.visible source copyFrom) cursor run.first run.forms.length
              run.forms)
            |> fun u => { u with
                port := { u.port with migrationPassed := 0 }
                migration := { s.migration with
                  engine := .copying
                    { target := work.target, phase := .reading, attempt := 1, inFlight := false, overtaken := false,
                      overtakes := work.overtakes + 1, held := 4 ≤ work.overtakes + 1, holding := false } } })

/-- The copy write of line 15 ends OK without an overtake: in one change the target is ACTIVE, a LEAVING entry RETIRED (REPLACED), the
request and the watch entry of the from-location are gone, the engine is IDLE, a MIGRATION_DONE record is made, a pending dual spare
write knows of it, and the place frees; then the engine tries (log entry 12) (R23, R25, R35, R38, R49). -/
def Obligations.MigrationCompletes : Prop :=
  ∀ (s : State) (a : Access) (work : CopyWork) (r : Request) (rest : List Request) (source : Nat) (origin : Origin),
    s.port.link = .up → s.port.outstanding = some a → a.purpose = .copyWrite → a.discarded = false → a.line = 15 →
    s.migration = { queue := r :: rest, engine := .copying work } → work.overtaken = false →
    ∀ (table : RemapTable) (done : State),
      done = { s with
        remap := table
        port := { s.port with outstanding := none }
        migration := { queue := rest, engine := .idle }
        watch := s.watch.remove r.location
        upstream := { s.upstream with progress := s.upstream.progress.withFate .completed }
        records := s.records.take
          { kind := .migrationDone, source := .engine, location := some r.location, spare := some work.target } } →
      (entryAt s.remap work.target = .copying source .source 15 origin
          ∧ table = setEntry s.remap work.target (.active source origin)
        ∨ ∃ j old, entryAt s.remap work.target = .copying source (.leaving j) 15 origin
          ∧ entryAt s.remap j = .leaving source old
          ∧ table = setEntry (setEntry s.remap j (.retired .replaced)) work.target (.active source origin)) →
      exec (.memoryResponse a.tag .ok [] false) s = exec .migrationStart done.placeFreed

/-- A copy write that fails aborts the migration with TARGET_FAILED: the target RETIRED (WRITE_FAILED), a LEAVING entry ACTIVE again. The
request's first failure moves it to the tail with retried yes and started no, and its watch entry stays; its second drops it, with
MIGRATION_DROPPED after MIGRATION_ABORTED, demotes its watch entry with its counts kept, and frees its place. Then the engine tries
(log entry 12) (R26, R35, R50, R51, R52, R53). -/
def Obligations.SecondFailureDropsRequest : Prop :=
  ∀ (s : State) (a : Access) (work : CopyWork) (r : Request) (rest : List Request) (table : RemapTable) (c : Instr) (u : State),
    s.port.link = .up → s.port.outstanding = some a → a.purpose = .copyWrite → a.discarded = false →
    s.migration = { queue := r :: rest, engine := .copying work } →
    s.abortsTo work.target (.retired .writeFailed) table → s.failsBy a c u → ∀ aborted : State,
    aborted = u.afterAbort work r table .targetFailed →
    (r.retried = false →
        exec c s = exec .migrationStart
          { aborted with
            migration := { queue := rest ++ [{ r with retried := true, started := false }], engine := .idle } })
      ∧ (r.retried = true →
        exec c s = exec .migrationStart
          (State.placeFreed
            { aborted with
              migration := { queue := rest, engine := .idle }
              watch := s.watch.modify r.location fun e => { e with state := .tracking }
              records := aborted.records.take
                { kind := .migrationDropped, source := .engine, location := some r.location,
                  spare := some work.target } }))

/-! ## Resets and modes -/

/-- POWER_ON brings every piece of state to its starting value and reads the straps; RESET_PART does the same but keeps the address;
and the state after reset is that state. That neither touches the waiting commands and the counter of free values is the model's
choice (log entry 15), and so are the straps after reset (log entry 2) and the last acknowledgement and bytes returned (log entry 3)
(R74, R89, R106, R122, R132, R145, R154, R155, R157, R160, R163). -/
def Obligations.StartingState : Prop :=
  (∀ (straps : BitVec 2) (s : State), ∃ t,
      exec (.powerOn straps) s = .next t ∧ t.mode = .offline
        ∧ t.settings =
          { downstream := 0, visible := 0, spares := 0, correctedLimit := 16, wordLimit := 3, autoSpare := false,
            repairOnRead := true, scrubEnable := false, scrubInterval := 250, linkTimeout := 100, recordCorrected := false,
            alertEnables :=
              { records := false, dropped := false, sparesLow := false, blocked := false, linkDown := false },
            alertDepth := 1, spareLowMark := 2 }
        ∧ (∀ i, i < 64 → entryAt t.remap i = .unused) ∧ t.migration = { queue := [], engine := .idle }
        ∧ (∀ i, t.watch.entryIn i = none) ∧ t.watch.nextStamp = 0 ∧ t.watch.untracked = 0 ∧ t.injection = none
        ∧ t.upstream = { held := [], progress := .idle }
        ∧ t.port =
          { outstanding := none, lastTag := 15, abandoned := [], link := .up, migrationPassed := 0, scrubPassed := 0 }
        ∧ t.writeBack = { entries := [], dropped := 0 }
        ∧ t.scrubber = { block := 0, line := 0, passCount := 0, timer := none, state := .idle }
        ∧ t.records = { queue := [], nextSequence := 0, dropped := 0, droppedFlag := false }
        ∧ t.management.straps = straps ∧ t.management.response = { status := .noCommand, payload := [] }
        ∧ t.alertLow = false ∧ t.pending = s.pending ∧ t.freeIndex = s.freeIndex
        ∧ exec (.resetPart s.management.address []) s
            = .next { t with
                management := { t.management with straps := s.management.straps, acknowledged := true, returned := [] } })
    ∧ exec (.powerOn 0) State.reset = .next State.reset

/-- SYSTEM_RESET: held transactions discarded, the buffer emptied, the injection disarmed, a scrub withdrawn with its position kept,
the pass-over counts 0, the outstanding access's result discarded, STOPPING ended; the items, the link, the abandoned set, the tag
last given and the response buffer kept. A BLOCKED engine goes IDLE; a migration in flight is aborted with reason RESET, its target FREE,
a LEAVING entry ACTIVE again, and its request kept at the head unstarted; the table, the queue and the watch table are otherwise kept.
Then the engine tries (log entry 12) (R26, R31, R38, R40, R51, R52, R89, R105, R121, R122, R130, R132, R153, R157). -/
def Obligations.SystemResetKeepsRepairs : Prop :=
  ∀ s : State,
    (∃ t, exec .systemReset s = .next t
        ∧ t.mode = (if s.mode = .online then .online else .offline)
        ∧ t.settings = s.settings ∧ t.injection = none ∧ t.upstream = { held := [], progress := .idle }
        ∧ t.writeBack = { s.writeBack with entries := [] }
        ∧ t.port =
          { s.port with
            outstanding := s.port.outstanding.map fun a => { a with discarded := true }
            migrationPassed := 0
            scrubPassed := 0 }
        ∧ t.scrubber =
          { s.scrubber with
            state := .idle
            timer :=
              if s.mode = .online ∧ s.settings.scrubEnable = true ∧ s.port.link = .up then some 0 else none }
        ∧ t.management = s.management
        ∧ (s.migration.engine = .idle → s.migration.queue = [] →
            t.remap = s.remap ∧ t.watch = s.watch ∧ t.records = s.records ∧ t.migration = s.migration))
      ∧ ∀ cleared : State,
        cleared = { s with
          mode := if s.mode = .online then .online else .offline
          injection := none
          upstream := { held := [], progress := .idle }
          writeBack := { s.writeBack with entries := [] }
          port := { s.port with
            outstanding := s.port.outstanding.map fun a => { a with discarded := true }
            migrationPassed := 0
            scrubPassed := 0 }
          scrubber := { s.scrubber with
            state := .idle
            timer :=
              if s.mode = .online ∧ s.settings.scrubEnable = true ∧ s.port.link = .up then some 0 else none } } →
        (s.migration.engine = .idle ∨ s.migration.engine = .blocked →
            exec .systemReset s
              = exec .migrationStart { cleared with migration := { s.migration with engine := .idle } })
          ∧ ∀ work r rest table, s.migration = { queue := r :: rest, engine := .copying work } →
            s.abortsTo work.target .free table → ∀ kept : State,
            kept = { cleared.afterAbort work r table .reset with
              migration := { queue := { r with started := false } :: rest, engine := .idle } } →
            exec .systemReset s = exec .migrationStart kept
              ∧ (s.port.link = .down → exec .systemReset s = .next kept)

/-- GO_ONLINE in each mode: in OFFLINE the geometry check, and ONLINE with the interval timer started where R124 allows, and the
engine's try in the same change (log entry 12); OK in ONLINE; BUSY in STOPPING (R4, R38, R147, R148, R162). CLEAR_LINK empties the
abandoned set and sets the link UP; it touches no outstanding access and not the tag last given, starts the timer likewise, and the
engine tries (R38, R115, R124). With no request waiting the try starts nothing. -/
def Obligations.GoOnlineAndClearLink : Prop :=
  ∀ s : State,
    (s.mode = .offline → ¬ (1 ≤ s.settings.visible ∧ s.settings.visible + s.settings.spares ≤ s.settings.downstream) →
        exec (.goOnline s.management.address []) s = .next (s.answered .badArgument []))
      ∧ (s.mode = .online → exec (.goOnline s.management.address []) s = .next (s.answered .ok []))
      ∧ (s.mode = .stopping → exec (.goOnline s.management.address []) s = .next (s.answered .busy []))
      ∧ (s.mode = .offline → 1 ≤ s.settings.visible → s.settings.visible + s.settings.spares ≤ s.settings.downstream →
          s.scrubber.timer = none → ∀ online : State,
          online = State.answered
            { s with
              mode := .online
              scrubber := { s.scrubber with
                timer := if s.settings.scrubEnable = true ∧ s.port.link = .up then some 0 else none } } .ok [] →
          exec (.goOnline s.management.address []) s = exec .migrationStart online
            ∧ (s.migration.queue = [] → exec (.goOnline s.management.address []) s = .next online))
      ∧ ∀ cleared : State,
          cleared = State.answered
            { s with
              port := { s.port with abandoned := [], link := .up }
              scrubber := { s.scrubber with
                timer :=
                  if s.mode = .online ∧ s.settings.scrubEnable = true then some (s.scrubber.timer.getD 0) else none } }
            .ok [] →
          exec (.clearLink s.management.address []) s = exec .migrationStart cleared
            ∧ (s.migration.queue = [] → exec (.clearLink s.management.address []) s = .next cleared)

/-- GO_OFFLINE in each mode: OK in OFFLINE and STOPPING, with no effect; in ONLINE the bridge goes STOPPING, or OFFLINE at once when no
transaction marked SERVE is held; the scrub is withdrawn with its position kept, the timer stopped and the buffer emptied; a BLOCKED engine
goes IDLE; a migration in flight is aborted with reason STOPPED, its target FREE, a LEAVING entry ACTIVE again, and its request kept at the
head unstarted. An outstanding access runs on, the result of a PENDING scrub's, a write-back's or an aborted copy's to be discarded
(R26, R40, R51, R52, R53, R55, R121, R130, R149). -/
def Obligations.GoOfflineByMode : Prop :=
  ∀ s : State,
    (s.mode ≠ .online → exec (.goOffline s.management.address []) s = .next (s.answered .ok []))
      ∧ (s.mode = .online → ∀ left : State,
          left = { s with
            mode := if ∃ h ∈ s.upstream.held, h.mark = .serve then .stopping else .offline
            scrubber := { s.scrubber with timer := none, state := .idle }
            port := { s.port with
              scrubPassed := 0
              outstanding := s.port.outstanding.map fun a =>
                { a with
                  discarded := a.discarded || a.purpose == .writeBack
                    || (a.purpose == .scrubRead && s.scrubber.state == .pending) } }
            writeBack := { s.writeBack with entries := [] } } →
          (s.migration.engine = .idle ∨ s.migration.engine = .blocked →
              exec (.goOffline s.management.address []) s = .next
                (State.answered { left with migration := { s.migration with engine := .idle } } .ok []))
            ∧ ∀ work r rest table, s.migration = { queue := r :: rest, engine := .copying work } →
                s.abortsTo work.target .free table →
                exec (.goOffline s.management.address []) s = .next
                  (State.answered
                    { left.afterAbort work r table .stopped with
                      migration := { queue := { r with started := false } :: rest, engine := .idle } } .ok []))

/-! ## Status and configuration -/

/-- READ_STATUS: 23 bytes that report the items as they stand, and nothing changes (R18, R139, R142, R159, R169, R172); and the
alert line is low exactly while a flag named in ALERT_ENABLES is set (R144). -/
def Obligations.StatusReportsState : Prop :=
  ∀ s : State, ∃ p : List Byte,
    exec (.readStatus s.management.address []) s = .next (s.answered .ok p) ∧ p.length = 23
      ∧ (∀ (mode : Mode) (code : Byte), (mode, code) ∈ [(Mode.offline, 0#8), (.online, 1#8), (.stopping, 2#8)] → s.mode = mode →
          p[0]? = some code)
      ∧ (s.migration.engine = .idle → p[1]? = some 0 ∧ p[2]? = some 0xFF)
      ∧ (s.migration.engine = .blocked → p[1]? = some 1 ∧ p[2]? = some 0xFF)
      ∧ (∀ work source copyFrom cursor origin, s.migration.engine = .copying work →
          entryAt s.remap work.target = .copying source copyFrom cursor origin →
          p[1]? = some 2 ∧ p[2]? = some (BitVec.ofNat 8 cursor))
      ∧ p[3]? = some (BitVec.ofNat 8 s.migration.queue.length)
      ∧ p[4]? = some (BitVec.ofNat 8 ((List.range 64).countP fun i => entryAt s.remap i == .free))
      ∧ p[5]? = some (BitVec.ofNat 8 s.records.queue.length)
      ∧ (s.records.dropped ≤ 65535 → leValue ((p.drop 6).take 2) = s.records.dropped)
      ∧ (s.watch.untracked ≤ 65535 → leValue ((p.drop 8).take 2) = s.watch.untracked)
      ∧ (s.writeBack.dropped ≤ 65535 → leValue ((p.drop 10).take 2) = s.writeBack.dropped)
      ∧ (s.scrubber.block < 131072 → leValue ((p.drop 12).take 3) = s.scrubber.block)
      ∧ p[15]? = some (BitVec.ofNat 8 s.scrubber.line)
      ∧ leValue ((p.drop 16).take 2) = s.scrubber.passCount.toNat
      ∧ (∃ flags : Byte, p[18]? = some flags
          ∧ flags.getLsbD 0 = decide (s.settings.alertDepth ≤ s.records.queue.length)
          ∧ flags.getLsbD 1 = s.records.droppedFlag
          ∧ flags.getLsbD 2 = decide (s.mode = .online ∧ 1 ≤ s.settings.spares
              ∧ ((List.range 64).countP fun i => entryAt s.remap i == .free) ≤ s.settings.spareLowMark)
          ∧ flags.getLsbD 3 = decide (s.migration.engine = .blocked)
          ∧ flags.getLsbD 4 = decide (s.port.link = .down)
          ∧ flags.getLsbD 5 = false ∧ flags.getLsbD 6 = false ∧ flags.getLsbD 7 = false
          ∧ (s.alertLow = true ↔
              s.settings.alertEnables.records = true ∧ flags.getLsbD 0 = true
                ∨ s.settings.alertEnables.dropped = true ∧ flags.getLsbD 1 = true
                ∨ s.settings.alertEnables.sparesLow = true ∧ flags.getLsbD 2 = true
                ∨ s.settings.alertEnables.blocked = true ∧ flags.getLsbD 3 = true
                ∨ s.settings.alertEnables.linkDown = true ∧ flags.getLsbD 4 = true))
      ∧ p[19]? = some (BitVec.ofNat 8 s.port.abandoned.length)
      ∧ p[20]? = some (if s.port.link = .down then 1#8 else 0#8)
      ∧ p[21]? = some (BitVec.ofNat 8 s.upstream.held.length)
      ∧ p[22]? = some
          (match s.upstream.progress with
          | .idle => 0#8
          | .fetch => 1#8
          | .mergeRead => 2#8
          | .store _ => 3#8
          | .answer _ => 4#8)

/-- READ_CONFIG answers an item's code and its present value; WRITE_CONFIG of an item that acts later sets it in every mode, and
of a value out of range or an unknown item is refused and changes nothing (R73, R160, R161, R173). -/
def Obligations.PolicyItemsReadAndWritten : Prop :=
  ∀ s : State,
    (∀ (item : Byte) (value : Nat),
        (item, value) ∈
          [(0x01#8, s.settings.visible), (0x02#8, s.settings.downstream), (0x03#8, s.settings.spares),
            (0x04#8, s.settings.correctedLimit), (0x05#8, s.settings.wordLimit), (0x06#8, s.settings.autoSpare.toNat),
            (0x07#8, s.settings.repairOnRead.toNat), (0x08#8, s.settings.scrubEnable.toNat),
            (0x09#8, s.settings.scrubInterval), (0x0A#8, s.settings.linkTimeout),
            (0x0B#8, s.settings.recordCorrected.toNat),
            (0x0C#8, s.settings.alertEnables.records.toNat + 2 * s.settings.alertEnables.dropped.toNat
              + 4 * s.settings.alertEnables.sparesLow.toNat + 8 * s.settings.alertEnables.blocked.toNat
              + 16 * s.settings.alertEnables.linkDown.toNat),
            (0x0D#8, s.settings.alertDepth), (0x0E#8, s.settings.spareLowMark)] →
        ∃ b0 b1 b2 b3 : Byte,
          exec (.readConfig s.management.address [item]) s = .next (s.answered .ok [item, b0, b1, b2, b3])
            ∧ (value < 2 ^ 32 → leValue [b0, b1, b2, b3] = value))
      ∧ (∀ (item b0 b1 b2 b3 : Byte), item.toNat = 0 ∨ 15 ≤ item.toNat →
          exec (.readConfig s.management.address [item]) s = .next (s.answered .badArgument [])
            ∧ exec (.writeConfig s.management.address [item, b0, b1, b2, b3]) s = .next (s.answered .badArgument []))
      ∧ ∀ (b0 b1 b2 b3 : Byte) (value : Nat), leValue [b0, b1, b2, b3] = value →
          (exec (.writeConfig s.management.address [0x04, b0, b1, b2, b3]) s = .next
              (if 1 ≤ value ∧ value ≤ 255 then
                State.answered { s with settings := { s.settings with correctedLimit := value } } .ok []
              else s.answered .badArgument []))
            ∧ (exec (.writeConfig s.management.address [0x05, b0, b1, b2, b3]) s = .next
              (if 1 ≤ value ∧ value ≤ 4 then
                State.answered { s with settings := { s.settings with wordLimit := value } } .ok []
              else s.answered .badArgument []))
            ∧ (exec (.writeConfig s.management.address [0x07, b0, b1, b2, b3]) s = .next
              (if value ≤ 1 then
                State.answered { s with settings := { s.settings with repairOnRead := decide (value = 1) } } .ok []
              else s.answered .badArgument []))
            ∧ exec (.writeConfig s.management.address [0x0B, b0, b1, b2, b3]) s = .next
              (if value ≤ 1 then
                State.answered { s with settings := { s.settings with recordCorrected := decide (value = 1) } } .ok []
              else s.answered .badArgument [])

/-- DOWNSTREAM_BLOCKS, VISIBLE_BLOCKS and SPARE_COUNT: refused outside OFFLINE, then out of range, then by the table's guards; an
accepted write sets the item, and of V or S empties the write-back buffer and removes the requests and watch entries of
locations that no longer exist, V putting the scrub position to 0/0 and S making entries FREE or UNUSED; each request removed frees
a place, which with AUTO_SPARE on a WAITING entry takes (R6, R15, R16, R35, R68, R121, R131, R151, R152). -/
def Obligations.GeometryWrites : Prop :=
  ∀ (s : State) (v : Word),
    (s.mode ≠ .offline →
        exec (.downstreamBlocks s.management.address v) s = .next (s.answered .wrongMode [])
          ∧ exec (.visibleBlocks s.management.address v) s = .next (s.answered .wrongMode [])
          ∧ exec (.spareCount s.management.address v) s = .next (s.answered .wrongMode []))
      ∧ (s.mode = .offline →
          (v.toNat = 0 ∨ 131072 < v.toNat →
              exec (.downstreamBlocks s.management.address v) s = .next (s.answered .badArgument [])
                ∧ exec (.visibleBlocks s.management.address v) s = .next (s.answered .badArgument []))
            ∧ (1 ≤ v.toNat → v.toNat ≤ 131072 →
                exec (.downstreamBlocks s.management.address v) s = .next
                  (State.answered { s with settings := { s.settings with downstream := v.toNat } } .ok []))
            ∧ (1 ≤ v.toNat → v.toNat ≤ 131072 → (∃ i, i < 64 ∧ ∃ b ∈ (entryAt s.remap i).source?, v.toNat ≤ b) →
                exec (.visibleBlocks s.management.address v) s = .next (s.answered .conflict []))
            ∧ (1 ≤ v.toNat → v.toNat ≤ 131072 → (∀ i, i < 64 → ∀ b ∈ (entryAt s.remap i).source?, b < v.toNat) →
                ∀ (c : Settings) (kept : List Request), c = { s.settings with visible := v.toNat } →
                kept = (s.migration.queue.filter fun r => locationExists c r.location) →
                ∃ w : WatchTable,
                  exec (.visibleBlocks s.management.address v) s = .next
                      (State.answered
                        (State.placesFreed (s.migration.queue.length - kept.length)
                          { s with
                            settings := c
                            migration := { s.migration with queue := kept }
                            watch := w
                            writeBack := { s.writeBack with entries := [] }
                            port := { s.port with
                              outstanding := s.port.outstanding.map fun a =>
                                { a with discarded := a.discarded || a.purpose == .writeBack } }
                            scrubber := { s.scrubber with block := 0, line := 0 } }) .ok [])
                    ∧ w.nextStamp = s.watch.nextStamp ∧ w.untracked = s.watch.untracked
                    ∧ ∀ slot, w.entryIn slot = (s.watch.entryIn slot).filter fun e => locationExists c e.location)
            ∧ (64 < v.toNat → exec (.spareCount s.management.address v) s = .next (s.answered .badArgument []))
            ∧ (v.toNat ≤ 64 →
                (∃ i, v.toNat ≤ i ∧ i < s.settings.spares ∧ entryAt s.remap i ≠ .free ∧ entryAt s.remap i ≠ .unused) →
                exec (.spareCount s.management.address v) s = .next (s.answered .conflict []))
            ∧ (v.toNat ≤ 64 →
                (∀ i, v.toNat ≤ i → i < s.settings.spares → entryAt s.remap i = .free ∨ entryAt s.remap i = .unused) →
                ∀ (c : Settings) (kept : List Request), c = { s.settings with spares := v.toNat } →
                kept = (s.migration.queue.filter fun r => locationExists c r.location) →
                ∃ (w : WatchTable) (table : RemapTable),
                  exec (.spareCount s.management.address v) s = .next
                      (State.answered
                        (State.placesFreed (s.migration.queue.length - kept.length)
                          { s with
                            settings := c
                            remap := table
                            migration := { s.migration with queue := kept }
                            watch := w
                            writeBack := { s.writeBack with entries := [] }
                            port := { s.port with
                              outstanding := s.port.outstanding.map fun a =>
                                { a with discarded := a.discarded || a.purpose == .writeBack } } }) .ok [])
                    ∧ w.nextStamp = s.watch.nextStamp ∧ w.untracked = s.watch.untracked
                    ∧ (∀ slot, w.entryIn slot = (s.watch.entryIn slot).filter fun e => locationExists c e.location)
                    ∧ ∀ i, i < 64 → entryAt table i =
                        if s.settings.spares ≤ i ∧ i < v.toNat then .free
                        else if v.toNat ≤ i ∧ i < s.settings.spares then .unused
                        else entryAt s.remap i))

/-- AUTO_SPARE: off, or on with no WAITING entry or a full queue, sets the item alone; a value beyond 1 is refused. On, in every mode,
the WAITING entry with the smallest stamp joins as an AUTO request and becomes QUEUED, the engine tries, and the rest are offered as
by the same write again; where no try can follow, the WAITING entries with the smallest stamps join in stamp order, until none is left
or the queue is full. Equal stamps are ordered by a free value (log entry 7), and the try is made in the same change (log entry 12). When a place frees, with AUTO_SPARE on the WAITING entry with the smallest stamp joins, and with it off none does
(R33, R35, R67, R68, R161). -/
def Obligations.AutoSpareOffersWaiting : Prop :=
  ∀ s : State,
    (∀ v : Word, 1 < v.toNat → exec (.autoSpare s.management.address v) s = .next (s.answered .badArgument []))
      ∧ (exec (.autoSpare s.management.address 0) s = .next
          (State.answered { s with settings := { s.settings with autoSpare := false } } .ok []))
      ∧ ((∀ slot e, s.watch.entryIn slot = some e → e.state ≠ .waiting) ∨ 8 ≤ s.migration.queue.length →
          exec (.autoSpare s.management.address 1) s = .next
            (State.answered { s with settings := { s.settings with autoSpare := true } } .ok []))
      ∧ (∀ slot e tried, s.watchLaw → s.migration.queue.length < 8 → s.watch.entryIn slot = some e → e.state = .waiting →
          (∀ i f, i ≠ slot → s.watch.entryIn i = some f → f.state = .waiting → e.stamp.toNat < f.stamp.toNat) →
          exec .migrationStart
              { s with
                settings := { s.settings with autoSpare := true }
                watch := s.watch.setSlot slot (some { e with state := .queued })
                migration := { s.migration with
                  queue := s.migration.queue
                    ++ [{ location := e.location, origin := .auto, retried := false, started := false }] } } = .next tried →
          exec (.autoSpare s.management.address 1) s = exec (.autoSpare s.management.address 1) tried)
      ∧ (s.mode ≠ .online ∨ s.migration.engine ≠ .idle ∨ s.port.link = .down ∨ s.dualPending = true → s.watchLaw → ∃ (joined : List Request) (w : WatchTable),
          exec (.autoSpare s.management.address 1) s = .next
              (State.answered
                { s with
                  settings := { s.settings with autoSpare := true }
                  migration := { s.migration with queue := s.migration.queue ++ joined }
                  watch := w } .ok [])
            ∧ w.nextStamp = s.watch.nextStamp ∧ w.untracked = s.watch.untracked
            ∧ (∀ r ∈ joined, r.origin = .auto ∧ r.retried = false ∧ r.started = false)
            ∧ (joined.map (·.location)).Nodup
            ∧ (joined.Pairwise fun r q => ∀ i j e f, s.watch.entryIn i = some e → s.watch.entryIn j = some f →
                e.location = r.location → f.location = q.location → e.stamp.toNat ≤ f.stamp.toNat)
            ∧ (∀ slot, s.watch.entryIn slot = none → w.entryIn slot = none)
            ∧ (∀ slot e, s.watch.entryIn slot = some e →
                (e.state ≠ .waiting → w.entryIn slot = some e)
                  ∧ (e.state = .waiting → (∃ r ∈ joined, r.location = e.location) →
                      w.entryIn slot = some { e with state := .queued })
                  ∧ (e.state = .waiting → (∀ r ∈ joined, r.location ≠ e.location) → w.entryIn slot = some e
                      ∧ 8 ≤ s.migration.queue.length + joined.length
                      ∧ ∀ other f, s.watch.entryIn other = some f → f.state = .waiting →
                          (∃ r ∈ joined, r.location = f.location) → f.stamp.toNat ≤ e.stamp.toNat))
            ∧ ∀ r ∈ joined, ∃ slot e, s.watch.entryIn slot = some e ∧ e.state = .waiting ∧ e.location = r.location)
      ∧ (s.settings.autoSpare = false ∨ (∀ slot e, s.watch.entryIn slot = some e → e.state ≠ .waiting) → s.placeFreed = s)
      ∧ ∀ slot e, s.settings.autoSpare = true → s.migration.queue.length < 8 → s.hasRequest e.location = false →
          s.watch.entryIn slot = some e → e.state = .waiting →
          (∀ i f, i ≠ slot → s.watch.entryIn i = some f → f.location ≠ e.location) →
          (∀ i f, i ≠ slot → s.watch.entryIn i = some f → f.state = .waiting → e.stamp.toNat < f.stamp.toNat) →
          s.placeFreed =
            { s with
              watch := s.watch.setSlot slot (some { e with state := .queued })
              migration := { s.migration with
                queue := s.migration.queue
                  ++ [{ location := e.location, origin := .auto, retried := false, started := false }] } }

/-- SCRUB_ENABLE, SCRUB_INTERVAL, LINK_TIMEOUT, ALERT_ENABLES, ALERT_DEPTH and SPARE_LOW_MARK: taken in every mode, refused out of
range, and effective at once: the scrub timer started, stopped or expired, a DUE or PENDING scrub withdrawn, an outstanding
access ended (R110, R124, R125, R130, R131, R140, R141, R144, R161). -/
def Obligations.PacingAndAlertItems : Prop :=
  ∀ (s : State) (v : Word),
    (1 < v.toNat → exec (.scrubEnable s.management.address v) s = .next (s.answered .badArgument []))
      ∧ (exec (.scrubEnable s.management.address 0) s = .next
          (State.answered
            { s with
              settings := { s.settings with scrubEnable := false }
              scrubber := { s.scrubber with timer := none, state := .idle }
              port := { s.port with
                scrubPassed := 0
                outstanding :=
                  if s.scrubber.state = .pending then
                    s.port.outstanding.map fun a => { a with discarded := a.discarded || a.purpose == .scrubRead }
                  else s.port.outstanding } } .ok []))
      ∧ (exec (.scrubEnable s.management.address 1) s = .next
          (State.answered
            { s with
              settings := { s.settings with scrubEnable := true }
              scrubber := { s.scrubber with
                timer :=
                  if s.mode = .online ∧ s.port.link = .up then some (s.scrubber.timer.getD 0) else none } } .ok []))
      ∧ (v.toNat = 0 ∨ 65535 < v.toNat →
          exec (.scrubInterval s.management.address v) s = .next (s.answered .badArgument []))
      ∧ (1 ≤ v.toNat → v.toNat ≤ 65535 →
          exec (.scrubInterval s.management.address v) s = .next
            (State.answered
              { s with
                settings := { s.settings with scrubInterval := v.toNat }
                scrubber :=
                  if ∃ time ∈ s.scrubber.timer, v.toNat ≤ time then
                    { s.scrubber with
                      timer := some 0, state := if s.scrubber.state = .idle then .due else s.scrubber.state }
                  else s.scrubber } .ok []))
      ∧ (v.toNat < 8 ∨ 1023 < v.toNat →
          exec (.linkTimeout s.management.address v) s = .next (s.answered .badArgument []))
      ∧ (8 ≤ v.toNat → v.toNat ≤ 1023 → (∀ a ∈ s.port.outstanding, a.elapsed < v.toNat) →
          exec (.linkTimeout s.management.address v) s = .next
            (State.answered { s with settings := { s.settings with linkTimeout := v.toNat } } .ok []))
      ∧ (∀ a, 8 ≤ v.toNat → v.toNat ≤ 1023 → s.port.outstanding = some a → v.toNat ≤ a.elapsed →
          ∃ t, exec (.linkTimeout s.management.address v) s = .next t
            ∧ t.settings = { s.settings with linkTimeout := v.toNat } ∧ t.port.outstanding = none
            ∧ t.port.abandoned = s.port.abandoned ++ [a.tag] ∧ t.management = (s.answered .ok []).management)
      ∧ (exec (.alertEnables s.management.address v) s = .next
          (if v.toNat < 32 then
            State.answered
              { s with
                settings := { s.settings with
                  alertEnables :=
                    { records := v.getLsbD 0, dropped := v.getLsbD 1, sparesLow := v.getLsbD 2, blocked := v.getLsbD 3,
                      linkDown := v.getLsbD 4 } } } .ok []
          else s.answered .badArgument []))
      ∧ (exec (.alertDepth s.management.address v) s = .next
          (if 1 ≤ v.toNat ∧ v.toNat ≤ 16 then
            State.answered { s with settings := { s.settings with alertDepth := v.toNat } } .ok []
          else s.answered .badArgument []))
      ∧ exec (.spareLowMark s.management.address v) s = .next
          (if v.toNat ≤ 64 then
            State.answered { s with settings := { s.settings with spareLowMark := v.toNat } } .ok []
          else s.answered .badArgument [])

/-! ## Tables and records through the management port -/

/-- READ_REMAP, READ_QUEUE and READ_WATCH: the payloads of an entry, a request and a watch entry, absent fields sent as 0; an
empty place NOT_FOUND, an index out of range BAD_ARGUMENT; nothing else changes (R30, R36, R72, R164 to R166, R169, R174 to
R176). -/
def Obligations.TableReads : Prop :=
  ∀ (s : State) (i : Byte),
    (64 ≤ i.toNat → exec (.readRemap s.management.address [i]) s = .next (s.answered .badArgument []))
      ∧ (i.toNat < 64 →
          (entryAt s.remap i.toNat = .unused →
              exec (.readRemap s.management.address [i]) s = .next (s.answered .ok [i, 0, 0, 0, 0, 0, 0, 0, 0, 0]))
            ∧ (entryAt s.remap i.toNat = .free →
              exec (.readRemap s.management.address [i]) s = .next (s.answered .ok [i, 1, 0, 0, 0, 0, 0, 0, 0, 0]))
            ∧ (∀ (reason : RetireReason) (code : Byte),
                (reason, code) ∈ [(RetireReason.replaced, 0#8), (.writeFailed, 1#8), (.restored, 2#8)] →
              entryAt s.remap i.toNat = .retired reason →
              exec (.readRemap s.management.address [i]) s = .next (s.answered .ok [i, 5, 0x10, 0, 0, 0, 0, 0, 0, code]))
            ∧ ∀ (origin : Origin) (code : Byte) (source : Nat) (b0 b1 b2 : Byte),
                (origin, code) ∈ [(Origin.auto, 0#8), (.manual, 1#8), (.restored, 2#8)] → leValue [b0, b1, b2] = source →
                (entryAt s.remap i.toNat = .active source origin →
                    exec (.readRemap s.management.address [i]) s
                      = .next (s.answered .ok [i, 3, 0x09, b0, b1, b2, 0, 0, code, 0]))
                  ∧ (entryAt s.remap i.toNat = .leaving source origin →
                    exec (.readRemap s.management.address [i]) s
                      = .next (s.answered .ok [i, 4, 0x09, b0, b1, b2, 0, 0, code, 0]))
                  ∧ (∀ cursor, entryAt s.remap i.toNat = .copying source .source cursor origin →
                    exec (.readRemap s.management.address [i]) s
                      = .next (s.answered .ok [i, 2, 0x0F, b0, b1, b2, 0x80, BitVec.ofNat 8 cursor, code, 0]))
                  ∧ ∀ j cursor, entryAt s.remap i.toNat = .copying source (.leaving j) cursor origin →
                    exec (.readRemap s.management.address [i]) s = .next
                      (s.answered .ok [i, 2, 0x0F, b0, b1, b2, BitVec.ofNat 8 j, BitVec.ofNat 8 cursor, code, 0]))
      ∧ (8 ≤ i.toNat → exec (.readQueue s.management.address [i]) s = .next (s.answered .badArgument []))
      ∧ (i.toNat < 8 → s.migration.queue[i.toNat]? = none →
          exec (.readQueue s.management.address [i]) s = .next (s.answered .notFound []))
      ∧ (32 ≤ i.toNat → exec (.readWatch s.management.address [i]) s = .next (s.answered .badArgument []))
      ∧ (i.toNat < 32 → s.watch.entryIn i.toNat = none →
          exec (.readWatch s.management.address [i]) s = .next (s.answered .notFound []))
      ∧ ∀ (location : Location) (kind b0 b1 b2 : Byte) (number : Nat), leValue [b0, b1, b2] = number →
          (location = .visible number ∧ kind = 0 ∨ location = .spare number ∧ kind = 1) →
          (∀ r, i.toNat < 8 → s.migration.queue[i.toNat]? = some r → r.location = location →
              exec (.readQueue s.management.address [i]) s = .next
                (s.answered .ok
                  [i, kind, b0, b1, b2, if r.origin = .auto then 0 else 1,
                    BitVec.ofNat 8 (r.retried.toNat + 2 * r.started.toNat)]))
            ∧ ∀ (e : WatchEntry) (c0 c1 c2 c3 code : Byte),
                i.toNat < 32 → s.watch.entryIn i.toNat = some e → e.location = location →
                e.offsets.length ≤ 4 → leValue [c0, c1, c2, c3] = e.stamp.toNat →
                (e.state, code) ∈ [(WatchState.tracking, 0#8), (.waiting, 1#8), (.queued, 2#8)] →
                exec (.readWatch s.management.address [i]) s = .next
                  (s.answered .ok
                    ([i, kind, b0, b1, b2, BitVec.ofNat 8 e.corrected, BitVec.ofNat 8 e.offsets.length]
                      ++ e.offsets.map (BitVec.ofNat 8) ++ List.replicate (4 - e.offsets.length) 0
                      ++ [BitVec.ofNat 8 e.uncorrectable.toNat, code, c0, c1, c2, c3]))

/-- RESTORE_REMAP, DROP_REMAP and RELEASE_SPARE: their checks in order, and the entry each changes; a release that finds the
engine BLOCKED lets it try again (R27, R28, R29, R40). That the head request starts into the entry in the same change is the model's
reading of the try (log entry 12). -/
def Obligations.RepairCommands : Prop :=
  ∀ (s : State) (i code b0 b1 b2 : Byte) (b : Nat), leValue [b0, b1, b2] = b →
    (s.mode ≠ .offline →
        exec (.restoreRemap s.management.address [i, code, b0, b1, b2]) s = .next (s.answered .wrongMode [])
          ∧ exec (.dropRemap s.management.address [i]) s = .next (s.answered .wrongMode []))
      ∧ (s.mode = .offline → s.settings.spares ≤ i.toNat →
          exec (.restoreRemap s.management.address [i, code, b0, b1, b2]) s = .next (s.answered .badArgument [])
            ∧ exec (.dropRemap s.management.address [i]) s = .next (s.answered .badArgument []))
      ∧ (s.mode = .offline → i.toNat < s.settings.spares →
          (code ≠ 3 → code ≠ 5 →
              exec (.restoreRemap s.management.address [i, code, b0, b1, b2]) s = .next (s.answered .badArgument []))
            ∧ (entryAt s.remap i.toNat ≠ .free →
              exec (.restoreRemap s.management.address [i, 5, b0, b1, b2]) s = .next (s.answered .conflict []))
            ∧ (entryAt s.remap i.toNat = .free →
              exec (.restoreRemap s.management.address [i, 5, b0, b1, b2]) s = .next
                (State.answered { s with remap := setEntry s.remap i.toNat (.retired .restored) } .ok []))
            ∧ (s.settings.visible ≤ b →
              exec (.restoreRemap s.management.address [i, 3, b0, b1, b2]) s = .next (s.answered .badArgument []))
            ∧ (b < s.settings.visible → entryAt s.remap i.toNat ≠ .free →
              exec (.restoreRemap s.management.address [i, 3, b0, b1, b2]) s = .next (s.answered .conflict []))
            ∧ (b < s.settings.visible → entryAt s.remap i.toNat = .free →
                (∃ j, j < 64 ∧ (entryAt s.remap j).source? = some b) →
              exec (.restoreRemap s.management.address [i, 3, b0, b1, b2]) s = .next (s.answered .duplicate []))
            ∧ (b < s.settings.visible → entryAt s.remap i.toNat = .free →
                (∀ j, j < 64 → (entryAt s.remap j).source? ≠ some b) →
              exec (.restoreRemap s.management.address [i, 3, b0, b1, b2]) s = .next
                (State.answered { s with remap := setEntry s.remap i.toNat (.active b .restored) } .ok []))
            ∧ ((∀ source origin, entryAt s.remap i.toNat ≠ .active source origin) →
              exec (.dropRemap s.management.address [i]) s = .next (s.answered .conflict []))
            ∧ ∀ source origin, entryAt s.remap i.toNat = .active source origin →
              exec (.dropRemap s.management.address [i]) s = .next
                (State.answered { s with remap := setEntry s.remap i.toNat .free } .ok []))
      ∧ (s.settings.spares ≤ i.toNat →
          exec (.releaseSpare s.management.address [i]) s = .next (s.answered .badArgument []))
      ∧ (i.toNat < s.settings.spares → (∀ reason, entryAt s.remap i.toNat ≠ .retired reason) →
          exec (.releaseSpare s.management.address [i]) s = .next (s.answered .conflict []))
      ∧ ∀ reason, i.toNat < s.settings.spares → entryAt s.remap i.toNat = .retired reason →
          (s.migration.engine ≠ .blocked →
              exec (.releaseSpare s.management.address [i]) s = .next
                (State.answered { s with remap := setEntry s.remap i.toNat .free } .ok []))
            ∧ ∀ r rest n, s.migration = { queue := r :: rest, engine := .blocked } → s.mode = .online → s.port.link = .up →
                s.dualPending = false → (∀ j, j < 64 → entryAt s.remap j ≠ .free) → r.location = .visible n →
                n < s.settings.visible → (∀ j, j < 64 → (entryAt s.remap j).routed? ≠ some n) →
                exec (.releaseSpare s.management.address [i]) s = .next
                  (State.answered
                    { s with
                      remap := setEntry s.remap i.toNat (.copying n .source 0 r.origin.toOrigin)
                      migration :=
                        { queue := { r with started := true } :: rest
                          engine := .copying
                            { target := i.toNat, phase := .reading, attempt := 1, inFlight := false, overtaken := false,
                              overtakes := 0, held := false, holding := false } }
                      records := s.records.take
                        { kind := .migrationStarted, source := .engine, location := some r.location,
                          spare := some i.toNat } } .ok [])

/-- REQUEST_SPARE: its checks in order, and a MANUAL request that joins at the tail, its watch entry QUEUED; then the engine's try (log
entry 12) (R34, R38, R69, R165). CANCEL_REQUEST: NOT_FOUND, the removal of a request that waits, which brings a BLOCKED engine to IDLE
if it was the head, and the abort of the migration in flight, with a LEAVING entry, requests behind it and a dual spare write pending or
not; the place frees, and the engine tries (log entry 12) (R26, R35, R40, R51, R52, R53, R54). CLEAR_WATCH: its checks in order and the
emptied slot (R71). -/
def Obligations.QueueAndWatchCommands : Prop :=
  ∀ (s : State) (kind b0 b1 b2 : Byte) (n : Nat), leValue [b0, b1, b2] = n →
    (kind ≠ 0 → kind ≠ 1 →
        exec (.requestSpare s.management.address [kind, b0, b1, b2]) s = .next (s.answered .badArgument [])
          ∧ exec (.cancelRequest s.management.address [kind, b0, b1, b2]) s = .next (s.answered .badArgument []))
      ∧ (s.settings.visible ≤ n →
          exec (.requestSpare s.management.address [0, b0, b1, b2]) s = .next (s.answered .badArgument []))
      ∧ (n < s.settings.visible → (∃ i, i < 64 ∧ (entryAt s.remap i).routed? = some n) →
          exec (.requestSpare s.management.address [0, b0, b1, b2]) s = .next (s.answered .alreadySpared []))
      ∧ (s.settings.spares ≤ n ∨ (∀ source origin, entryAt s.remap n ≠ .active source origin) →
          exec (.requestSpare s.management.address [1, b0, b1, b2]) s = .next (s.answered .badArgument []))
      ∧ (∀ location : Location,
          (kind = 0 ∧ location = .visible n ∧ n < s.settings.visible
              ∧ (∀ i, i < 64 → (entryAt s.remap i).routed? ≠ some n)
            ∨ kind = 1 ∧ location = .spare n ∧ n < s.settings.spares
              ∧ ∃ source origin, entryAt s.remap n = .active source origin) →
          ((∃ r ∈ s.migration.queue, r.location = location) →
              exec (.requestSpare s.management.address [kind, b0, b1, b2]) s = .next (s.answered .duplicate []))
            ∧ ((∀ r ∈ s.migration.queue, r.location ≠ location) → 8 ≤ s.migration.queue.length →
              exec (.requestSpare s.management.address [kind, b0, b1, b2]) s = .next (s.answered .full []))
            ∧ ((∀ r ∈ s.migration.queue, r.location ≠ location) → s.migration.queue.length < 8 → ∀ joined : State,
              joined = State.answered
                { s with
                  migration := { s.migration with
                    queue := s.migration.queue
                      ++ [{ location := location, origin := .manual, retried := false, started := false }] }
                  watch := s.watch.modify location fun e => { e with state := .queued } } .ok [] →
              exec (.requestSpare s.management.address [kind, b0, b1, b2]) s = exec .migrationStart joined
                ∧ (joined.settledLaw →
                  exec (.requestSpare s.management.address [kind, b0, b1, b2]) s = .next joined)))
      ∧ (∀ location : Location, (kind = 0 ∧ location = .visible n ∨ kind = 1 ∧ location = .spare n) →
          ((∀ r ∈ s.migration.queue, r.location ≠ location) →
              exec (.cancelRequest s.management.address [kind, b0, b1, b2]) s = .next (s.answered .notFound []))
            ∧ ∀ cleared : WatchTable,
              cleared = (s.watch.modify location fun e =>
                { e with state := .tracking, corrected := 0, offsets := [], uncorrectable := false }) →
              ∀ engine removed,
                removed = State.answered
                  (State.placeFreed
                    { s with
                      migration :=
                        { queue := s.migration.queue.filter fun r => r.location != location, engine := engine }
                      watch := cleared }) .ok [] →
                ((∃ r ∈ s.migration.queue, r.location = location) → engine = s.migration.engine →
                  engine = .idle ∨ (∀ r ∈ s.migration.queue.head?, r.location ≠ location) →
                    exec (.cancelRequest s.management.address [kind, b0, b1, b2]) s = exec .migrationStart removed
                      ∧ (removed.settledLaw →
                        exec (.cancelRequest s.management.address [kind, b0, b1, b2]) s = .next removed))
                  ∧ ∀ r behind, s.migration.queue = r :: behind → r.location = location →
                    (s.migration.engine = .blocked → engine = .idle →
                        exec (.cancelRequest s.management.address [kind, b0, b1, b2]) s = exec .migrationStart removed
                          ∧ (removed.settledLaw →
                            exec (.cancelRequest s.management.address [kind, b0, b1, b2]) s = .next removed))
                      ∧ ∀ work table, s.migration.engine = .copying work → s.abortsTo work.target .free table →
                        ∀ aborted : State,
                        aborted = State.answered
                          (State.placeFreed
                            { s.afterAbort work r table .cancelled with
                              migration := { queue := behind, engine := .idle }
                              watch := cleared }) .ok [] →
                        exec (.cancelRequest s.management.address [kind, b0, b1, b2]) s = exec .migrationStart aborted
                          ∧ (aborted.settledLaw →
                            exec (.cancelRequest s.management.address [kind, b0, b1, b2]) s = .next aborted))
      ∧ ∀ i : Byte,
          (32 ≤ i.toNat → exec (.clearWatch s.management.address [i]) s = .next (s.answered .badArgument []))
            ∧ (i.toNat < 32 → s.watch.entryIn i.toNat = none →
              exec (.clearWatch s.management.address [i]) s = .next (s.answered .notFound []))
            ∧ ∀ e, i.toNat < 32 → s.watch.entryIn i.toNat = some e →
              (e.state = .queued →
                  exec (.clearWatch s.management.address [i]) s = .next (s.answered .conflict []))
                ∧ (e.state ≠ .queued → ∃ w : WatchTable,
                  exec (.clearWatch s.management.address [i]) s
                      = .next (State.answered { s with watch := w } .ok [])
                    ∧ w.entryIn i.toNat = none ∧ (∀ slot, slot ≠ i.toNat → w.entryIn slot = s.watch.entryIn slot)
                    ∧ w.nextStamp = s.watch.nextStamp ∧ w.untracked = s.watch.untracked)

/-- The record queue takes a record in at its tail, or drops it when 16 are held (R135, R136); PEEK_RECORD and POP_RECORD answer
its head, which POP_RECORD removes, or EMPTY (R137, R138, R167, R177); ACK_ALERT clears DROPPED when it names it (R143, R167). -/
def Obligations.RecordCommands : Prop :=
  (∀ (u : RecordUnit) (body : RecordBody),
      (u.take body).nextSequence = u.nextSequence + 1
        ∧ (u.queue.length < 16 →
            (u.take body).queue = u.queue ++ [{ sequence := u.nextSequence, body := body }]
              ∧ (u.take body).dropped = u.dropped ∧ (u.take body).droppedFlag = u.droppedFlag)
        ∧ (16 ≤ u.queue.length →
            (u.take body).queue = u.queue ∧ (u.take body).dropped = min (u.dropped + 1) 65535
              ∧ (u.take body).droppedFlag = true))
    ∧ ∀ s : State,
        (s.records.queue = [] →
            exec (.peekRecord s.management.address []) s = .next (s.answered .empty [])
              ∧ exec (.popRecord s.management.address []) s = .next (s.answered .empty []))
          ∧ (∀ r rest, s.records.queue = r :: rest → ∃ p : List Byte,
              exec (.peekRecord s.management.address []) s = .next (s.answered .ok p)
                ∧ exec (.popRecord s.management.address []) s = .next
                    (State.answered { s with records := { s.records with queue := rest } } .ok p)
                ∧ p.length = 12 ∧ leValue (p.take 2) = r.sequence.toNat
                ∧ (∀ (kind : RecordKind) (code : Byte),
                    (kind, code) ∈
                      [(RecordKind.corrected, 0x01#8), (.uncorrectable, 0x02#8), (.poisonRead, 0x03#8),
                        (.watchCandidate, 0x04#8), (.trackingFull, 0x05#8), (.migrationStarted, 0x06#8),
                        (.migrationDone, 0x07#8), (.migrationAborted, 0x08#8), (.migrationDropped, 0x09#8),
                        (.requestStale, 0x0A#8), (.sparesExhausted, 0x0B#8), (.linkTimeout, 0x0C#8),
                        (.linkFault, 0x0D#8), (.linkDown, 0x0E#8), (.injectApplied, 0x0F#8)] →
                    r.body.kind = kind → p[2]? = some code)
                ∧ (∀ (source : RecordSource) (code : Byte),
                    (source, code) ∈
                      [(RecordSource.upstreamFetch, 0#8), (.mergeRead, 1#8), (.scrub, 2#8), (.copy, 3#8),
                        (.writeBack, 4#8), (.engine, 5#8), (.link, 6#8), (.management, 7#8)] →
                    r.body.source = source → p[3]? = some code)
                ∧ p[4]? = some (BitVec.ofNat 8
                    (r.body.location.isSome.toNat + 2 * r.body.offset.isSome.toNat + 4 * r.body.spare.isSome.toNat
                      + 8 * r.body.detail.isSome.toNat))
                ∧ (r.body.location = none → (p.drop 5).take 4 = [0, 0, 0, 0])
                ∧ (∀ b, r.body.location = some (.visible b) → b < 2 ^ 24 →
                    p[5]? = some 0 ∧ leValue ((p.drop 6).take 3) = b)
                ∧ (∀ i, r.body.location = some (.spare i) → i < 2 ^ 24 →
                    p[5]? = some 1 ∧ leValue ((p.drop 6).take 3) = i)
                ∧ p[9]? = some (BitVec.ofNat 8 (r.body.offset.getD 0))
                ∧ p[10]? = some (BitVec.ofNat 8 (r.body.spare.getD 0))
                ∧ (r.body.detail = none → p[11]? = some 0)
                ∧ ∀ (detail : RecordDetail) (code : Byte),
                    (detail, code) ∈
                      [(RecordDetail.cancelled, 1#8), (.stopped, 2#8), (.reset, 3#8), (.targetFailed, 4#8),
                        (.readFailed, 5#8), (.unexpectedTag, 6#8)] →
                    r.body.detail = some detail → p[11]? = some code)
          ∧ ∀ flags : Byte,
              exec (.ackAlert s.management.address [flags]) s = .next
                (State.answered
                  { s with
                    records := { s.records with
                      droppedFlag := if flags.getLsbD 1 = true then false else s.records.droppedFlag } } .ok [])

/-! ## Invariants -/

/-- Every step keeps the bounds the manual gives: the record queue, the write-back buffer, the migration queue, the abandoned set and
the acceptance queue hold no more than they may, no two write-backs name one word, no two requests one location, and no tag is abandoned
twice; and the dropped counts, the untracked count, the pass-over counts, each watch entry's count and word list, and the engine's attempt
and overtake counts stay in range (R32, R37, R61, R63, R91, R109, R113, R117, R118, R133, R136). -/
def Obligations.BoundsInvariant : Prop :=
  ∀ s t : State, s.recordLaw → s.writeBackLaw → s.queueLaw → s.linkLaw → s.passOverLaw → s.countLaw → s.workLaw →
    step s = .next t →
    t.recordLaw ∧ t.writeBackLaw ∧ t.queueLaw ∧ t.linkLaw ∧ t.passOverLaw ∧ t.countLaw

/-- Every step keeps the remap table and the engine in step: one entry at most routes a block, the COPYING entry is the engine's
target, its LEAVING partner has its source, and the entries below S, and no others, are in use (R13, R15, R17, R32, R37, R40). -/
def Obligations.TableInvariant : Prop :=
  ∀ s t : State, s.tableLaw → step s = .next t → t.tableLaw

/-- Every step keeps the watch table and the migration queue in step: one entry for a location, one request for a location, a
request for every QUEUED entry and none for a WAITING one (R32, R58, R61, R65). -/
def Obligations.WatchInvariant : Prop :=
  ∀ s t : State, s.watchLaw → s.queueLaw → step s = .next t → t.watchLaw ∧ t.queueLaw

/-- Every step keeps the ports, the line under copy and the scrubber in step: an outstanding access whose result will be taken is
the one its requester's state calls for, and none is outstanding while the link is DOWN (R48, R91, R92, R107, R113, R124, R130,
R150). -/
def Obligations.AccessInvariant : Prop :=
  ∀ s t : State, s.trafficLaw → step s = .next t → t.trafficLaw

/-- The model's reading of R38 (log entry 12): a try is made at every moment its conditions hold, so that after every step they do
not all hold. -/
def Obligations.SettledInvariant : Prop :=
  ∀ s t : State, s.settledLaw → s.watchLaw → s.queueLaw → step s = .next t → t.settledLaw

/-- Every place kept for an access to come, and the outstanding access unless its result is discarded, stays below V + S and
within one line, and every such WRITE_RUN carries as many words as its run (R5, R107). -/
def Obligations.PlaceInvariant : Prop :=
  ∀ s t : State, s.placeLaw → s.tableLaw → s.trafficLaw → step s = .next t → t.placeLaw

/-- The state after reset meets every law that the invariants keep. -/
def Obligations.ResetMeetsLaws : Prop :=
  (State.reset.recordLaw ∧ State.reset.writeBackLaw ∧ State.reset.queueLaw ∧ State.reset.linkLaw ∧ State.reset.passOverLaw
      ∧ State.reset.countLaw)
    ∧ State.reset.tableLaw ∧ State.reset.watchLaw ∧ State.reset.trafficLaw ∧ State.reset.settledLaw ∧ State.reset.placeLaw
end

