-- ==== Sys2Proof/Laws/State.lean ====
section
/-! SUPPORT. Laws/State.lean: what each plain update of the state makes of each field, so that no proof unfolds one. -/

namespace Sys2Proof.Machine

@[simp] theorem State.makeRecord_mode (s : State) (b : RecordBody) : (s.makeRecord b).mode = s.mode := rfl
@[simp] theorem State.makeRecord_settings (s : State) (b : RecordBody) : (s.makeRecord b).settings = s.settings := rfl
@[simp] theorem State.makeRecord_remap (s : State) (b : RecordBody) : (s.makeRecord b).remap = s.remap := rfl
@[simp] theorem State.makeRecord_migration (s : State) (b : RecordBody) : (s.makeRecord b).migration = s.migration := rfl
@[simp] theorem State.makeRecord_watch (s : State) (b : RecordBody) : (s.makeRecord b).watch = s.watch := rfl
@[simp] theorem State.makeRecord_injection (s : State) (b : RecordBody) : (s.makeRecord b).injection = s.injection := rfl
@[simp] theorem State.makeRecord_upstream (s : State) (b : RecordBody) : (s.makeRecord b).upstream = s.upstream := rfl
@[simp] theorem State.makeRecord_port (s : State) (b : RecordBody) : (s.makeRecord b).port = s.port := rfl
@[simp] theorem State.makeRecord_writeBack (s : State) (b : RecordBody) : (s.makeRecord b).writeBack = s.writeBack := rfl
@[simp] theorem State.makeRecord_scrubber (s : State) (b : RecordBody) : (s.makeRecord b).scrubber = s.scrubber := rfl
@[simp] theorem State.makeRecord_records (s : State) (b : RecordBody) : (s.makeRecord b).records = s.records.take b := rfl
@[simp] theorem State.makeRecord_management (s : State) (b : RecordBody) : (s.makeRecord b).management = s.management := rfl
@[simp] theorem State.makeRecord_freeIndex (s : State) (b : RecordBody) : (s.makeRecord b).freeIndex = s.freeIndex := rfl
@[simp] theorem State.makeRecord_pending (s : State) (b : RecordBody) : (s.makeRecord b).pending = s.pending := rfl

@[simp] theorem State.setQueue_mode (s : State) (q : List Request) : (s.setQueue q).mode = s.mode := rfl
@[simp] theorem State.setQueue_settings (s : State) (q : List Request) : (s.setQueue q).settings = s.settings := rfl
@[simp] theorem State.setQueue_remap (s : State) (q : List Request) : (s.setQueue q).remap = s.remap := rfl
@[simp] theorem State.setQueue_migration (s : State) (q : List Request) : (s.setQueue q).migration = { s.migration with queue := q } := rfl
@[simp] theorem State.setQueue_watch (s : State) (q : List Request) : (s.setQueue q).watch = s.watch := rfl
@[simp] theorem State.setQueue_injection (s : State) (q : List Request) : (s.setQueue q).injection = s.injection := rfl
@[simp] theorem State.setQueue_upstream (s : State) (q : List Request) : (s.setQueue q).upstream = s.upstream := rfl
@[simp] theorem State.setQueue_port (s : State) (q : List Request) : (s.setQueue q).port = s.port := rfl
@[simp] theorem State.setQueue_writeBack (s : State) (q : List Request) : (s.setQueue q).writeBack = s.writeBack := rfl
@[simp] theorem State.setQueue_scrubber (s : State) (q : List Request) : (s.setQueue q).scrubber = s.scrubber := rfl
@[simp] theorem State.setQueue_records (s : State) (q : List Request) : (s.setQueue q).records = s.records := rfl
@[simp] theorem State.setQueue_management (s : State) (q : List Request) : (s.setQueue q).management = s.management := rfl
@[simp] theorem State.setQueue_freeIndex (s : State) (q : List Request) : (s.setQueue q).freeIndex = s.freeIndex := rfl
@[simp] theorem State.setQueue_pending (s : State) (q : List Request) : (s.setQueue q).pending = s.pending := rfl

@[simp] theorem State.queueEntry_mode (s : State) (l : Location) : (s.queueEntry l).mode = s.mode := rfl
@[simp] theorem State.queueEntry_settings (s : State) (l : Location) : (s.queueEntry l).settings = s.settings := rfl
@[simp] theorem State.queueEntry_remap (s : State) (l : Location) : (s.queueEntry l).remap = s.remap := rfl
@[simp] theorem State.queueEntry_migration (s : State) (l : Location) : (s.queueEntry l).migration = s.migration := rfl
@[simp] theorem State.queueEntry_watch (s : State) (l : Location) : (s.queueEntry l).watch = s.watch.modify l WatchEntry.enqueue := rfl
@[simp] theorem State.queueEntry_injection (s : State) (l : Location) : (s.queueEntry l).injection = s.injection := rfl
@[simp] theorem State.queueEntry_upstream (s : State) (l : Location) : (s.queueEntry l).upstream = s.upstream := rfl
@[simp] theorem State.queueEntry_port (s : State) (l : Location) : (s.queueEntry l).port = s.port := rfl
@[simp] theorem State.queueEntry_writeBack (s : State) (l : Location) : (s.queueEntry l).writeBack = s.writeBack := rfl
@[simp] theorem State.queueEntry_scrubber (s : State) (l : Location) : (s.queueEntry l).scrubber = s.scrubber := rfl
@[simp] theorem State.queueEntry_records (s : State) (l : Location) : (s.queueEntry l).records = s.records := rfl
@[simp] theorem State.queueEntry_management (s : State) (l : Location) : (s.queueEntry l).management = s.management := rfl
@[simp] theorem State.queueEntry_freeIndex (s : State) (l : Location) : (s.queueEntry l).freeIndex = s.freeIndex := rfl
@[simp] theorem State.queueEntry_pending (s : State) (l : Location) : (s.queueEntry l).pending = s.pending := rfl

@[simp] theorem State.setProgress_mode (s : State) (p : Progress) : (s.setProgress p).mode = s.mode := rfl
@[simp] theorem State.setProgress_settings (s : State) (p : Progress) : (s.setProgress p).settings = s.settings := rfl
@[simp] theorem State.setProgress_remap (s : State) (p : Progress) : (s.setProgress p).remap = s.remap := rfl
@[simp] theorem State.setProgress_migration (s : State) (p : Progress) : (s.setProgress p).migration = s.migration := rfl
@[simp] theorem State.setProgress_watch (s : State) (p : Progress) : (s.setProgress p).watch = s.watch := rfl
@[simp] theorem State.setProgress_injection (s : State) (p : Progress) : (s.setProgress p).injection = s.injection := rfl
@[simp] theorem State.setProgress_upstream (s : State) (p : Progress) : (s.setProgress p).upstream = { s.upstream with progress := p } := rfl
@[simp] theorem State.setProgress_port (s : State) (p : Progress) : (s.setProgress p).port = s.port := rfl
@[simp] theorem State.setProgress_writeBack (s : State) (p : Progress) : (s.setProgress p).writeBack = s.writeBack := rfl
@[simp] theorem State.setProgress_scrubber (s : State) (p : Progress) : (s.setProgress p).scrubber = s.scrubber := rfl
@[simp] theorem State.setProgress_records (s : State) (p : Progress) : (s.setProgress p).records = s.records := rfl
@[simp] theorem State.setProgress_management (s : State) (p : Progress) : (s.setProgress p).management = s.management := rfl
@[simp] theorem State.setProgress_freeIndex (s : State) (p : Progress) : (s.setProgress p).freeIndex = s.freeIndex := rfl
@[simp] theorem State.setProgress_pending (s : State) (p : Progress) : (s.setProgress p).pending = s.pending := rfl

@[simp] theorem State.respond_mode (s : State) (c : Status) (p : List Byte) : (s.respond c p).mode = s.mode := rfl
@[simp] theorem State.respond_settings (s : State) (c : Status) (p : List Byte) : (s.respond c p).settings = s.settings := rfl
@[simp] theorem State.respond_remap (s : State) (c : Status) (p : List Byte) : (s.respond c p).remap = s.remap := rfl
@[simp] theorem State.respond_migration (s : State) (c : Status) (p : List Byte) : (s.respond c p).migration = s.migration := rfl
@[simp] theorem State.respond_watch (s : State) (c : Status) (p : List Byte) : (s.respond c p).watch = s.watch := rfl
@[simp] theorem State.respond_injection (s : State) (c : Status) (p : List Byte) : (s.respond c p).injection = s.injection := rfl
@[simp] theorem State.respond_upstream (s : State) (c : Status) (p : List Byte) : (s.respond c p).upstream = s.upstream := rfl
@[simp] theorem State.respond_port (s : State) (c : Status) (p : List Byte) : (s.respond c p).port = s.port := rfl
@[simp] theorem State.respond_writeBack (s : State) (c : Status) (p : List Byte) : (s.respond c p).writeBack = s.writeBack := rfl
@[simp] theorem State.respond_scrubber (s : State) (c : Status) (p : List Byte) : (s.respond c p).scrubber = s.scrubber := rfl
@[simp] theorem State.respond_records (s : State) (c : Status) (p : List Byte) : (s.respond c p).records = s.records := rfl
@[simp] theorem State.respond_management (s : State) (c : Status) (p : List Byte) : (s.respond c p).management = { s.management with response := { status := c, payload := p } } := rfl
@[simp] theorem State.respond_freeIndex (s : State) (c : Status) (p : List Byte) : (s.respond c p).freeIndex = s.freeIndex := rfl
@[simp] theorem State.respond_pending (s : State) (c : Status) (p : List Byte) : (s.respond c p).pending = s.pending := rfl

@[simp] theorem State.answerStatus_mode (s : State) (c : Status) : (s.answerStatus c).mode = s.mode := rfl
@[simp] theorem State.answerStatus_settings (s : State) (c : Status) : (s.answerStatus c).settings = s.settings := rfl
@[simp] theorem State.answerStatus_remap (s : State) (c : Status) : (s.answerStatus c).remap = s.remap := rfl
@[simp] theorem State.answerStatus_migration (s : State) (c : Status) : (s.answerStatus c).migration = s.migration := rfl
@[simp] theorem State.answerStatus_watch (s : State) (c : Status) : (s.answerStatus c).watch = s.watch := rfl
@[simp] theorem State.answerStatus_injection (s : State) (c : Status) : (s.answerStatus c).injection = s.injection := rfl
@[simp] theorem State.answerStatus_upstream (s : State) (c : Status) : (s.answerStatus c).upstream = s.upstream := rfl
@[simp] theorem State.answerStatus_port (s : State) (c : Status) : (s.answerStatus c).port = s.port := rfl
@[simp] theorem State.answerStatus_writeBack (s : State) (c : Status) : (s.answerStatus c).writeBack = s.writeBack := rfl
@[simp] theorem State.answerStatus_scrubber (s : State) (c : Status) : (s.answerStatus c).scrubber = s.scrubber := rfl
@[simp] theorem State.answerStatus_records (s : State) (c : Status) : (s.answerStatus c).records = s.records := rfl
@[simp] theorem State.answerStatus_management (s : State) (c : Status) : (s.answerStatus c).management = { s.management with response := { status := c, payload := [] } } := rfl
@[simp] theorem State.answerStatus_freeIndex (s : State) (c : Status) : (s.answerStatus c).freeIndex = s.freeIndex := rfl
@[simp] theorem State.answerStatus_pending (s : State) (c : Status) : (s.answerStatus c).pending = s.pending := rfl

@[simp] theorem State.onBus_mode (s : State) (a : Bool) (r : List Byte) : (s.onBus a r).mode = s.mode := rfl
@[simp] theorem State.onBus_settings (s : State) (a : Bool) (r : List Byte) : (s.onBus a r).settings = s.settings := rfl
@[simp] theorem State.onBus_remap (s : State) (a : Bool) (r : List Byte) : (s.onBus a r).remap = s.remap := rfl
@[simp] theorem State.onBus_migration (s : State) (a : Bool) (r : List Byte) : (s.onBus a r).migration = s.migration := rfl
@[simp] theorem State.onBus_watch (s : State) (a : Bool) (r : List Byte) : (s.onBus a r).watch = s.watch := rfl
@[simp] theorem State.onBus_injection (s : State) (a : Bool) (r : List Byte) : (s.onBus a r).injection = s.injection := rfl
@[simp] theorem State.onBus_upstream (s : State) (a : Bool) (r : List Byte) : (s.onBus a r).upstream = s.upstream := rfl
@[simp] theorem State.onBus_port (s : State) (a : Bool) (r : List Byte) : (s.onBus a r).port = s.port := rfl
@[simp] theorem State.onBus_writeBack (s : State) (a : Bool) (r : List Byte) : (s.onBus a r).writeBack = s.writeBack := rfl
@[simp] theorem State.onBus_scrubber (s : State) (a : Bool) (r : List Byte) : (s.onBus a r).scrubber = s.scrubber := rfl
@[simp] theorem State.onBus_records (s : State) (a : Bool) (r : List Byte) : (s.onBus a r).records = s.records := rfl
@[simp] theorem State.onBus_management (s : State) (a : Bool) (r : List Byte) : (s.onBus a r).management = { s.management with acknowledged := a, returned := r } := rfl
@[simp] theorem State.onBus_freeIndex (s : State) (a : Bool) (r : List Byte) : (s.onBus a r).freeIndex = s.freeIndex := rfl
@[simp] theorem State.onBus_pending (s : State) (a : Bool) (r : List Byte) : (s.onBus a r).pending = s.pending := rfl

@[simp] theorem State.freeSlot_mode (s : State) : (s.freeSlot).mode = s.mode := rfl
@[simp] theorem State.freeSlot_settings (s : State) : (s.freeSlot).settings = s.settings := rfl
@[simp] theorem State.freeSlot_remap (s : State) : (s.freeSlot).remap = s.remap := rfl
@[simp] theorem State.freeSlot_migration (s : State) : (s.freeSlot).migration = s.migration := rfl
@[simp] theorem State.freeSlot_watch (s : State) : (s.freeSlot).watch = s.watch := rfl
@[simp] theorem State.freeSlot_injection (s : State) : (s.freeSlot).injection = s.injection := rfl
@[simp] theorem State.freeSlot_upstream (s : State) : (s.freeSlot).upstream = s.upstream := rfl
@[simp] theorem State.freeSlot_port (s : State) : (s.freeSlot).port = { s.port with outstanding := none } := rfl
@[simp] theorem State.freeSlot_writeBack (s : State) : (s.freeSlot).writeBack = s.writeBack := rfl
@[simp] theorem State.freeSlot_scrubber (s : State) : (s.freeSlot).scrubber = s.scrubber := rfl
@[simp] theorem State.freeSlot_records (s : State) : (s.freeSlot).records = s.records := rfl
@[simp] theorem State.freeSlot_management (s : State) : (s.freeSlot).management = s.management := rfl
@[simp] theorem State.freeSlot_freeIndex (s : State) : (s.freeSlot).freeIndex = s.freeIndex := rfl
@[simp] theorem State.freeSlot_pending (s : State) : (s.freeSlot).pending = s.pending := rfl

end Sys2Proof.Machine
end

