-- ==== Sys2Proof/Laws/Frames.lean ====
section
/-! SUPPORT. Laws/Frames.lean: for each shared operation one lemma that says what it leaves alone, and the field lemmas it gives. -/

namespace Sys2Proof.Machine

theorem State.joinQueue_keeps (s : State) (l : Location) (o : RequestOrigin) :
    (s.joinQueue l o).mode = s.mode ∧ (s.joinQueue l o).settings = s.settings ∧ (s.joinQueue l o).remap = s.remap ∧
    (s.joinQueue l o).watch = s.watch ∧ (s.joinQueue l o).injection = s.injection ∧ (s.joinQueue l o).upstream =
    s.upstream ∧ (s.joinQueue l o).port = s.port ∧ (s.joinQueue l o).writeBack = s.writeBack ∧ (s.joinQueue l
    o).scrubber = s.scrubber ∧ (s.joinQueue l o).records = s.records ∧ (s.joinQueue l o).management = s.management ∧
    (s.joinQueue l o).freeIndex = s.freeIndex ∧ (s.joinQueue l o).pending = s.pending := by
  simp [State.joinQueue]
@[simp] theorem State.joinQueue_mode (s : State) (l : Location) (o : RequestOrigin) : (s.joinQueue l o).mode = s.mode := (s.joinQueue_keeps l o).1
@[simp] theorem State.joinQueue_settings (s : State) (l : Location) (o : RequestOrigin) : (s.joinQueue l o).settings = s.settings := (s.joinQueue_keeps l o).2.1
@[simp] theorem State.joinQueue_remap (s : State) (l : Location) (o : RequestOrigin) : (s.joinQueue l o).remap = s.remap := (s.joinQueue_keeps l o).2.2.1
@[simp] theorem State.joinQueue_watch (s : State) (l : Location) (o : RequestOrigin) : (s.joinQueue l o).watch = s.watch := (s.joinQueue_keeps l o).2.2.2.1
@[simp] theorem State.joinQueue_injection (s : State) (l : Location) (o : RequestOrigin) : (s.joinQueue l o).injection = s.injection := (s.joinQueue_keeps l o).2.2.2.2.1
@[simp] theorem State.joinQueue_upstream (s : State) (l : Location) (o : RequestOrigin) : (s.joinQueue l o).upstream = s.upstream := (s.joinQueue_keeps l o).2.2.2.2.2.1
@[simp] theorem State.joinQueue_port (s : State) (l : Location) (o : RequestOrigin) : (s.joinQueue l o).port = s.port := (s.joinQueue_keeps l o).2.2.2.2.2.2.1
@[simp] theorem State.joinQueue_writeBack (s : State) (l : Location) (o : RequestOrigin) : (s.joinQueue l o).writeBack = s.writeBack := (s.joinQueue_keeps l o).2.2.2.2.2.2.2.1
@[simp] theorem State.joinQueue_scrubber (s : State) (l : Location) (o : RequestOrigin) : (s.joinQueue l o).scrubber = s.scrubber := (s.joinQueue_keeps l o).2.2.2.2.2.2.2.2.1
@[simp] theorem State.joinQueue_records (s : State) (l : Location) (o : RequestOrigin) : (s.joinQueue l o).records = s.records := (s.joinQueue_keeps l o).2.2.2.2.2.2.2.2.2.1
@[simp] theorem State.joinQueue_management (s : State) (l : Location) (o : RequestOrigin) : (s.joinQueue l o).management = s.management := (s.joinQueue_keeps l o).2.2.2.2.2.2.2.2.2.2.1
@[simp] theorem State.joinQueue_freeIndex (s : State) (l : Location) (o : RequestOrigin) : (s.joinQueue l o).freeIndex = s.freeIndex := (s.joinQueue_keeps l o).2.2.2.2.2.2.2.2.2.2.2.1
@[simp] theorem State.joinQueue_pending (s : State) (l : Location) (o : RequestOrigin) : (s.joinQueue l o).pending = s.pending := (s.joinQueue_keeps l o).2.2.2.2.2.2.2.2.2.2.2.2

theorem State.offerWaiting_keeps (s : State) :
    (s.offerWaiting).mode = s.mode ∧ (s.offerWaiting).settings = s.settings ∧ (s.offerWaiting).remap = s.remap ∧
    (s.offerWaiting).injection = s.injection ∧ (s.offerWaiting).upstream = s.upstream ∧ (s.offerWaiting).port = s.port ∧
    (s.offerWaiting).writeBack = s.writeBack ∧ (s.offerWaiting).scrubber = s.scrubber ∧ (s.offerWaiting).records =
    s.records ∧ (s.offerWaiting).management = s.management ∧ (s.offerWaiting).freeIndex = s.freeIndex ∧
    (s.offerWaiting).pending = s.pending := by
  unfold State.offerWaiting
  (repeat' split) <;> simp
@[simp] theorem State.offerWaiting_mode (s : State) : (s.offerWaiting).mode = s.mode := s.offerWaiting_keeps.1
@[simp] theorem State.offerWaiting_settings (s : State) : (s.offerWaiting).settings = s.settings := s.offerWaiting_keeps.2.1
@[simp] theorem State.offerWaiting_remap (s : State) : (s.offerWaiting).remap = s.remap := s.offerWaiting_keeps.2.2.1
@[simp] theorem State.offerWaiting_injection (s : State) : (s.offerWaiting).injection = s.injection := s.offerWaiting_keeps.2.2.2.1
@[simp] theorem State.offerWaiting_upstream (s : State) : (s.offerWaiting).upstream = s.upstream := s.offerWaiting_keeps.2.2.2.2.1
@[simp] theorem State.offerWaiting_port (s : State) : (s.offerWaiting).port = s.port := s.offerWaiting_keeps.2.2.2.2.2.1
@[simp] theorem State.offerWaiting_writeBack (s : State) : (s.offerWaiting).writeBack = s.writeBack := s.offerWaiting_keeps.2.2.2.2.2.2.1
@[simp] theorem State.offerWaiting_scrubber (s : State) : (s.offerWaiting).scrubber = s.scrubber := s.offerWaiting_keeps.2.2.2.2.2.2.2.1
@[simp] theorem State.offerWaiting_records (s : State) : (s.offerWaiting).records = s.records := s.offerWaiting_keeps.2.2.2.2.2.2.2.2.1
@[simp] theorem State.offerWaiting_management (s : State) : (s.offerWaiting).management = s.management := s.offerWaiting_keeps.2.2.2.2.2.2.2.2.2.1
@[simp] theorem State.offerWaiting_freeIndex (s : State) : (s.offerWaiting).freeIndex = s.freeIndex := s.offerWaiting_keeps.2.2.2.2.2.2.2.2.2.2.1
@[simp] theorem State.offerWaiting_pending (s : State) : (s.offerWaiting).pending = s.pending := s.offerWaiting_keeps.2.2.2.2.2.2.2.2.2.2.2

theorem State.placeFreed_keeps (s : State) :
    (s.placeFreed).mode = s.mode ∧ (s.placeFreed).settings = s.settings ∧ (s.placeFreed).remap = s.remap ∧
    (s.placeFreed).injection = s.injection ∧ (s.placeFreed).upstream = s.upstream ∧ (s.placeFreed).port = s.port ∧
    (s.placeFreed).writeBack = s.writeBack ∧ (s.placeFreed).scrubber = s.scrubber ∧ (s.placeFreed).records = s.records ∧
    (s.placeFreed).management = s.management ∧ (s.placeFreed).freeIndex = s.freeIndex ∧ (s.placeFreed).pending =
    s.pending := by
  unfold State.placeFreed
  (repeat' split) <;> simp
@[simp] theorem State.placeFreed_mode (s : State) : (s.placeFreed).mode = s.mode := s.placeFreed_keeps.1
@[simp] theorem State.placeFreed_settings (s : State) : (s.placeFreed).settings = s.settings := s.placeFreed_keeps.2.1
@[simp] theorem State.placeFreed_remap (s : State) : (s.placeFreed).remap = s.remap := s.placeFreed_keeps.2.2.1
@[simp] theorem State.placeFreed_injection (s : State) : (s.placeFreed).injection = s.injection := s.placeFreed_keeps.2.2.2.1
@[simp] theorem State.placeFreed_upstream (s : State) : (s.placeFreed).upstream = s.upstream := s.placeFreed_keeps.2.2.2.2.1
@[simp] theorem State.placeFreed_port (s : State) : (s.placeFreed).port = s.port := s.placeFreed_keeps.2.2.2.2.2.1
@[simp] theorem State.placeFreed_writeBack (s : State) : (s.placeFreed).writeBack = s.writeBack := s.placeFreed_keeps.2.2.2.2.2.2.1
@[simp] theorem State.placeFreed_scrubber (s : State) : (s.placeFreed).scrubber = s.scrubber := s.placeFreed_keeps.2.2.2.2.2.2.2.1
@[simp] theorem State.placeFreed_records (s : State) : (s.placeFreed).records = s.records := s.placeFreed_keeps.2.2.2.2.2.2.2.2.1
@[simp] theorem State.placeFreed_management (s : State) : (s.placeFreed).management = s.management := s.placeFreed_keeps.2.2.2.2.2.2.2.2.2.1
@[simp] theorem State.placeFreed_freeIndex (s : State) : (s.placeFreed).freeIndex = s.freeIndex := s.placeFreed_keeps.2.2.2.2.2.2.2.2.2.2.1
@[simp] theorem State.placeFreed_pending (s : State) : (s.placeFreed).pending = s.pending := s.placeFreed_keeps.2.2.2.2.2.2.2.2.2.2.2

theorem State.placesFreed_keeps (s : State) (n : Nat) :
    (State.placesFreed n s).mode = s.mode ∧ (State.placesFreed n s).settings = s.settings ∧ (State.placesFreed n
    s).remap = s.remap ∧ (State.placesFreed n s).injection = s.injection ∧ (State.placesFreed n s).upstream = s.upstream
    ∧ (State.placesFreed n s).port = s.port ∧ (State.placesFreed n s).writeBack = s.writeBack ∧ (State.placesFreed n
    s).scrubber = s.scrubber ∧ (State.placesFreed n s).records = s.records ∧ (State.placesFreed n s).management =
    s.management ∧ (State.placesFreed n s).freeIndex = s.freeIndex ∧ (State.placesFreed n s).pending = s.pending := by
  induction n generalizing s with
  | zero => simp [State.placesFreed]
  | succ n ih => simp [State.placesFreed, ih]
@[simp] theorem State.placesFreed_mode (s : State) (n : Nat) : (State.placesFreed n s).mode = s.mode := (s.placesFreed_keeps n).1
@[simp] theorem State.placesFreed_settings (s : State) (n : Nat) : (State.placesFreed n s).settings = s.settings := (s.placesFreed_keeps n).2.1
@[simp] theorem State.placesFreed_remap (s : State) (n : Nat) : (State.placesFreed n s).remap = s.remap := (s.placesFreed_keeps n).2.2.1
@[simp] theorem State.placesFreed_injection (s : State) (n : Nat) : (State.placesFreed n s).injection = s.injection := (s.placesFreed_keeps n).2.2.2.1
@[simp] theorem State.placesFreed_upstream (s : State) (n : Nat) : (State.placesFreed n s).upstream = s.upstream := (s.placesFreed_keeps n).2.2.2.2.1
@[simp] theorem State.placesFreed_port (s : State) (n : Nat) : (State.placesFreed n s).port = s.port := (s.placesFreed_keeps n).2.2.2.2.2.1
@[simp] theorem State.placesFreed_writeBack (s : State) (n : Nat) : (State.placesFreed n s).writeBack = s.writeBack := (s.placesFreed_keeps n).2.2.2.2.2.2.1
@[simp] theorem State.placesFreed_scrubber (s : State) (n : Nat) : (State.placesFreed n s).scrubber = s.scrubber := (s.placesFreed_keeps n).2.2.2.2.2.2.2.1
@[simp] theorem State.placesFreed_records (s : State) (n : Nat) : (State.placesFreed n s).records = s.records := (s.placesFreed_keeps n).2.2.2.2.2.2.2.2.1
@[simp] theorem State.placesFreed_management (s : State) (n : Nat) : (State.placesFreed n s).management = s.management := (s.placesFreed_keeps n).2.2.2.2.2.2.2.2.2.1
@[simp] theorem State.placesFreed_freeIndex (s : State) (n : Nat) : (State.placesFreed n s).freeIndex = s.freeIndex := (s.placesFreed_keeps n).2.2.2.2.2.2.2.2.2.2.1
@[simp] theorem State.placesFreed_pending (s : State) (n : Nat) : (State.placesFreed n s).pending = s.pending := (s.placesFreed_keeps n).2.2.2.2.2.2.2.2.2.2.2

theorem State.dropStale_keeps (s : State) (l : Location) (rest : List Request) :
    (s.dropStale l rest).mode = s.mode ∧ (s.dropStale l rest).settings = s.settings ∧ (s.dropStale l rest).remap =
    s.remap ∧ (s.dropStale l rest).injection = s.injection ∧ (s.dropStale l rest).upstream = s.upstream ∧ (s.dropStale l
    rest).port = s.port ∧ (s.dropStale l rest).writeBack = s.writeBack ∧ (s.dropStale l rest).scrubber = s.scrubber ∧
    (s.dropStale l rest).management = s.management ∧ (s.dropStale l rest).freeIndex = s.freeIndex ∧ (s.dropStale l
    rest).pending = s.pending := by
  simp [State.dropStale]
@[simp] theorem State.dropStale_mode (s : State) (l : Location) (rest : List Request) : (s.dropStale l rest).mode = s.mode := (s.dropStale_keeps l rest).1
@[simp] theorem State.dropStale_settings (s : State) (l : Location) (rest : List Request) : (s.dropStale l rest).settings = s.settings := (s.dropStale_keeps l rest).2.1
@[simp] theorem State.dropStale_remap (s : State) (l : Location) (rest : List Request) : (s.dropStale l rest).remap = s.remap := (s.dropStale_keeps l rest).2.2.1
@[simp] theorem State.dropStale_injection (s : State) (l : Location) (rest : List Request) : (s.dropStale l rest).injection = s.injection := (s.dropStale_keeps l rest).2.2.2.1
@[simp] theorem State.dropStale_upstream (s : State) (l : Location) (rest : List Request) : (s.dropStale l rest).upstream = s.upstream := (s.dropStale_keeps l rest).2.2.2.2.1
@[simp] theorem State.dropStale_port (s : State) (l : Location) (rest : List Request) : (s.dropStale l rest).port = s.port := (s.dropStale_keeps l rest).2.2.2.2.2.1
@[simp] theorem State.dropStale_writeBack (s : State) (l : Location) (rest : List Request) : (s.dropStale l rest).writeBack = s.writeBack := (s.dropStale_keeps l rest).2.2.2.2.2.2.1
@[simp] theorem State.dropStale_scrubber (s : State) (l : Location) (rest : List Request) : (s.dropStale l rest).scrubber = s.scrubber := (s.dropStale_keeps l rest).2.2.2.2.2.2.2.1
@[simp] theorem State.dropStale_management (s : State) (l : Location) (rest : List Request) : (s.dropStale l rest).management = s.management := (s.dropStale_keeps l rest).2.2.2.2.2.2.2.2.1
@[simp] theorem State.dropStale_freeIndex (s : State) (l : Location) (rest : List Request) : (s.dropStale l rest).freeIndex = s.freeIndex := (s.dropStale_keeps l rest).2.2.2.2.2.2.2.2.2.1
@[simp] theorem State.dropStale_pending (s : State) (l : Location) (rest : List Request) : (s.dropStale l rest).pending = s.pending := (s.dropStale_keeps l rest).2.2.2.2.2.2.2.2.2.2

theorem State.block_keeps (s : State) (l : Location) :
    (s.block l).mode = s.mode ∧ (s.block l).settings = s.settings ∧ (s.block l).remap = s.remap ∧ (s.block l).watch =
    s.watch ∧ (s.block l).injection = s.injection ∧ (s.block l).upstream = s.upstream ∧ (s.block l).port = s.port ∧
    (s.block l).writeBack = s.writeBack ∧ (s.block l).scrubber = s.scrubber ∧ (s.block l).management = s.management ∧
    (s.block l).freeIndex = s.freeIndex ∧ (s.block l).pending = s.pending := by
  simp [State.block]
@[simp] theorem State.block_mode (s : State) (l : Location) : (s.block l).mode = s.mode := (s.block_keeps l).1
@[simp] theorem State.block_settings (s : State) (l : Location) : (s.block l).settings = s.settings := (s.block_keeps l).2.1
@[simp] theorem State.block_remap (s : State) (l : Location) : (s.block l).remap = s.remap := (s.block_keeps l).2.2.1
@[simp] theorem State.block_watch (s : State) (l : Location) : (s.block l).watch = s.watch := (s.block_keeps l).2.2.2.1
@[simp] theorem State.block_injection (s : State) (l : Location) : (s.block l).injection = s.injection := (s.block_keeps l).2.2.2.2.1
@[simp] theorem State.block_upstream (s : State) (l : Location) : (s.block l).upstream = s.upstream := (s.block_keeps l).2.2.2.2.2.1
@[simp] theorem State.block_port (s : State) (l : Location) : (s.block l).port = s.port := (s.block_keeps l).2.2.2.2.2.2.1
@[simp] theorem State.block_writeBack (s : State) (l : Location) : (s.block l).writeBack = s.writeBack := (s.block_keeps l).2.2.2.2.2.2.2.1
@[simp] theorem State.block_scrubber (s : State) (l : Location) : (s.block l).scrubber = s.scrubber := (s.block_keeps l).2.2.2.2.2.2.2.2.1
@[simp] theorem State.block_management (s : State) (l : Location) : (s.block l).management = s.management := (s.block_keeps l).2.2.2.2.2.2.2.2.2.1
@[simp] theorem State.block_freeIndex (s : State) (l : Location) : (s.block l).freeIndex = s.freeIndex := (s.block_keeps l).2.2.2.2.2.2.2.2.2.2.1
@[simp] theorem State.block_pending (s : State) (l : Location) : (s.block l).pending = s.pending := (s.block_keeps l).2.2.2.2.2.2.2.2.2.2.2

theorem State.startMigration_keeps (s : State) (r : Request) (rest : List Request) (target : Nat) :
    (s.startMigration r rest target).mode = s.mode ∧ (s.startMigration r rest target).settings = s.settings ∧
    (s.startMigration r rest target).watch = s.watch ∧ (s.startMigration r rest target).injection = s.injection ∧
    (s.startMigration r rest target).upstream = s.upstream ∧ (s.startMigration r rest target).port = s.port ∧
    (s.startMigration r rest target).writeBack = s.writeBack ∧ (s.startMigration r rest target).scrubber = s.scrubber ∧
    (s.startMigration r rest target).management = s.management ∧ (s.startMigration r rest target).freeIndex =
    s.freeIndex ∧ (s.startMigration r rest target).pending = s.pending := by
  unfold State.startMigration
  (repeat' split) <;> simp
@[simp] theorem State.startMigration_mode (s : State) (r : Request) (rest : List Request) (target : Nat) : (s.startMigration r rest target).mode = s.mode := (s.startMigration_keeps r rest target).1
@[simp] theorem State.startMigration_settings (s : State) (r : Request) (rest : List Request) (target : Nat) : (s.startMigration r rest target).settings = s.settings := (s.startMigration_keeps r rest target).2.1
@[simp] theorem State.startMigration_watch (s : State) (r : Request) (rest : List Request) (target : Nat) : (s.startMigration r rest target).watch = s.watch := (s.startMigration_keeps r rest target).2.2.1
@[simp] theorem State.startMigration_injection (s : State) (r : Request) (rest : List Request) (target : Nat) : (s.startMigration r rest target).injection = s.injection := (s.startMigration_keeps r rest target).2.2.2.1
@[simp] theorem State.startMigration_upstream (s : State) (r : Request) (rest : List Request) (target : Nat) : (s.startMigration r rest target).upstream = s.upstream := (s.startMigration_keeps r rest target).2.2.2.2.1
@[simp] theorem State.startMigration_port (s : State) (r : Request) (rest : List Request) (target : Nat) : (s.startMigration r rest target).port = s.port := (s.startMigration_keeps r rest target).2.2.2.2.2.1
@[simp] theorem State.startMigration_writeBack (s : State) (r : Request) (rest : List Request) (target : Nat) : (s.startMigration r rest target).writeBack = s.writeBack := (s.startMigration_keeps r rest target).2.2.2.2.2.2.1
@[simp] theorem State.startMigration_scrubber (s : State) (r : Request) (rest : List Request) (target : Nat) : (s.startMigration r rest target).scrubber = s.scrubber := (s.startMigration_keeps r rest target).2.2.2.2.2.2.2.1
@[simp] theorem State.startMigration_management (s : State) (r : Request) (rest : List Request) (target : Nat) : (s.startMigration r rest target).management = s.management := (s.startMigration_keeps r rest target).2.2.2.2.2.2.2.2.1
@[simp] theorem State.startMigration_freeIndex (s : State) (r : Request) (rest : List Request) (target : Nat) : (s.startMigration r rest target).freeIndex = s.freeIndex := (s.startMigration_keeps r rest target).2.2.2.2.2.2.2.2.2.1
@[simp] theorem State.startMigration_pending (s : State) (r : Request) (rest : List Request) (target : Nat) : (s.startMigration r rest target).pending = s.pending := (s.startMigration_keeps r rest target).2.2.2.2.2.2.2.2.2.2

theorem State.tryLoop_keeps (s : State) (n : Nat) :
    (State.tryLoop n s).mode = s.mode ∧ (State.tryLoop n s).settings = s.settings ∧ (State.tryLoop n s).injection =
    s.injection ∧ (State.tryLoop n s).upstream = s.upstream ∧ (State.tryLoop n s).port = s.port ∧ (State.tryLoop n
    s).writeBack = s.writeBack ∧ (State.tryLoop n s).scrubber = s.scrubber ∧ (State.tryLoop n s).management =
    s.management ∧ (State.tryLoop n s).freeIndex = s.freeIndex ∧ (State.tryLoop n s).pending = s.pending := by
  induction n generalizing s with
  | zero => simp [State.tryLoop]
  | succ n ih =>
    unfold State.tryLoop
    (repeat' split) <;> simp [ih]
@[simp] theorem State.tryLoop_mode (s : State) (n : Nat) : (State.tryLoop n s).mode = s.mode := (s.tryLoop_keeps n).1
@[simp] theorem State.tryLoop_settings (s : State) (n : Nat) : (State.tryLoop n s).settings = s.settings := (s.tryLoop_keeps n).2.1
@[simp] theorem State.tryLoop_injection (s : State) (n : Nat) : (State.tryLoop n s).injection = s.injection := (s.tryLoop_keeps n).2.2.1
@[simp] theorem State.tryLoop_upstream (s : State) (n : Nat) : (State.tryLoop n s).upstream = s.upstream := (s.tryLoop_keeps n).2.2.2.1
@[simp] theorem State.tryLoop_port (s : State) (n : Nat) : (State.tryLoop n s).port = s.port := (s.tryLoop_keeps n).2.2.2.2.1
@[simp] theorem State.tryLoop_writeBack (s : State) (n : Nat) : (State.tryLoop n s).writeBack = s.writeBack := (s.tryLoop_keeps n).2.2.2.2.2.1
@[simp] theorem State.tryLoop_scrubber (s : State) (n : Nat) : (State.tryLoop n s).scrubber = s.scrubber := (s.tryLoop_keeps n).2.2.2.2.2.2.1
@[simp] theorem State.tryLoop_management (s : State) (n : Nat) : (State.tryLoop n s).management = s.management := (s.tryLoop_keeps n).2.2.2.2.2.2.2.1
@[simp] theorem State.tryLoop_freeIndex (s : State) (n : Nat) : (State.tryLoop n s).freeIndex = s.freeIndex := (s.tryLoop_keeps n).2.2.2.2.2.2.2.2.1
@[simp] theorem State.tryLoop_pending (s : State) (n : Nat) : (State.tryLoop n s).pending = s.pending := (s.tryLoop_keeps n).2.2.2.2.2.2.2.2.2

theorem State.tryStart_keeps (s : State) :
    (s.tryStart).mode = s.mode ∧ (s.tryStart).settings = s.settings ∧ (s.tryStart).injection = s.injection ∧
    (s.tryStart).upstream = s.upstream ∧ (s.tryStart).port = s.port ∧ (s.tryStart).writeBack = s.writeBack ∧
    (s.tryStart).scrubber = s.scrubber ∧ (s.tryStart).management = s.management ∧ (s.tryStart).freeIndex = s.freeIndex ∧
    (s.tryStart).pending = s.pending := by
  simp [State.tryStart]
@[simp] theorem State.tryStart_mode (s : State) : (s.tryStart).mode = s.mode := s.tryStart_keeps.1
@[simp] theorem State.tryStart_settings (s : State) : (s.tryStart).settings = s.settings := s.tryStart_keeps.2.1
@[simp] theorem State.tryStart_injection (s : State) : (s.tryStart).injection = s.injection := s.tryStart_keeps.2.2.1
@[simp] theorem State.tryStart_upstream (s : State) : (s.tryStart).upstream = s.upstream := s.tryStart_keeps.2.2.2.1
@[simp] theorem State.tryStart_port (s : State) : (s.tryStart).port = s.port := s.tryStart_keeps.2.2.2.2.1
@[simp] theorem State.tryStart_writeBack (s : State) : (s.tryStart).writeBack = s.writeBack := s.tryStart_keeps.2.2.2.2.2.1
@[simp] theorem State.tryStart_scrubber (s : State) : (s.tryStart).scrubber = s.scrubber := s.tryStart_keeps.2.2.2.2.2.2.1
@[simp] theorem State.tryStart_management (s : State) : (s.tryStart).management = s.management := s.tryStart_keeps.2.2.2.2.2.2.2.1
@[simp] theorem State.tryStart_freeIndex (s : State) : (s.tryStart).freeIndex = s.freeIndex := s.tryStart_keeps.2.2.2.2.2.2.2.2.1
@[simp] theorem State.tryStart_pending (s : State) : (s.tryStart).pending = s.pending := s.tryStart_keeps.2.2.2.2.2.2.2.2.2

theorem State.becomeCandidate_keeps (s : State) (source : RecordSource) (l : Location) (o : Nat) :
    (s.becomeCandidate source l o).mode = s.mode ∧ (s.becomeCandidate source l o).settings = s.settings ∧
    (s.becomeCandidate source l o).injection = s.injection ∧ (s.becomeCandidate source l o).upstream = s.upstream ∧
    (s.becomeCandidate source l o).port = s.port ∧ (s.becomeCandidate source l o).writeBack = s.writeBack ∧
    (s.becomeCandidate source l o).scrubber = s.scrubber ∧ (s.becomeCandidate source l o).management = s.management ∧
    (s.becomeCandidate source l o).freeIndex = s.freeIndex ∧ (s.becomeCandidate source l o).pending = s.pending := by
  unfold State.becomeCandidate
  (repeat' split) <;> simp
@[simp] theorem State.becomeCandidate_mode (s : State) (source : RecordSource) (l : Location) (o : Nat) : (s.becomeCandidate source l o).mode = s.mode := (s.becomeCandidate_keeps source l o).1
@[simp] theorem State.becomeCandidate_settings (s : State) (source : RecordSource) (l : Location) (o : Nat) : (s.becomeCandidate source l o).settings = s.settings := (s.becomeCandidate_keeps source l o).2.1
@[simp] theorem State.becomeCandidate_injection (s : State) (source : RecordSource) (l : Location) (o : Nat) : (s.becomeCandidate source l o).injection = s.injection := (s.becomeCandidate_keeps source l o).2.2.1
@[simp] theorem State.becomeCandidate_upstream (s : State) (source : RecordSource) (l : Location) (o : Nat) : (s.becomeCandidate source l o).upstream = s.upstream := (s.becomeCandidate_keeps source l o).2.2.2.1
@[simp] theorem State.becomeCandidate_port (s : State) (source : RecordSource) (l : Location) (o : Nat) : (s.becomeCandidate source l o).port = s.port := (s.becomeCandidate_keeps source l o).2.2.2.2.1
@[simp] theorem State.becomeCandidate_writeBack (s : State) (source : RecordSource) (l : Location) (o : Nat) : (s.becomeCandidate source l o).writeBack = s.writeBack := (s.becomeCandidate_keeps source l o).2.2.2.2.2.1
@[simp] theorem State.becomeCandidate_scrubber (s : State) (source : RecordSource) (l : Location) (o : Nat) : (s.becomeCandidate source l o).scrubber = s.scrubber := (s.becomeCandidate_keeps source l o).2.2.2.2.2.2.1
@[simp] theorem State.becomeCandidate_management (s : State) (source : RecordSource) (l : Location) (o : Nat) : (s.becomeCandidate source l o).management = s.management := (s.becomeCandidate_keeps source l o).2.2.2.2.2.2.2.1
@[simp] theorem State.becomeCandidate_freeIndex (s : State) (source : RecordSource) (l : Location) (o : Nat) : (s.becomeCandidate source l o).freeIndex = s.freeIndex := (s.becomeCandidate_keeps source l o).2.2.2.2.2.2.2.2.1
@[simp] theorem State.becomeCandidate_pending (s : State) (source : RecordSource) (l : Location) (o : Nat) : (s.becomeCandidate source l o).pending = s.pending := (s.becomeCandidate_keeps source l o).2.2.2.2.2.2.2.2.2

theorem State.countOutcome_keeps (s : State) (source : RecordSource) (l : Location) (o : Nat) (u f : Bool) :
    ((s.countOutcome source l o u f).1).mode = s.mode ∧ ((s.countOutcome source l o u f).1).settings = s.settings ∧
    ((s.countOutcome source l o u f).1).injection = s.injection ∧ ((s.countOutcome source l o u f).1).upstream =
    s.upstream ∧ ((s.countOutcome source l o u f).1).port = s.port ∧ ((s.countOutcome source l o u f).1).writeBack =
    s.writeBack ∧ ((s.countOutcome source l o u f).1).scrubber = s.scrubber ∧ ((s.countOutcome source l o u
    f).1).management = s.management ∧ ((s.countOutcome source l o u f).1).freeIndex = s.freeIndex ∧ ((s.countOutcome
    source l o u f).1).pending = s.pending := by
  unfold State.countOutcome
  split
  · split <;> simp
  · split
    · simp
    · dsimp only
      split <;> simp
@[simp] theorem State.countOutcome_mode (s : State) (source : RecordSource) (l : Location) (o : Nat) (u f : Bool) : ((s.countOutcome source l o u f).1).mode = s.mode := (s.countOutcome_keeps source l o u f).1
@[simp] theorem State.countOutcome_settings (s : State) (source : RecordSource) (l : Location) (o : Nat) (u f : Bool) : ((s.countOutcome source l o u f).1).settings = s.settings := (s.countOutcome_keeps source l o u f).2.1
@[simp] theorem State.countOutcome_injection (s : State) (source : RecordSource) (l : Location) (o : Nat) (u f : Bool) : ((s.countOutcome source l o u f).1).injection = s.injection := (s.countOutcome_keeps source l o u f).2.2.1
@[simp] theorem State.countOutcome_upstream (s : State) (source : RecordSource) (l : Location) (o : Nat) (u f : Bool) : ((s.countOutcome source l o u f).1).upstream = s.upstream := (s.countOutcome_keeps source l o u f).2.2.2.1
@[simp] theorem State.countOutcome_port (s : State) (source : RecordSource) (l : Location) (o : Nat) (u f : Bool) : ((s.countOutcome source l o u f).1).port = s.port := (s.countOutcome_keeps source l o u f).2.2.2.2.1
@[simp] theorem State.countOutcome_writeBack (s : State) (source : RecordSource) (l : Location) (o : Nat) (u f : Bool) : ((s.countOutcome source l o u f).1).writeBack = s.writeBack := (s.countOutcome_keeps source l o u f).2.2.2.2.2.1
@[simp] theorem State.countOutcome_scrubber (s : State) (source : RecordSource) (l : Location) (o : Nat) (u f : Bool) : ((s.countOutcome source l o u f).1).scrubber = s.scrubber := (s.countOutcome_keeps source l o u f).2.2.2.2.2.2.1
@[simp] theorem State.countOutcome_management (s : State) (source : RecordSource) (l : Location) (o : Nat) (u f : Bool) : ((s.countOutcome source l o u f).1).management = s.management := (s.countOutcome_keeps source l o u f).2.2.2.2.2.2.2.1
@[simp] theorem State.countOutcome_freeIndex (s : State) (source : RecordSource) (l : Location) (o : Nat) (u f : Bool) : ((s.countOutcome source l o u f).1).freeIndex = s.freeIndex := (s.countOutcome_keeps source l o u f).2.2.2.2.2.2.2.2.1
@[simp] theorem State.countOutcome_pending (s : State) (source : RecordSource) (l : Location) (o : Nat) (u f : Bool) : ((s.countOutcome source l o u f).1).pending = s.pending := (s.countOutcome_keeps source l o u f).2.2.2.2.2.2.2.2.2

theorem State.settleFate_keeps (s : State) (fate : MigrationFate) :
    (s.settleFate fate).mode = s.mode ∧ (s.settleFate fate).settings = s.settings ∧ (s.settleFate fate).remap = s.remap
    ∧ (s.settleFate fate).migration = s.migration ∧ (s.settleFate fate).watch = s.watch ∧ (s.settleFate fate).injection
    = s.injection ∧ (s.settleFate fate).port = s.port ∧ (s.settleFate fate).writeBack = s.writeBack ∧ (s.settleFate
    fate).scrubber = s.scrubber ∧ (s.settleFate fate).records = s.records ∧ (s.settleFate fate).management =
    s.management ∧ (s.settleFate fate).freeIndex = s.freeIndex ∧ (s.settleFate fate).pending = s.pending := by
  unfold State.settleFate
  (repeat' split) <;> simp
@[simp] theorem State.settleFate_mode (s : State) (fate : MigrationFate) : (s.settleFate fate).mode = s.mode := (s.settleFate_keeps fate).1
@[simp] theorem State.settleFate_settings (s : State) (fate : MigrationFate) : (s.settleFate fate).settings = s.settings := (s.settleFate_keeps fate).2.1
@[simp] theorem State.settleFate_remap (s : State) (fate : MigrationFate) : (s.settleFate fate).remap = s.remap := (s.settleFate_keeps fate).2.2.1
@[simp] theorem State.settleFate_migration (s : State) (fate : MigrationFate) : (s.settleFate fate).migration = s.migration := (s.settleFate_keeps fate).2.2.2.1
@[simp] theorem State.settleFate_watch (s : State) (fate : MigrationFate) : (s.settleFate fate).watch = s.watch := (s.settleFate_keeps fate).2.2.2.2.1
@[simp] theorem State.settleFate_injection (s : State) (fate : MigrationFate) : (s.settleFate fate).injection = s.injection := (s.settleFate_keeps fate).2.2.2.2.2.1
@[simp] theorem State.settleFate_port (s : State) (fate : MigrationFate) : (s.settleFate fate).port = s.port := (s.settleFate_keeps fate).2.2.2.2.2.2.1
@[simp] theorem State.settleFate_writeBack (s : State) (fate : MigrationFate) : (s.settleFate fate).writeBack = s.writeBack := (s.settleFate_keeps fate).2.2.2.2.2.2.2.1
@[simp] theorem State.settleFate_scrubber (s : State) (fate : MigrationFate) : (s.settleFate fate).scrubber = s.scrubber := (s.settleFate_keeps fate).2.2.2.2.2.2.2.2.1
@[simp] theorem State.settleFate_records (s : State) (fate : MigrationFate) : (s.settleFate fate).records = s.records := (s.settleFate_keeps fate).2.2.2.2.2.2.2.2.2.1
@[simp] theorem State.settleFate_management (s : State) (fate : MigrationFate) : (s.settleFate fate).management = s.management := (s.settleFate_keeps fate).2.2.2.2.2.2.2.2.2.2.1
@[simp] theorem State.settleFate_freeIndex (s : State) (fate : MigrationFate) : (s.settleFate fate).freeIndex = s.freeIndex := (s.settleFate_keeps fate).2.2.2.2.2.2.2.2.2.2.2.1
@[simp] theorem State.settleFate_pending (s : State) (fate : MigrationFate) : (s.settleFate fate).pending = s.pending := (s.settleFate_keeps fate).2.2.2.2.2.2.2.2.2.2.2.2

theorem State.discardOutstanding_keeps (s : State) (r : Requester) :
    (s.discardOutstanding r).mode = s.mode ∧ (s.discardOutstanding r).settings = s.settings ∧ (s.discardOutstanding
    r).remap = s.remap ∧ (s.discardOutstanding r).migration = s.migration ∧ (s.discardOutstanding r).watch = s.watch ∧
    (s.discardOutstanding r).injection = s.injection ∧ (s.discardOutstanding r).upstream = s.upstream ∧
    (s.discardOutstanding r).writeBack = s.writeBack ∧ (s.discardOutstanding r).scrubber = s.scrubber ∧
    (s.discardOutstanding r).records = s.records ∧ (s.discardOutstanding r).management = s.management ∧
    (s.discardOutstanding r).freeIndex = s.freeIndex ∧ (s.discardOutstanding r).pending = s.pending := by
  unfold State.discardOutstanding
  (repeat' split) <;> simp
@[simp] theorem State.discardOutstanding_mode (s : State) (r : Requester) : (s.discardOutstanding r).mode = s.mode := (s.discardOutstanding_keeps r).1
@[simp] theorem State.discardOutstanding_settings (s : State) (r : Requester) : (s.discardOutstanding r).settings = s.settings := (s.discardOutstanding_keeps r).2.1
@[simp] theorem State.discardOutstanding_remap (s : State) (r : Requester) : (s.discardOutstanding r).remap = s.remap := (s.discardOutstanding_keeps r).2.2.1
@[simp] theorem State.discardOutstanding_migration (s : State) (r : Requester) : (s.discardOutstanding r).migration = s.migration := (s.discardOutstanding_keeps r).2.2.2.1
@[simp] theorem State.discardOutstanding_watch (s : State) (r : Requester) : (s.discardOutstanding r).watch = s.watch := (s.discardOutstanding_keeps r).2.2.2.2.1
@[simp] theorem State.discardOutstanding_injection (s : State) (r : Requester) : (s.discardOutstanding r).injection = s.injection := (s.discardOutstanding_keeps r).2.2.2.2.2.1
@[simp] theorem State.discardOutstanding_upstream (s : State) (r : Requester) : (s.discardOutstanding r).upstream = s.upstream := (s.discardOutstanding_keeps r).2.2.2.2.2.2.1
@[simp] theorem State.discardOutstanding_writeBack (s : State) (r : Requester) : (s.discardOutstanding r).writeBack = s.writeBack := (s.discardOutstanding_keeps r).2.2.2.2.2.2.2.1
@[simp] theorem State.discardOutstanding_scrubber (s : State) (r : Requester) : (s.discardOutstanding r).scrubber = s.scrubber := (s.discardOutstanding_keeps r).2.2.2.2.2.2.2.2.1
@[simp] theorem State.discardOutstanding_records (s : State) (r : Requester) : (s.discardOutstanding r).records = s.records := (s.discardOutstanding_keeps r).2.2.2.2.2.2.2.2.2.1
@[simp] theorem State.discardOutstanding_management (s : State) (r : Requester) : (s.discardOutstanding r).management = s.management := (s.discardOutstanding_keeps r).2.2.2.2.2.2.2.2.2.2.1
@[simp] theorem State.discardOutstanding_freeIndex (s : State) (r : Requester) : (s.discardOutstanding r).freeIndex = s.freeIndex := (s.discardOutstanding_keeps r).2.2.2.2.2.2.2.2.2.2.2.1
@[simp] theorem State.discardOutstanding_pending (s : State) (r : Requester) : (s.discardOutstanding r).pending = s.pending := (s.discardOutstanding_keeps r).2.2.2.2.2.2.2.2.2.2.2.2

theorem State.emptyWriteBack_keeps (s : State) :
    (s.emptyWriteBack).mode = s.mode ∧ (s.emptyWriteBack).settings = s.settings ∧ (s.emptyWriteBack).remap = s.remap ∧
    (s.emptyWriteBack).migration = s.migration ∧ (s.emptyWriteBack).watch = s.watch ∧ (s.emptyWriteBack).injection =
    s.injection ∧ (s.emptyWriteBack).upstream = s.upstream ∧ (s.emptyWriteBack).scrubber = s.scrubber ∧
    (s.emptyWriteBack).records = s.records ∧ (s.emptyWriteBack).management = s.management ∧ (s.emptyWriteBack).freeIndex
    = s.freeIndex ∧ (s.emptyWriteBack).pending = s.pending := by
  simp [State.emptyWriteBack]
@[simp] theorem State.emptyWriteBack_mode (s : State) : (s.emptyWriteBack).mode = s.mode := s.emptyWriteBack_keeps.1
@[simp] theorem State.emptyWriteBack_settings (s : State) : (s.emptyWriteBack).settings = s.settings := s.emptyWriteBack_keeps.2.1
@[simp] theorem State.emptyWriteBack_remap (s : State) : (s.emptyWriteBack).remap = s.remap := s.emptyWriteBack_keeps.2.2.1
@[simp] theorem State.emptyWriteBack_migration (s : State) : (s.emptyWriteBack).migration = s.migration := s.emptyWriteBack_keeps.2.2.2.1
@[simp] theorem State.emptyWriteBack_watch (s : State) : (s.emptyWriteBack).watch = s.watch := s.emptyWriteBack_keeps.2.2.2.2.1
@[simp] theorem State.emptyWriteBack_injection (s : State) : (s.emptyWriteBack).injection = s.injection := s.emptyWriteBack_keeps.2.2.2.2.2.1
@[simp] theorem State.emptyWriteBack_upstream (s : State) : (s.emptyWriteBack).upstream = s.upstream := s.emptyWriteBack_keeps.2.2.2.2.2.2.1
@[simp] theorem State.emptyWriteBack_scrubber (s : State) : (s.emptyWriteBack).scrubber = s.scrubber := s.emptyWriteBack_keeps.2.2.2.2.2.2.2.1
@[simp] theorem State.emptyWriteBack_records (s : State) : (s.emptyWriteBack).records = s.records := s.emptyWriteBack_keeps.2.2.2.2.2.2.2.2.1
@[simp] theorem State.emptyWriteBack_management (s : State) : (s.emptyWriteBack).management = s.management := s.emptyWriteBack_keeps.2.2.2.2.2.2.2.2.2.1
@[simp] theorem State.emptyWriteBack_freeIndex (s : State) : (s.emptyWriteBack).freeIndex = s.freeIndex := s.emptyWriteBack_keeps.2.2.2.2.2.2.2.2.2.2.1
@[simp] theorem State.emptyWriteBack_pending (s : State) : (s.emptyWriteBack).pending = s.pending := s.emptyWriteBack_keeps.2.2.2.2.2.2.2.2.2.2.2

theorem State.completeMigration_keeps (s : State) (work : CopyWork) :
    (s.completeMigration work).mode = s.mode ∧ (s.completeMigration work).settings = s.settings ∧ (s.completeMigration
    work).injection = s.injection ∧ (s.completeMigration work).port = s.port ∧ (s.completeMigration work).writeBack =
    s.writeBack ∧ (s.completeMigration work).scrubber = s.scrubber ∧ (s.completeMigration work).management =
    s.management ∧ (s.completeMigration work).freeIndex = s.freeIndex ∧ (s.completeMigration work).pending = s.pending := by
  unfold State.completeMigration
  (repeat' split) <;> simp
@[simp] theorem State.completeMigration_mode (s : State) (work : CopyWork) : (s.completeMigration work).mode = s.mode := (s.completeMigration_keeps work).1
@[simp] theorem State.completeMigration_settings (s : State) (work : CopyWork) : (s.completeMigration work).settings = s.settings := (s.completeMigration_keeps work).2.1
@[simp] theorem State.completeMigration_injection (s : State) (work : CopyWork) : (s.completeMigration work).injection = s.injection := (s.completeMigration_keeps work).2.2.1
@[simp] theorem State.completeMigration_port (s : State) (work : CopyWork) : (s.completeMigration work).port = s.port := (s.completeMigration_keeps work).2.2.2.1
@[simp] theorem State.completeMigration_writeBack (s : State) (work : CopyWork) : (s.completeMigration work).writeBack = s.writeBack := (s.completeMigration_keeps work).2.2.2.2.1
@[simp] theorem State.completeMigration_scrubber (s : State) (work : CopyWork) : (s.completeMigration work).scrubber = s.scrubber := (s.completeMigration_keeps work).2.2.2.2.2.1
@[simp] theorem State.completeMigration_management (s : State) (work : CopyWork) : (s.completeMigration work).management = s.management := (s.completeMigration_keeps work).2.2.2.2.2.2.1
@[simp] theorem State.completeMigration_freeIndex (s : State) (work : CopyWork) : (s.completeMigration work).freeIndex = s.freeIndex := (s.completeMigration_keeps work).2.2.2.2.2.2.2.1
@[simp] theorem State.completeMigration_pending (s : State) (work : CopyWork) : (s.completeMigration work).pending = s.pending := (s.completeMigration_keeps work).2.2.2.2.2.2.2.2

theorem State.failRequest_keeps (s : State) (r : Request) (rest : List Request) (target : Nat) :
    (s.failRequest r rest target).mode = s.mode ∧ (s.failRequest r rest target).settings = s.settings ∧ (s.failRequest r
    rest target).remap = s.remap ∧ (s.failRequest r rest target).injection = s.injection ∧ (s.failRequest r rest
    target).upstream = s.upstream ∧ (s.failRequest r rest target).port = s.port ∧ (s.failRequest r rest
    target).writeBack = s.writeBack ∧ (s.failRequest r rest target).scrubber = s.scrubber ∧ (s.failRequest r rest
    target).management = s.management ∧ (s.failRequest r rest target).freeIndex = s.freeIndex ∧ (s.failRequest r rest
    target).pending = s.pending := by
  unfold State.failRequest
  (repeat' split) <;> simp
@[simp] theorem State.failRequest_mode (s : State) (r : Request) (rest : List Request) (target : Nat) : (s.failRequest r rest target).mode = s.mode := (s.failRequest_keeps r rest target).1
@[simp] theorem State.failRequest_settings (s : State) (r : Request) (rest : List Request) (target : Nat) : (s.failRequest r rest target).settings = s.settings := (s.failRequest_keeps r rest target).2.1
@[simp] theorem State.failRequest_remap (s : State) (r : Request) (rest : List Request) (target : Nat) : (s.failRequest r rest target).remap = s.remap := (s.failRequest_keeps r rest target).2.2.1
@[simp] theorem State.failRequest_injection (s : State) (r : Request) (rest : List Request) (target : Nat) : (s.failRequest r rest target).injection = s.injection := (s.failRequest_keeps r rest target).2.2.2.1
@[simp] theorem State.failRequest_upstream (s : State) (r : Request) (rest : List Request) (target : Nat) : (s.failRequest r rest target).upstream = s.upstream := (s.failRequest_keeps r rest target).2.2.2.2.1
@[simp] theorem State.failRequest_port (s : State) (r : Request) (rest : List Request) (target : Nat) : (s.failRequest r rest target).port = s.port := (s.failRequest_keeps r rest target).2.2.2.2.2.1
@[simp] theorem State.failRequest_writeBack (s : State) (r : Request) (rest : List Request) (target : Nat) : (s.failRequest r rest target).writeBack = s.writeBack := (s.failRequest_keeps r rest target).2.2.2.2.2.2.1
@[simp] theorem State.failRequest_scrubber (s : State) (r : Request) (rest : List Request) (target : Nat) : (s.failRequest r rest target).scrubber = s.scrubber := (s.failRequest_keeps r rest target).2.2.2.2.2.2.2.1
@[simp] theorem State.failRequest_management (s : State) (r : Request) (rest : List Request) (target : Nat) : (s.failRequest r rest target).management = s.management := (s.failRequest_keeps r rest target).2.2.2.2.2.2.2.2.1
@[simp] theorem State.failRequest_freeIndex (s : State) (r : Request) (rest : List Request) (target : Nat) : (s.failRequest r rest target).freeIndex = s.freeIndex := (s.failRequest_keeps r rest target).2.2.2.2.2.2.2.2.2.1
@[simp] theorem State.failRequest_pending (s : State) (r : Request) (rest : List Request) (target : Nat) : (s.failRequest r rest target).pending = s.pending := (s.failRequest_keeps r rest target).2.2.2.2.2.2.2.2.2.2

theorem State.disposeRequest_keeps (s : State) (cause : AbortCause) (r : Request) (rest : List Request) (target : Nat) :
    (s.disposeRequest cause r rest target).mode = s.mode ∧ (s.disposeRequest cause r rest target).settings = s.settings
    ∧ (s.disposeRequest cause r rest target).remap = s.remap ∧ (s.disposeRequest cause r rest target).injection =
    s.injection ∧ (s.disposeRequest cause r rest target).upstream = s.upstream ∧ (s.disposeRequest cause r rest
    target).port = s.port ∧ (s.disposeRequest cause r rest target).writeBack = s.writeBack ∧ (s.disposeRequest cause r
    rest target).scrubber = s.scrubber ∧ (s.disposeRequest cause r rest target).management = s.management ∧
    (s.disposeRequest cause r rest target).freeIndex = s.freeIndex ∧ (s.disposeRequest cause r rest target).pending =
    s.pending := by
  unfold State.disposeRequest
  (repeat' split) <;> simp
@[simp] theorem State.disposeRequest_mode (s : State) (cause : AbortCause) (r : Request) (rest : List Request) (target : Nat) : (s.disposeRequest cause r rest target).mode = s.mode := (s.disposeRequest_keeps cause r rest target).1
@[simp] theorem State.disposeRequest_settings (s : State) (cause : AbortCause) (r : Request) (rest : List Request) (target : Nat) : (s.disposeRequest cause r rest target).settings = s.settings := (s.disposeRequest_keeps cause r rest target).2.1
@[simp] theorem State.disposeRequest_remap (s : State) (cause : AbortCause) (r : Request) (rest : List Request) (target : Nat) : (s.disposeRequest cause r rest target).remap = s.remap := (s.disposeRequest_keeps cause r rest target).2.2.1
@[simp] theorem State.disposeRequest_injection (s : State) (cause : AbortCause) (r : Request) (rest : List Request) (target : Nat) : (s.disposeRequest cause r rest target).injection = s.injection := (s.disposeRequest_keeps cause r rest target).2.2.2.1
@[simp] theorem State.disposeRequest_upstream (s : State) (cause : AbortCause) (r : Request) (rest : List Request) (target : Nat) : (s.disposeRequest cause r rest target).upstream = s.upstream := (s.disposeRequest_keeps cause r rest target).2.2.2.2.1
@[simp] theorem State.disposeRequest_port (s : State) (cause : AbortCause) (r : Request) (rest : List Request) (target : Nat) : (s.disposeRequest cause r rest target).port = s.port := (s.disposeRequest_keeps cause r rest target).2.2.2.2.2.1
@[simp] theorem State.disposeRequest_writeBack (s : State) (cause : AbortCause) (r : Request) (rest : List Request) (target : Nat) : (s.disposeRequest cause r rest target).writeBack = s.writeBack := (s.disposeRequest_keeps cause r rest target).2.2.2.2.2.2.1
@[simp] theorem State.disposeRequest_scrubber (s : State) (cause : AbortCause) (r : Request) (rest : List Request) (target : Nat) : (s.disposeRequest cause r rest target).scrubber = s.scrubber := (s.disposeRequest_keeps cause r rest target).2.2.2.2.2.2.2.1
@[simp] theorem State.disposeRequest_management (s : State) (cause : AbortCause) (r : Request) (rest : List Request) (target : Nat) : (s.disposeRequest cause r rest target).management = s.management := (s.disposeRequest_keeps cause r rest target).2.2.2.2.2.2.2.2.1
@[simp] theorem State.disposeRequest_freeIndex (s : State) (cause : AbortCause) (r : Request) (rest : List Request) (target : Nat) : (s.disposeRequest cause r rest target).freeIndex = s.freeIndex := (s.disposeRequest_keeps cause r rest target).2.2.2.2.2.2.2.2.2.1
@[simp] theorem State.disposeRequest_pending (s : State) (cause : AbortCause) (r : Request) (rest : List Request) (target : Nat) : (s.disposeRequest cause r rest target).pending = s.pending := (s.disposeRequest_keeps cause r rest target).2.2.2.2.2.2.2.2.2.2

theorem State.abortMigration_keeps (s : State) (cause : AbortCause) :
    (s.abortMigration cause).mode = s.mode ∧ (s.abortMigration cause).settings = s.settings ∧ (s.abortMigration
    cause).injection = s.injection ∧ (s.abortMigration cause).writeBack = s.writeBack ∧ (s.abortMigration
    cause).scrubber = s.scrubber ∧ (s.abortMigration cause).management = s.management ∧ (s.abortMigration
    cause).freeIndex = s.freeIndex ∧ (s.abortMigration cause).pending = s.pending := by
  unfold State.abortMigration
  (repeat' split) <;> simp
@[simp] theorem State.abortMigration_mode (s : State) (cause : AbortCause) : (s.abortMigration cause).mode = s.mode := (s.abortMigration_keeps cause).1
@[simp] theorem State.abortMigration_settings (s : State) (cause : AbortCause) : (s.abortMigration cause).settings = s.settings := (s.abortMigration_keeps cause).2.1
@[simp] theorem State.abortMigration_injection (s : State) (cause : AbortCause) : (s.abortMigration cause).injection = s.injection := (s.abortMigration_keeps cause).2.2.1
@[simp] theorem State.abortMigration_writeBack (s : State) (cause : AbortCause) : (s.abortMigration cause).writeBack = s.writeBack := (s.abortMigration_keeps cause).2.2.2.1
@[simp] theorem State.abortMigration_scrubber (s : State) (cause : AbortCause) : (s.abortMigration cause).scrubber = s.scrubber := (s.abortMigration_keeps cause).2.2.2.2.1
@[simp] theorem State.abortMigration_management (s : State) (cause : AbortCause) : (s.abortMigration cause).management = s.management := (s.abortMigration_keeps cause).2.2.2.2.2.1
@[simp] theorem State.abortMigration_freeIndex (s : State) (cause : AbortCause) : (s.abortMigration cause).freeIndex = s.freeIndex := (s.abortMigration_keeps cause).2.2.2.2.2.2.1
@[simp] theorem State.abortMigration_pending (s : State) (cause : AbortCause) : (s.abortMigration cause).pending = s.pending := (s.abortMigration_keeps cause).2.2.2.2.2.2.2

theorem State.stopEngine_keeps (s : State) (cause : AbortCause) :
    (s.stopEngine cause).mode = s.mode ∧ (s.stopEngine cause).settings = s.settings ∧ (s.stopEngine cause).injection =
    s.injection ∧ (s.stopEngine cause).writeBack = s.writeBack ∧ (s.stopEngine cause).scrubber = s.scrubber ∧
    (s.stopEngine cause).management = s.management ∧ (s.stopEngine cause).freeIndex = s.freeIndex ∧ (s.stopEngine
    cause).pending = s.pending := by
  unfold State.stopEngine
  (repeat' split) <;> simp
@[simp] theorem State.stopEngine_mode (s : State) (cause : AbortCause) : (s.stopEngine cause).mode = s.mode := (s.stopEngine_keeps cause).1
@[simp] theorem State.stopEngine_settings (s : State) (cause : AbortCause) : (s.stopEngine cause).settings = s.settings := (s.stopEngine_keeps cause).2.1
@[simp] theorem State.stopEngine_injection (s : State) (cause : AbortCause) : (s.stopEngine cause).injection = s.injection := (s.stopEngine_keeps cause).2.2.1
@[simp] theorem State.stopEngine_writeBack (s : State) (cause : AbortCause) : (s.stopEngine cause).writeBack = s.writeBack := (s.stopEngine_keeps cause).2.2.2.1
@[simp] theorem State.stopEngine_scrubber (s : State) (cause : AbortCause) : (s.stopEngine cause).scrubber = s.scrubber := (s.stopEngine_keeps cause).2.2.2.2.1
@[simp] theorem State.stopEngine_management (s : State) (cause : AbortCause) : (s.stopEngine cause).management = s.management := (s.stopEngine_keeps cause).2.2.2.2.2.1
@[simp] theorem State.stopEngine_freeIndex (s : State) (cause : AbortCause) : (s.stopEngine cause).freeIndex = s.freeIndex := (s.stopEngine_keeps cause).2.2.2.2.2.2.1
@[simp] theorem State.stopEngine_pending (s : State) (cause : AbortCause) : (s.stopEngine cause).pending = s.pending := (s.stopEngine_keeps cause).2.2.2.2.2.2.2

theorem State.enterStore_keeps (s : State) (a start : Nat) (fetched : List StoredWord) (words : List WriteWord) :
    (s.enterStore a start fetched words).mode = s.mode ∧ (s.enterStore a start fetched words).settings = s.settings ∧
    (s.enterStore a start fetched words).remap = s.remap ∧ (s.enterStore a start fetched words).migration = s.migration
    ∧ (s.enterStore a start fetched words).watch = s.watch ∧ (s.enterStore a start fetched words).injection =
    s.injection ∧ (s.enterStore a start fetched words).port = s.port ∧ (s.enterStore a start fetched words).writeBack =
    s.writeBack ∧ (s.enterStore a start fetched words).scrubber = s.scrubber ∧ (s.enterStore a start fetched
    words).records = s.records ∧ (s.enterStore a start fetched words).management = s.management ∧ (s.enterStore a start
    fetched words).freeIndex = s.freeIndex ∧ (s.enterStore a start fetched words).pending = s.pending := by
  simp [State.enterStore]
@[simp] theorem State.enterStore_mode (s : State) (a start : Nat) (fetched : List StoredWord) (words : List WriteWord) : (s.enterStore a start fetched words).mode = s.mode := (s.enterStore_keeps a start fetched words).1
@[simp] theorem State.enterStore_settings (s : State) (a start : Nat) (fetched : List StoredWord) (words : List WriteWord) : (s.enterStore a start fetched words).settings = s.settings := (s.enterStore_keeps a start fetched words).2.1
@[simp] theorem State.enterStore_remap (s : State) (a start : Nat) (fetched : List StoredWord) (words : List WriteWord) : (s.enterStore a start fetched words).remap = s.remap := (s.enterStore_keeps a start fetched words).2.2.1
@[simp] theorem State.enterStore_migration (s : State) (a start : Nat) (fetched : List StoredWord) (words : List WriteWord) : (s.enterStore a start fetched words).migration = s.migration := (s.enterStore_keeps a start fetched words).2.2.2.1
@[simp] theorem State.enterStore_watch (s : State) (a start : Nat) (fetched : List StoredWord) (words : List WriteWord) : (s.enterStore a start fetched words).watch = s.watch := (s.enterStore_keeps a start fetched words).2.2.2.2.1
@[simp] theorem State.enterStore_injection (s : State) (a start : Nat) (fetched : List StoredWord) (words : List WriteWord) : (s.enterStore a start fetched words).injection = s.injection := (s.enterStore_keeps a start fetched words).2.2.2.2.2.1
@[simp] theorem State.enterStore_port (s : State) (a start : Nat) (fetched : List StoredWord) (words : List WriteWord) : (s.enterStore a start fetched words).port = s.port := (s.enterStore_keeps a start fetched words).2.2.2.2.2.2.1
@[simp] theorem State.enterStore_writeBack (s : State) (a start : Nat) (fetched : List StoredWord) (words : List WriteWord) : (s.enterStore a start fetched words).writeBack = s.writeBack := (s.enterStore_keeps a start fetched words).2.2.2.2.2.2.2.1
@[simp] theorem State.enterStore_scrubber (s : State) (a start : Nat) (fetched : List StoredWord) (words : List WriteWord) : (s.enterStore a start fetched words).scrubber = s.scrubber := (s.enterStore_keeps a start fetched words).2.2.2.2.2.2.2.2.1
@[simp] theorem State.enterStore_records (s : State) (a start : Nat) (fetched : List StoredWord) (words : List WriteWord) : (s.enterStore a start fetched words).records = s.records := (s.enterStore_keeps a start fetched words).2.2.2.2.2.2.2.2.2.1
@[simp] theorem State.enterStore_management (s : State) (a start : Nat) (fetched : List StoredWord) (words : List WriteWord) : (s.enterStore a start fetched words).management = s.management := (s.enterStore_keeps a start fetched words).2.2.2.2.2.2.2.2.2.2.1
@[simp] theorem State.enterStore_freeIndex (s : State) (a start : Nat) (fetched : List StoredWord) (words : List WriteWord) : (s.enterStore a start fetched words).freeIndex = s.freeIndex := (s.enterStore_keeps a start fetched words).2.2.2.2.2.2.2.2.2.2.2.1
@[simp] theorem State.enterStore_pending (s : State) (a start : Nat) (fetched : List StoredWord) (words : List WriteWord) : (s.enterStore a start fetched words).pending = s.pending := (s.enterStore_keeps a start fetched words).2.2.2.2.2.2.2.2.2.2.2.2

theorem State.beginServed_keeps (s : State) (t : Transaction) :
    (s.beginServed t).mode = s.mode ∧ (s.beginServed t).settings = s.settings ∧ (s.beginServed t).remap = s.remap ∧
    (s.beginServed t).migration = s.migration ∧ (s.beginServed t).watch = s.watch ∧ (s.beginServed t).injection =
    s.injection ∧ (s.beginServed t).port = s.port ∧ (s.beginServed t).writeBack = s.writeBack ∧ (s.beginServed
    t).scrubber = s.scrubber ∧ (s.beginServed t).records = s.records ∧ (s.beginServed t).management = s.management ∧
    (s.beginServed t).freeIndex = s.freeIndex ∧ (s.beginServed t).pending = s.pending := by
  unfold State.beginServed
  (repeat' split) <;> simp
@[simp] theorem State.beginServed_mode (s : State) (t : Transaction) : (s.beginServed t).mode = s.mode := (s.beginServed_keeps t).1
@[simp] theorem State.beginServed_settings (s : State) (t : Transaction) : (s.beginServed t).settings = s.settings := (s.beginServed_keeps t).2.1
@[simp] theorem State.beginServed_remap (s : State) (t : Transaction) : (s.beginServed t).remap = s.remap := (s.beginServed_keeps t).2.2.1
@[simp] theorem State.beginServed_migration (s : State) (t : Transaction) : (s.beginServed t).migration = s.migration := (s.beginServed_keeps t).2.2.2.1
@[simp] theorem State.beginServed_watch (s : State) (t : Transaction) : (s.beginServed t).watch = s.watch := (s.beginServed_keeps t).2.2.2.2.1
@[simp] theorem State.beginServed_injection (s : State) (t : Transaction) : (s.beginServed t).injection = s.injection := (s.beginServed_keeps t).2.2.2.2.2.1
@[simp] theorem State.beginServed_port (s : State) (t : Transaction) : (s.beginServed t).port = s.port := (s.beginServed_keeps t).2.2.2.2.2.2.1
@[simp] theorem State.beginServed_writeBack (s : State) (t : Transaction) : (s.beginServed t).writeBack = s.writeBack := (s.beginServed_keeps t).2.2.2.2.2.2.2.1
@[simp] theorem State.beginServed_scrubber (s : State) (t : Transaction) : (s.beginServed t).scrubber = s.scrubber := (s.beginServed_keeps t).2.2.2.2.2.2.2.2.1
@[simp] theorem State.beginServed_records (s : State) (t : Transaction) : (s.beginServed t).records = s.records := (s.beginServed_keeps t).2.2.2.2.2.2.2.2.2.1
@[simp] theorem State.beginServed_management (s : State) (t : Transaction) : (s.beginServed t).management = s.management := (s.beginServed_keeps t).2.2.2.2.2.2.2.2.2.2.1
@[simp] theorem State.beginServed_freeIndex (s : State) (t : Transaction) : (s.beginServed t).freeIndex = s.freeIndex := (s.beginServed_keeps t).2.2.2.2.2.2.2.2.2.2.2.1
@[simp] theorem State.beginServed_pending (s : State) (t : Transaction) : (s.beginServed t).pending = s.pending := (s.beginServed_keeps t).2.2.2.2.2.2.2.2.2.2.2.2

theorem State.beginHead_keeps (s : State) :
    (s.beginHead).mode = s.mode ∧ (s.beginHead).settings = s.settings ∧ (s.beginHead).remap = s.remap ∧
    (s.beginHead).migration = s.migration ∧ (s.beginHead).watch = s.watch ∧ (s.beginHead).injection = s.injection ∧
    (s.beginHead).port = s.port ∧ (s.beginHead).writeBack = s.writeBack ∧ (s.beginHead).scrubber = s.scrubber ∧
    (s.beginHead).records = s.records ∧ (s.beginHead).management = s.management ∧ (s.beginHead).freeIndex = s.freeIndex
    ∧ (s.beginHead).pending = s.pending := by
  unfold State.beginHead
  (repeat' split) <;> simp
@[simp] theorem State.beginHead_mode (s : State) : (s.beginHead).mode = s.mode := s.beginHead_keeps.1
@[simp] theorem State.beginHead_settings (s : State) : (s.beginHead).settings = s.settings := s.beginHead_keeps.2.1
@[simp] theorem State.beginHead_remap (s : State) : (s.beginHead).remap = s.remap := s.beginHead_keeps.2.2.1
@[simp] theorem State.beginHead_migration (s : State) : (s.beginHead).migration = s.migration := s.beginHead_keeps.2.2.2.1
@[simp] theorem State.beginHead_watch (s : State) : (s.beginHead).watch = s.watch := s.beginHead_keeps.2.2.2.2.1
@[simp] theorem State.beginHead_injection (s : State) : (s.beginHead).injection = s.injection := s.beginHead_keeps.2.2.2.2.2.1
@[simp] theorem State.beginHead_port (s : State) : (s.beginHead).port = s.port := s.beginHead_keeps.2.2.2.2.2.2.1
@[simp] theorem State.beginHead_writeBack (s : State) : (s.beginHead).writeBack = s.writeBack := s.beginHead_keeps.2.2.2.2.2.2.2.1
@[simp] theorem State.beginHead_scrubber (s : State) : (s.beginHead).scrubber = s.scrubber := s.beginHead_keeps.2.2.2.2.2.2.2.2.1
@[simp] theorem State.beginHead_records (s : State) : (s.beginHead).records = s.records := s.beginHead_keeps.2.2.2.2.2.2.2.2.2.1
@[simp] theorem State.beginHead_management (s : State) : (s.beginHead).management = s.management := s.beginHead_keeps.2.2.2.2.2.2.2.2.2.2.1
@[simp] theorem State.beginHead_freeIndex (s : State) : (s.beginHead).freeIndex = s.freeIndex := s.beginHead_keeps.2.2.2.2.2.2.2.2.2.2.2.1
@[simp] theorem State.beginHead_pending (s : State) : (s.beginHead).pending = s.pending := s.beginHead_keeps.2.2.2.2.2.2.2.2.2.2.2.2

theorem State.failRun_keeps (s : State) (t : Transaction) (work : StoreWork) :
    (s.failRun t work).mode = s.mode ∧ (s.failRun t work).settings = s.settings ∧ (s.failRun t work).remap = s.remap ∧
    (s.failRun t work).migration = s.migration ∧ (s.failRun t work).watch = s.watch ∧ (s.failRun t work).injection =
    s.injection ∧ (s.failRun t work).port = s.port ∧ (s.failRun t work).writeBack = s.writeBack ∧ (s.failRun t
    work).scrubber = s.scrubber ∧ (s.failRun t work).records = s.records ∧ (s.failRun t work).management = s.management
    ∧ (s.failRun t work).freeIndex = s.freeIndex ∧ (s.failRun t work).pending = s.pending := by
  simp [State.failRun]
@[simp] theorem State.failRun_mode (s : State) (t : Transaction) (work : StoreWork) : (s.failRun t work).mode = s.mode := (s.failRun_keeps t work).1
@[simp] theorem State.failRun_settings (s : State) (t : Transaction) (work : StoreWork) : (s.failRun t work).settings = s.settings := (s.failRun_keeps t work).2.1
@[simp] theorem State.failRun_remap (s : State) (t : Transaction) (work : StoreWork) : (s.failRun t work).remap = s.remap := (s.failRun_keeps t work).2.2.1
@[simp] theorem State.failRun_migration (s : State) (t : Transaction) (work : StoreWork) : (s.failRun t work).migration = s.migration := (s.failRun_keeps t work).2.2.2.1
@[simp] theorem State.failRun_watch (s : State) (t : Transaction) (work : StoreWork) : (s.failRun t work).watch = s.watch := (s.failRun_keeps t work).2.2.2.2.1
@[simp] theorem State.failRun_injection (s : State) (t : Transaction) (work : StoreWork) : (s.failRun t work).injection = s.injection := (s.failRun_keeps t work).2.2.2.2.2.1
@[simp] theorem State.failRun_port (s : State) (t : Transaction) (work : StoreWork) : (s.failRun t work).port = s.port := (s.failRun_keeps t work).2.2.2.2.2.2.1
@[simp] theorem State.failRun_writeBack (s : State) (t : Transaction) (work : StoreWork) : (s.failRun t work).writeBack = s.writeBack := (s.failRun_keeps t work).2.2.2.2.2.2.2.1
@[simp] theorem State.failRun_scrubber (s : State) (t : Transaction) (work : StoreWork) : (s.failRun t work).scrubber = s.scrubber := (s.failRun_keeps t work).2.2.2.2.2.2.2.2.1
@[simp] theorem State.failRun_records (s : State) (t : Transaction) (work : StoreWork) : (s.failRun t work).records = s.records := (s.failRun_keeps t work).2.2.2.2.2.2.2.2.2.1
@[simp] theorem State.failRun_management (s : State) (t : Transaction) (work : StoreWork) : (s.failRun t work).management = s.management := (s.failRun_keeps t work).2.2.2.2.2.2.2.2.2.2.1
@[simp] theorem State.failRun_freeIndex (s : State) (t : Transaction) (work : StoreWork) : (s.failRun t work).freeIndex = s.freeIndex := (s.failRun_keeps t work).2.2.2.2.2.2.2.2.2.2.2.1
@[simp] theorem State.failRun_pending (s : State) (t : Transaction) (work : StoreWork) : (s.failRun t work).pending = s.pending := (s.failRun_keeps t work).2.2.2.2.2.2.2.2.2.2.2.2

theorem State.finishRun_keeps (s : State) (work : StoreWork) :
    (s.finishRun work).mode = s.mode ∧ (s.finishRun work).settings = s.settings ∧ (s.finishRun work).remap = s.remap ∧
    (s.finishRun work).migration = s.migration ∧ (s.finishRun work).watch = s.watch ∧ (s.finishRun work).injection =
    s.injection ∧ (s.finishRun work).port = s.port ∧ (s.finishRun work).writeBack = s.writeBack ∧ (s.finishRun
    work).scrubber = s.scrubber ∧ (s.finishRun work).records = s.records ∧ (s.finishRun work).management = s.management
    ∧ (s.finishRun work).freeIndex = s.freeIndex ∧ (s.finishRun work).pending = s.pending := by
  unfold State.finishRun
  (repeat' split) <;> simp
@[simp] theorem State.finishRun_mode (s : State) (work : StoreWork) : (s.finishRun work).mode = s.mode := (s.finishRun_keeps work).1
@[simp] theorem State.finishRun_settings (s : State) (work : StoreWork) : (s.finishRun work).settings = s.settings := (s.finishRun_keeps work).2.1
@[simp] theorem State.finishRun_remap (s : State) (work : StoreWork) : (s.finishRun work).remap = s.remap := (s.finishRun_keeps work).2.2.1
@[simp] theorem State.finishRun_migration (s : State) (work : StoreWork) : (s.finishRun work).migration = s.migration := (s.finishRun_keeps work).2.2.2.1
@[simp] theorem State.finishRun_watch (s : State) (work : StoreWork) : (s.finishRun work).watch = s.watch := (s.finishRun_keeps work).2.2.2.2.1
@[simp] theorem State.finishRun_injection (s : State) (work : StoreWork) : (s.finishRun work).injection = s.injection := (s.finishRun_keeps work).2.2.2.2.2.1
@[simp] theorem State.finishRun_port (s : State) (work : StoreWork) : (s.finishRun work).port = s.port := (s.finishRun_keeps work).2.2.2.2.2.2.1
@[simp] theorem State.finishRun_writeBack (s : State) (work : StoreWork) : (s.finishRun work).writeBack = s.writeBack := (s.finishRun_keeps work).2.2.2.2.2.2.2.1
@[simp] theorem State.finishRun_scrubber (s : State) (work : StoreWork) : (s.finishRun work).scrubber = s.scrubber := (s.finishRun_keeps work).2.2.2.2.2.2.2.2.1
@[simp] theorem State.finishRun_records (s : State) (work : StoreWork) : (s.finishRun work).records = s.records := (s.finishRun_keeps work).2.2.2.2.2.2.2.2.2.1
@[simp] theorem State.finishRun_management (s : State) (work : StoreWork) : (s.finishRun work).management = s.management := (s.finishRun_keeps work).2.2.2.2.2.2.2.2.2.2.1
@[simp] theorem State.finishRun_freeIndex (s : State) (work : StoreWork) : (s.finishRun work).freeIndex = s.freeIndex := (s.finishRun_keeps work).2.2.2.2.2.2.2.2.2.2.2.1
@[simp] theorem State.finishRun_pending (s : State) (work : StoreWork) : (s.finishRun work).pending = s.pending := (s.finishRun_keeps work).2.2.2.2.2.2.2.2.2.2.2.2

theorem State.takeWord_keeps (s : State) (use : ReadUse) (word : Nat) (w : StoredWord) (f : Bool) :
    ((s.takeWord use word w f).1).mode = s.mode ∧ ((s.takeWord use word w f).1).settings = s.settings ∧ ((s.takeWord use
    word w f).1).injection = s.injection ∧ ((s.takeWord use word w f).1).upstream = s.upstream ∧ ((s.takeWord use word w
    f).1).port = s.port ∧ ((s.takeWord use word w f).1).scrubber = s.scrubber ∧ ((s.takeWord use word w f).1).management
    = s.management ∧ ((s.takeWord use word w f).1).freeIndex = s.freeIndex ∧ ((s.takeWord use word w f).1).pending =
    s.pending := by
  unfold State.takeWord
  (repeat' split) <;> simp
@[simp] theorem State.takeWord_mode (s : State) (use : ReadUse) (word : Nat) (w : StoredWord) (f : Bool) : ((s.takeWord use word w f).1).mode = s.mode := (s.takeWord_keeps use word w f).1
@[simp] theorem State.takeWord_settings (s : State) (use : ReadUse) (word : Nat) (w : StoredWord) (f : Bool) : ((s.takeWord use word w f).1).settings = s.settings := (s.takeWord_keeps use word w f).2.1
@[simp] theorem State.takeWord_injection (s : State) (use : ReadUse) (word : Nat) (w : StoredWord) (f : Bool) : ((s.takeWord use word w f).1).injection = s.injection := (s.takeWord_keeps use word w f).2.2.1
@[simp] theorem State.takeWord_upstream (s : State) (use : ReadUse) (word : Nat) (w : StoredWord) (f : Bool) : ((s.takeWord use word w f).1).upstream = s.upstream := (s.takeWord_keeps use word w f).2.2.2.1
@[simp] theorem State.takeWord_port (s : State) (use : ReadUse) (word : Nat) (w : StoredWord) (f : Bool) : ((s.takeWord use word w f).1).port = s.port := (s.takeWord_keeps use word w f).2.2.2.2.1
@[simp] theorem State.takeWord_scrubber (s : State) (use : ReadUse) (word : Nat) (w : StoredWord) (f : Bool) : ((s.takeWord use word w f).1).scrubber = s.scrubber := (s.takeWord_keeps use word w f).2.2.2.2.2.1
@[simp] theorem State.takeWord_management (s : State) (use : ReadUse) (word : Nat) (w : StoredWord) (f : Bool) : ((s.takeWord use word w f).1).management = s.management := (s.takeWord_keeps use word w f).2.2.2.2.2.2.1
@[simp] theorem State.takeWord_freeIndex (s : State) (use : ReadUse) (word : Nat) (w : StoredWord) (f : Bool) : ((s.takeWord use word w f).1).freeIndex = s.freeIndex := (s.takeWord_keeps use word w f).2.2.2.2.2.2.2.1
@[simp] theorem State.takeWord_pending (s : State) (use : ReadUse) (word : Nat) (w : StoredWord) (f : Bool) : ((s.takeWord use word w f).1).pending = s.pending := (s.takeWord_keeps use word w f).2.2.2.2.2.2.2.2

theorem State.takeWords_keeps (s : State) (use : ReadUse) (word : Nat) (ws : List StoredWord) (f : Bool) :
    (s.takeWords use word ws f).mode = s.mode ∧ (s.takeWords use word ws f).settings = s.settings ∧ (s.takeWords use
    word ws f).injection = s.injection ∧ (s.takeWords use word ws f).upstream = s.upstream ∧ (s.takeWords use word ws
    f).port = s.port ∧ (s.takeWords use word ws f).scrubber = s.scrubber ∧ (s.takeWords use word ws f).management =
    s.management ∧ (s.takeWords use word ws f).freeIndex = s.freeIndex ∧ (s.takeWords use word ws f).pending = s.pending := by
  induction ws generalizing s word f with
  | nil => simp [State.takeWords]
  | cons w ws ih => simp [State.takeWords, ih]
@[simp] theorem State.takeWords_mode (s : State) (use : ReadUse) (word : Nat) (ws : List StoredWord) (f : Bool) : (s.takeWords use word ws f).mode = s.mode := (s.takeWords_keeps use word ws f).1
@[simp] theorem State.takeWords_settings (s : State) (use : ReadUse) (word : Nat) (ws : List StoredWord) (f : Bool) : (s.takeWords use word ws f).settings = s.settings := (s.takeWords_keeps use word ws f).2.1
@[simp] theorem State.takeWords_injection (s : State) (use : ReadUse) (word : Nat) (ws : List StoredWord) (f : Bool) : (s.takeWords use word ws f).injection = s.injection := (s.takeWords_keeps use word ws f).2.2.1
@[simp] theorem State.takeWords_upstream (s : State) (use : ReadUse) (word : Nat) (ws : List StoredWord) (f : Bool) : (s.takeWords use word ws f).upstream = s.upstream := (s.takeWords_keeps use word ws f).2.2.2.1
@[simp] theorem State.takeWords_port (s : State) (use : ReadUse) (word : Nat) (ws : List StoredWord) (f : Bool) : (s.takeWords use word ws f).port = s.port := (s.takeWords_keeps use word ws f).2.2.2.2.1
@[simp] theorem State.takeWords_scrubber (s : State) (use : ReadUse) (word : Nat) (ws : List StoredWord) (f : Bool) : (s.takeWords use word ws f).scrubber = s.scrubber := (s.takeWords_keeps use word ws f).2.2.2.2.2.1
@[simp] theorem State.takeWords_management (s : State) (use : ReadUse) (word : Nat) (ws : List StoredWord) (f : Bool) : (s.takeWords use word ws f).management = s.management := (s.takeWords_keeps use word ws f).2.2.2.2.2.2.1
@[simp] theorem State.takeWords_freeIndex (s : State) (use : ReadUse) (word : Nat) (ws : List StoredWord) (f : Bool) : (s.takeWords use word ws f).freeIndex = s.freeIndex := (s.takeWords_keeps use word ws f).2.2.2.2.2.2.2.1
@[simp] theorem State.takeWords_pending (s : State) (use : ReadUse) (word : Nat) (ws : List StoredWord) (f : Bool) : (s.takeWords use word ws f).pending = s.pending := (s.takeWords_keeps use word ws f).2.2.2.2.2.2.2.2

theorem State.endFetch_keeps (s : State) (a block : Nat) (e : Ending) :
    (s.endFetch a block e).mode = s.mode ∧ (s.endFetch a block e).settings = s.settings ∧ (s.endFetch a block
    e).injection = s.injection ∧ (s.endFetch a block e).port = s.port ∧ (s.endFetch a block e).scrubber = s.scrubber ∧
    (s.endFetch a block e).management = s.management ∧ (s.endFetch a block e).freeIndex = s.freeIndex ∧ (s.endFetch a
    block e).pending = s.pending := by
  unfold State.endFetch
  (repeat' split) <;> simp
@[simp] theorem State.endFetch_mode (s : State) (a block : Nat) (e : Ending) : (s.endFetch a block e).mode = s.mode := (s.endFetch_keeps a block e).1
@[simp] theorem State.endFetch_settings (s : State) (a block : Nat) (e : Ending) : (s.endFetch a block e).settings = s.settings := (s.endFetch_keeps a block e).2.1
@[simp] theorem State.endFetch_injection (s : State) (a block : Nat) (e : Ending) : (s.endFetch a block e).injection = s.injection := (s.endFetch_keeps a block e).2.2.1
@[simp] theorem State.endFetch_port (s : State) (a block : Nat) (e : Ending) : (s.endFetch a block e).port = s.port := (s.endFetch_keeps a block e).2.2.2.1
@[simp] theorem State.endFetch_scrubber (s : State) (a block : Nat) (e : Ending) : (s.endFetch a block e).scrubber = s.scrubber := (s.endFetch_keeps a block e).2.2.2.2.1
@[simp] theorem State.endFetch_management (s : State) (a block : Nat) (e : Ending) : (s.endFetch a block e).management = s.management := (s.endFetch_keeps a block e).2.2.2.2.2.1
@[simp] theorem State.endFetch_freeIndex (s : State) (a block : Nat) (e : Ending) : (s.endFetch a block e).freeIndex = s.freeIndex := (s.endFetch_keeps a block e).2.2.2.2.2.2.1
@[simp] theorem State.endFetch_pending (s : State) (a block : Nat) (e : Ending) : (s.endFetch a block e).pending = s.pending := (s.endFetch_keeps a block e).2.2.2.2.2.2.2

theorem State.endMergeRead_keeps (s : State) (a block : Nat) (list : List WriteWord) (e : Ending) :
    (s.endMergeRead a block list e).mode = s.mode ∧ (s.endMergeRead a block list e).settings = s.settings ∧
    (s.endMergeRead a block list e).injection = s.injection ∧ (s.endMergeRead a block list e).port = s.port ∧
    (s.endMergeRead a block list e).scrubber = s.scrubber ∧ (s.endMergeRead a block list e).management = s.management ∧
    (s.endMergeRead a block list e).freeIndex = s.freeIndex ∧ (s.endMergeRead a block list e).pending = s.pending := by
  unfold State.endMergeRead
  (repeat' split) <;> simp
@[simp] theorem State.endMergeRead_mode (s : State) (a block : Nat) (list : List WriteWord) (e : Ending) : (s.endMergeRead a block list e).mode = s.mode := (s.endMergeRead_keeps a block list e).1
@[simp] theorem State.endMergeRead_settings (s : State) (a block : Nat) (list : List WriteWord) (e : Ending) : (s.endMergeRead a block list e).settings = s.settings := (s.endMergeRead_keeps a block list e).2.1
@[simp] theorem State.endMergeRead_injection (s : State) (a block : Nat) (list : List WriteWord) (e : Ending) : (s.endMergeRead a block list e).injection = s.injection := (s.endMergeRead_keeps a block list e).2.2.1
@[simp] theorem State.endMergeRead_port (s : State) (a block : Nat) (list : List WriteWord) (e : Ending) : (s.endMergeRead a block list e).port = s.port := (s.endMergeRead_keeps a block list e).2.2.2.1
@[simp] theorem State.endMergeRead_scrubber (s : State) (a block : Nat) (list : List WriteWord) (e : Ending) : (s.endMergeRead a block list e).scrubber = s.scrubber := (s.endMergeRead_keeps a block list e).2.2.2.2.1
@[simp] theorem State.endMergeRead_management (s : State) (a block : Nat) (list : List WriteWord) (e : Ending) : (s.endMergeRead a block list e).management = s.management := (s.endMergeRead_keeps a block list e).2.2.2.2.2.1
@[simp] theorem State.endMergeRead_freeIndex (s : State) (a block : Nat) (list : List WriteWord) (e : Ending) : (s.endMergeRead a block list e).freeIndex = s.freeIndex := (s.endMergeRead_keeps a block list e).2.2.2.2.2.2.1
@[simp] theorem State.endMergeRead_pending (s : State) (a block : Nat) (list : List WriteWord) (e : Ending) : (s.endMergeRead a block list e).pending = s.pending := (s.endMergeRead_keeps a block list e).2.2.2.2.2.2.2

theorem State.endSpareStore_keeps (s : State) (t : Transaction) (work : StoreWork) (d : DualWrite) (e : Ending) :
    (s.endSpareStore t work d e).mode = s.mode ∧ (s.endSpareStore t work d e).settings = s.settings ∧ (s.endSpareStore t
    work d e).injection = s.injection ∧ (s.endSpareStore t work d e).writeBack = s.writeBack ∧ (s.endSpareStore t work d
    e).scrubber = s.scrubber ∧ (s.endSpareStore t work d e).management = s.management ∧ (s.endSpareStore t work d
    e).freeIndex = s.freeIndex ∧ (s.endSpareStore t work d e).pending = s.pending := by
  unfold State.endSpareStore
  (repeat' split) <;> simp
@[simp] theorem State.endSpareStore_mode (s : State) (t : Transaction) (work : StoreWork) (d : DualWrite) (e : Ending) : (s.endSpareStore t work d e).mode = s.mode := (s.endSpareStore_keeps t work d e).1
@[simp] theorem State.endSpareStore_settings (s : State) (t : Transaction) (work : StoreWork) (d : DualWrite) (e : Ending) : (s.endSpareStore t work d e).settings = s.settings := (s.endSpareStore_keeps t work d e).2.1
@[simp] theorem State.endSpareStore_injection (s : State) (t : Transaction) (work : StoreWork) (d : DualWrite) (e : Ending) : (s.endSpareStore t work d e).injection = s.injection := (s.endSpareStore_keeps t work d e).2.2.1
@[simp] theorem State.endSpareStore_writeBack (s : State) (t : Transaction) (work : StoreWork) (d : DualWrite) (e : Ending) : (s.endSpareStore t work d e).writeBack = s.writeBack := (s.endSpareStore_keeps t work d e).2.2.2.1
@[simp] theorem State.endSpareStore_scrubber (s : State) (t : Transaction) (work : StoreWork) (d : DualWrite) (e : Ending) : (s.endSpareStore t work d e).scrubber = s.scrubber := (s.endSpareStore_keeps t work d e).2.2.2.2.1
@[simp] theorem State.endSpareStore_management (s : State) (t : Transaction) (work : StoreWork) (d : DualWrite) (e : Ending) : (s.endSpareStore t work d e).management = s.management := (s.endSpareStore_keeps t work d e).2.2.2.2.2.1
@[simp] theorem State.endSpareStore_freeIndex (s : State) (t : Transaction) (work : StoreWork) (d : DualWrite) (e : Ending) : (s.endSpareStore t work d e).freeIndex = s.freeIndex := (s.endSpareStore_keeps t work d e).2.2.2.2.2.2.1
@[simp] theorem State.endSpareStore_pending (s : State) (t : Transaction) (work : StoreWork) (d : DualWrite) (e : Ending) : (s.endSpareStore t work d e).pending = s.pending := (s.endSpareStore_keeps t work d e).2.2.2.2.2.2.2

theorem State.endStore_keeps (s : State) (t : Transaction) (work : StoreWork) (spare : Bool) (e : Ending) :
    (s.endStore t work spare e).mode = s.mode ∧ (s.endStore t work spare e).settings = s.settings ∧ (s.endStore t work
    spare e).injection = s.injection ∧ (s.endStore t work spare e).writeBack = s.writeBack ∧ (s.endStore t work spare
    e).scrubber = s.scrubber ∧ (s.endStore t work spare e).management = s.management ∧ (s.endStore t work spare
    e).freeIndex = s.freeIndex ∧ (s.endStore t work spare e).pending = s.pending := by
  unfold State.endStore
  (repeat' split) <;> simp
@[simp] theorem State.endStore_mode (s : State) (t : Transaction) (work : StoreWork) (spare : Bool) (e : Ending) : (s.endStore t work spare e).mode = s.mode := (s.endStore_keeps t work spare e).1
@[simp] theorem State.endStore_settings (s : State) (t : Transaction) (work : StoreWork) (spare : Bool) (e : Ending) : (s.endStore t work spare e).settings = s.settings := (s.endStore_keeps t work spare e).2.1
@[simp] theorem State.endStore_injection (s : State) (t : Transaction) (work : StoreWork) (spare : Bool) (e : Ending) : (s.endStore t work spare e).injection = s.injection := (s.endStore_keeps t work spare e).2.2.1
@[simp] theorem State.endStore_writeBack (s : State) (t : Transaction) (work : StoreWork) (spare : Bool) (e : Ending) : (s.endStore t work spare e).writeBack = s.writeBack := (s.endStore_keeps t work spare e).2.2.2.1
@[simp] theorem State.endStore_scrubber (s : State) (t : Transaction) (work : StoreWork) (spare : Bool) (e : Ending) : (s.endStore t work spare e).scrubber = s.scrubber := (s.endStore_keeps t work spare e).2.2.2.2.1
@[simp] theorem State.endStore_management (s : State) (t : Transaction) (work : StoreWork) (spare : Bool) (e : Ending) : (s.endStore t work spare e).management = s.management := (s.endStore_keeps t work spare e).2.2.2.2.2.1
@[simp] theorem State.endStore_freeIndex (s : State) (t : Transaction) (work : StoreWork) (spare : Bool) (e : Ending) : (s.endStore t work spare e).freeIndex = s.freeIndex := (s.endStore_keeps t work spare e).2.2.2.2.2.2.1
@[simp] theorem State.endStore_pending (s : State) (t : Transaction) (work : StoreWork) (spare : Bool) (e : Ending) : (s.endStore t work spare e).pending = s.pending := (s.endStore_keeps t work spare e).2.2.2.2.2.2.2

theorem State.endUpstream_keeps (s : State) (spare : Bool) (block : Nat) (e : Ending) :
    (s.endUpstream spare block e).mode = s.mode ∧ (s.endUpstream spare block e).settings = s.settings ∧ (s.endUpstream
    spare block e).injection = s.injection ∧ (s.endUpstream spare block e).scrubber = s.scrubber ∧ (s.endUpstream spare
    block e).management = s.management ∧ (s.endUpstream spare block e).freeIndex = s.freeIndex ∧ (s.endUpstream spare
    block e).pending = s.pending := by
  unfold State.endUpstream
  (repeat' split) <;> simp
@[simp] theorem State.endUpstream_mode (s : State) (spare : Bool) (block : Nat) (e : Ending) : (s.endUpstream spare block e).mode = s.mode := (s.endUpstream_keeps spare block e).1
@[simp] theorem State.endUpstream_settings (s : State) (spare : Bool) (block : Nat) (e : Ending) : (s.endUpstream spare block e).settings = s.settings := (s.endUpstream_keeps spare block e).2.1
@[simp] theorem State.endUpstream_injection (s : State) (spare : Bool) (block : Nat) (e : Ending) : (s.endUpstream spare block e).injection = s.injection := (s.endUpstream_keeps spare block e).2.2.1
@[simp] theorem State.endUpstream_scrubber (s : State) (spare : Bool) (block : Nat) (e : Ending) : (s.endUpstream spare block e).scrubber = s.scrubber := (s.endUpstream_keeps spare block e).2.2.2.1
@[simp] theorem State.endUpstream_management (s : State) (spare : Bool) (block : Nat) (e : Ending) : (s.endUpstream spare block e).management = s.management := (s.endUpstream_keeps spare block e).2.2.2.2.1
@[simp] theorem State.endUpstream_freeIndex (s : State) (spare : Bool) (block : Nat) (e : Ending) : (s.endUpstream spare block e).freeIndex = s.freeIndex := (s.endUpstream_keeps spare block e).2.2.2.2.2.1
@[simp] theorem State.endUpstream_pending (s : State) (spare : Bool) (block : Nat) (e : Ending) : (s.endUpstream spare block e).pending = s.pending := (s.endUpstream_keeps spare block e).2.2.2.2.2.2

theorem State.endWithoutIssue_keeps (s : State) :
    (s.endWithoutIssue).mode = s.mode ∧ (s.endWithoutIssue).settings = s.settings ∧ (s.endWithoutIssue).injection =
    s.injection ∧ (s.endWithoutIssue).scrubber = s.scrubber ∧ (s.endWithoutIssue).management = s.management ∧
    (s.endWithoutIssue).freeIndex = s.freeIndex ∧ (s.endWithoutIssue).pending = s.pending := by
  unfold State.endWithoutIssue
  (repeat' split) <;> simp
@[simp] theorem State.endWithoutIssue_mode (s : State) : (s.endWithoutIssue).mode = s.mode := s.endWithoutIssue_keeps.1
@[simp] theorem State.endWithoutIssue_settings (s : State) : (s.endWithoutIssue).settings = s.settings := s.endWithoutIssue_keeps.2.1
@[simp] theorem State.endWithoutIssue_injection (s : State) : (s.endWithoutIssue).injection = s.injection := s.endWithoutIssue_keeps.2.2.1
@[simp] theorem State.endWithoutIssue_scrubber (s : State) : (s.endWithoutIssue).scrubber = s.scrubber := s.endWithoutIssue_keeps.2.2.2.1
@[simp] theorem State.endWithoutIssue_management (s : State) : (s.endWithoutIssue).management = s.management := s.endWithoutIssue_keeps.2.2.2.2.1
@[simp] theorem State.endWithoutIssue_freeIndex (s : State) : (s.endWithoutIssue).freeIndex = s.freeIndex := s.endWithoutIssue_keeps.2.2.2.2.2.1
@[simp] theorem State.endWithoutIssue_pending (s : State) : (s.endWithoutIssue).pending = s.pending := s.endWithoutIssue_keeps.2.2.2.2.2.2

theorem State.settle_keeps (s : State) :
    (s.settle).mode = s.mode ∧ (s.settle).settings = s.settings ∧ (s.settle).injection = s.injection ∧
    (s.settle).scrubber = s.scrubber ∧ (s.settle).management = s.management ∧ (s.settle).freeIndex = s.freeIndex ∧
    (s.settle).pending = s.pending := by
  simp [State.settle]
@[simp] theorem State.settle_mode (s : State) : (s.settle).mode = s.mode := s.settle_keeps.1
@[simp] theorem State.settle_settings (s : State) : (s.settle).settings = s.settings := s.settle_keeps.2.1
@[simp] theorem State.settle_injection (s : State) : (s.settle).injection = s.injection := s.settle_keeps.2.2.1
@[simp] theorem State.settle_scrubber (s : State) : (s.settle).scrubber = s.scrubber := s.settle_keeps.2.2.2.1
@[simp] theorem State.settle_management (s : State) : (s.settle).management = s.management := s.settle_keeps.2.2.2.2.1
@[simp] theorem State.settle_freeIndex (s : State) : (s.settle).freeIndex = s.freeIndex := s.settle_keeps.2.2.2.2.2.1
@[simp] theorem State.settle_pending (s : State) : (s.settle).pending = s.pending := s.settle_keeps.2.2.2.2.2.2

theorem State.followTimer_keeps (s : State) :
    (s.followTimer).mode = s.mode ∧ (s.followTimer).settings = s.settings ∧ (s.followTimer).remap = s.remap ∧
    (s.followTimer).migration = s.migration ∧ (s.followTimer).watch = s.watch ∧ (s.followTimer).injection = s.injection
    ∧ (s.followTimer).upstream = s.upstream ∧ (s.followTimer).port = s.port ∧ (s.followTimer).writeBack = s.writeBack ∧
    (s.followTimer).records = s.records ∧ (s.followTimer).management = s.management ∧ (s.followTimer).freeIndex =
    s.freeIndex ∧ (s.followTimer).pending = s.pending := by
  unfold State.followTimer
  (repeat' split) <;> simp
@[simp] theorem State.followTimer_mode (s : State) : (s.followTimer).mode = s.mode := s.followTimer_keeps.1
@[simp] theorem State.followTimer_settings (s : State) : (s.followTimer).settings = s.settings := s.followTimer_keeps.2.1
@[simp] theorem State.followTimer_remap (s : State) : (s.followTimer).remap = s.remap := s.followTimer_keeps.2.2.1
@[simp] theorem State.followTimer_migration (s : State) : (s.followTimer).migration = s.migration := s.followTimer_keeps.2.2.2.1
@[simp] theorem State.followTimer_watch (s : State) : (s.followTimer).watch = s.watch := s.followTimer_keeps.2.2.2.2.1
@[simp] theorem State.followTimer_injection (s : State) : (s.followTimer).injection = s.injection := s.followTimer_keeps.2.2.2.2.2.1
@[simp] theorem State.followTimer_upstream (s : State) : (s.followTimer).upstream = s.upstream := s.followTimer_keeps.2.2.2.2.2.2.1
@[simp] theorem State.followTimer_port (s : State) : (s.followTimer).port = s.port := s.followTimer_keeps.2.2.2.2.2.2.2.1
@[simp] theorem State.followTimer_writeBack (s : State) : (s.followTimer).writeBack = s.writeBack := s.followTimer_keeps.2.2.2.2.2.2.2.2.1
@[simp] theorem State.followTimer_records (s : State) : (s.followTimer).records = s.records := s.followTimer_keeps.2.2.2.2.2.2.2.2.2.1
@[simp] theorem State.followTimer_management (s : State) : (s.followTimer).management = s.management := s.followTimer_keeps.2.2.2.2.2.2.2.2.2.2.1
@[simp] theorem State.followTimer_freeIndex (s : State) : (s.followTimer).freeIndex = s.freeIndex := s.followTimer_keeps.2.2.2.2.2.2.2.2.2.2.2.1
@[simp] theorem State.followTimer_pending (s : State) : (s.followTimer).pending = s.pending := s.followTimer_keeps.2.2.2.2.2.2.2.2.2.2.2.2

theorem State.restartTimer_keeps (s : State) :
    (s.restartTimer).mode = s.mode ∧ (s.restartTimer).settings = s.settings ∧ (s.restartTimer).remap = s.remap ∧
    (s.restartTimer).migration = s.migration ∧ (s.restartTimer).watch = s.watch ∧ (s.restartTimer).injection =
    s.injection ∧ (s.restartTimer).upstream = s.upstream ∧ (s.restartTimer).port = s.port ∧ (s.restartTimer).writeBack =
    s.writeBack ∧ (s.restartTimer).records = s.records ∧ (s.restartTimer).management = s.management ∧
    (s.restartTimer).freeIndex = s.freeIndex ∧ (s.restartTimer).pending = s.pending := by
  unfold State.restartTimer
  (repeat' split) <;> simp
@[simp] theorem State.restartTimer_mode (s : State) : (s.restartTimer).mode = s.mode := s.restartTimer_keeps.1
@[simp] theorem State.restartTimer_settings (s : State) : (s.restartTimer).settings = s.settings := s.restartTimer_keeps.2.1
@[simp] theorem State.restartTimer_remap (s : State) : (s.restartTimer).remap = s.remap := s.restartTimer_keeps.2.2.1
@[simp] theorem State.restartTimer_migration (s : State) : (s.restartTimer).migration = s.migration := s.restartTimer_keeps.2.2.2.1
@[simp] theorem State.restartTimer_watch (s : State) : (s.restartTimer).watch = s.watch := s.restartTimer_keeps.2.2.2.2.1
@[simp] theorem State.restartTimer_injection (s : State) : (s.restartTimer).injection = s.injection := s.restartTimer_keeps.2.2.2.2.2.1
@[simp] theorem State.restartTimer_upstream (s : State) : (s.restartTimer).upstream = s.upstream := s.restartTimer_keeps.2.2.2.2.2.2.1
@[simp] theorem State.restartTimer_port (s : State) : (s.restartTimer).port = s.port := s.restartTimer_keeps.2.2.2.2.2.2.2.1
@[simp] theorem State.restartTimer_writeBack (s : State) : (s.restartTimer).writeBack = s.writeBack := s.restartTimer_keeps.2.2.2.2.2.2.2.2.1
@[simp] theorem State.restartTimer_records (s : State) : (s.restartTimer).records = s.records := s.restartTimer_keeps.2.2.2.2.2.2.2.2.2.1
@[simp] theorem State.restartTimer_management (s : State) : (s.restartTimer).management = s.management := s.restartTimer_keeps.2.2.2.2.2.2.2.2.2.2.1
@[simp] theorem State.restartTimer_freeIndex (s : State) : (s.restartTimer).freeIndex = s.freeIndex := s.restartTimer_keeps.2.2.2.2.2.2.2.2.2.2.2.1
@[simp] theorem State.restartTimer_pending (s : State) : (s.restartTimer).pending = s.pending := s.restartTimer_keeps.2.2.2.2.2.2.2.2.2.2.2.2

theorem State.expireInterval_keeps (s : State) :
    (s.expireInterval).mode = s.mode ∧ (s.expireInterval).settings = s.settings ∧ (s.expireInterval).remap = s.remap ∧
    (s.expireInterval).migration = s.migration ∧ (s.expireInterval).watch = s.watch ∧ (s.expireInterval).injection =
    s.injection ∧ (s.expireInterval).upstream = s.upstream ∧ (s.expireInterval).port = s.port ∧
    (s.expireInterval).writeBack = s.writeBack ∧ (s.expireInterval).records = s.records ∧ (s.expireInterval).management
    = s.management ∧ (s.expireInterval).freeIndex = s.freeIndex ∧ (s.expireInterval).pending = s.pending := by
  unfold State.expireInterval
  (repeat' split) <;> simp
@[simp] theorem State.expireInterval_mode (s : State) : (s.expireInterval).mode = s.mode := s.expireInterval_keeps.1
@[simp] theorem State.expireInterval_settings (s : State) : (s.expireInterval).settings = s.settings := s.expireInterval_keeps.2.1
@[simp] theorem State.expireInterval_remap (s : State) : (s.expireInterval).remap = s.remap := s.expireInterval_keeps.2.2.1
@[simp] theorem State.expireInterval_migration (s : State) : (s.expireInterval).migration = s.migration := s.expireInterval_keeps.2.2.2.1
@[simp] theorem State.expireInterval_watch (s : State) : (s.expireInterval).watch = s.watch := s.expireInterval_keeps.2.2.2.2.1
@[simp] theorem State.expireInterval_injection (s : State) : (s.expireInterval).injection = s.injection := s.expireInterval_keeps.2.2.2.2.2.1
@[simp] theorem State.expireInterval_upstream (s : State) : (s.expireInterval).upstream = s.upstream := s.expireInterval_keeps.2.2.2.2.2.2.1
@[simp] theorem State.expireInterval_port (s : State) : (s.expireInterval).port = s.port := s.expireInterval_keeps.2.2.2.2.2.2.2.1
@[simp] theorem State.expireInterval_writeBack (s : State) : (s.expireInterval).writeBack = s.writeBack := s.expireInterval_keeps.2.2.2.2.2.2.2.2.1
@[simp] theorem State.expireInterval_records (s : State) : (s.expireInterval).records = s.records := s.expireInterval_keeps.2.2.2.2.2.2.2.2.2.1
@[simp] theorem State.expireInterval_management (s : State) : (s.expireInterval).management = s.management := s.expireInterval_keeps.2.2.2.2.2.2.2.2.2.2.1
@[simp] theorem State.expireInterval_freeIndex (s : State) : (s.expireInterval).freeIndex = s.freeIndex := s.expireInterval_keeps.2.2.2.2.2.2.2.2.2.2.2.1
@[simp] theorem State.expireInterval_pending (s : State) : (s.expireInterval).pending = s.pending := s.expireInterval_keeps.2.2.2.2.2.2.2.2.2.2.2.2

theorem State.withdrawScrub_keeps (s : State) :
    (s.withdrawScrub).mode = s.mode ∧ (s.withdrawScrub).settings = s.settings ∧ (s.withdrawScrub).remap = s.remap ∧
    (s.withdrawScrub).migration = s.migration ∧ (s.withdrawScrub).watch = s.watch ∧ (s.withdrawScrub).injection =
    s.injection ∧ (s.withdrawScrub).upstream = s.upstream ∧ (s.withdrawScrub).writeBack = s.writeBack ∧
    (s.withdrawScrub).records = s.records ∧ (s.withdrawScrub).management = s.management ∧ (s.withdrawScrub).freeIndex =
    s.freeIndex ∧ (s.withdrawScrub).pending = s.pending := by
  unfold State.withdrawScrub
  (repeat' split) <;> simp
@[simp] theorem State.withdrawScrub_mode (s : State) : (s.withdrawScrub).mode = s.mode := s.withdrawScrub_keeps.1
@[simp] theorem State.withdrawScrub_settings (s : State) : (s.withdrawScrub).settings = s.settings := s.withdrawScrub_keeps.2.1
@[simp] theorem State.withdrawScrub_remap (s : State) : (s.withdrawScrub).remap = s.remap := s.withdrawScrub_keeps.2.2.1
@[simp] theorem State.withdrawScrub_migration (s : State) : (s.withdrawScrub).migration = s.migration := s.withdrawScrub_keeps.2.2.2.1
@[simp] theorem State.withdrawScrub_watch (s : State) : (s.withdrawScrub).watch = s.watch := s.withdrawScrub_keeps.2.2.2.2.1
@[simp] theorem State.withdrawScrub_injection (s : State) : (s.withdrawScrub).injection = s.injection := s.withdrawScrub_keeps.2.2.2.2.2.1
@[simp] theorem State.withdrawScrub_upstream (s : State) : (s.withdrawScrub).upstream = s.upstream := s.withdrawScrub_keeps.2.2.2.2.2.2.1
@[simp] theorem State.withdrawScrub_writeBack (s : State) : (s.withdrawScrub).writeBack = s.writeBack := s.withdrawScrub_keeps.2.2.2.2.2.2.2.1
@[simp] theorem State.withdrawScrub_records (s : State) : (s.withdrawScrub).records = s.records := s.withdrawScrub_keeps.2.2.2.2.2.2.2.2.1
@[simp] theorem State.withdrawScrub_management (s : State) : (s.withdrawScrub).management = s.management := s.withdrawScrub_keeps.2.2.2.2.2.2.2.2.2.1
@[simp] theorem State.withdrawScrub_freeIndex (s : State) : (s.withdrawScrub).freeIndex = s.freeIndex := s.withdrawScrub_keeps.2.2.2.2.2.2.2.2.2.2.1
@[simp] theorem State.withdrawScrub_pending (s : State) : (s.withdrawScrub).pending = s.pending := s.withdrawScrub_keeps.2.2.2.2.2.2.2.2.2.2.2

theorem State.endPass_keeps (s : State) :
    (s.endPass).mode = s.mode ∧ (s.endPass).settings = s.settings ∧ (s.endPass).remap = s.remap ∧ (s.endPass).migration
    = s.migration ∧ (s.endPass).injection = s.injection ∧ (s.endPass).upstream = s.upstream ∧ (s.endPass).port = s.port
    ∧ (s.endPass).writeBack = s.writeBack ∧ (s.endPass).records = s.records ∧ (s.endPass).management = s.management ∧
    (s.endPass).freeIndex = s.freeIndex ∧ (s.endPass).pending = s.pending := by
  simp [State.endPass]
@[simp] theorem State.endPass_mode (s : State) : (s.endPass).mode = s.mode := s.endPass_keeps.1
@[simp] theorem State.endPass_settings (s : State) : (s.endPass).settings = s.settings := s.endPass_keeps.2.1
@[simp] theorem State.endPass_remap (s : State) : (s.endPass).remap = s.remap := s.endPass_keeps.2.2.1
@[simp] theorem State.endPass_migration (s : State) : (s.endPass).migration = s.migration := s.endPass_keeps.2.2.2.1
@[simp] theorem State.endPass_injection (s : State) : (s.endPass).injection = s.injection := s.endPass_keeps.2.2.2.2.1
@[simp] theorem State.endPass_upstream (s : State) : (s.endPass).upstream = s.upstream := s.endPass_keeps.2.2.2.2.2.1
@[simp] theorem State.endPass_port (s : State) : (s.endPass).port = s.port := s.endPass_keeps.2.2.2.2.2.2.1
@[simp] theorem State.endPass_writeBack (s : State) : (s.endPass).writeBack = s.writeBack := s.endPass_keeps.2.2.2.2.2.2.2.1
@[simp] theorem State.endPass_records (s : State) : (s.endPass).records = s.records := s.endPass_keeps.2.2.2.2.2.2.2.2.1
@[simp] theorem State.endPass_management (s : State) : (s.endPass).management = s.management := s.endPass_keeps.2.2.2.2.2.2.2.2.2.1
@[simp] theorem State.endPass_freeIndex (s : State) : (s.endPass).freeIndex = s.freeIndex := s.endPass_keeps.2.2.2.2.2.2.2.2.2.2.1
@[simp] theorem State.endPass_pending (s : State) : (s.endPass).pending = s.pending := s.endPass_keeps.2.2.2.2.2.2.2.2.2.2.2

theorem State.advanceScrub_keeps (s : State) :
    (s.advanceScrub).mode = s.mode ∧ (s.advanceScrub).settings = s.settings ∧ (s.advanceScrub).remap = s.remap ∧
    (s.advanceScrub).migration = s.migration ∧ (s.advanceScrub).injection = s.injection ∧ (s.advanceScrub).upstream =
    s.upstream ∧ (s.advanceScrub).port = s.port ∧ (s.advanceScrub).writeBack = s.writeBack ∧ (s.advanceScrub).records =
    s.records ∧ (s.advanceScrub).management = s.management ∧ (s.advanceScrub).freeIndex = s.freeIndex ∧
    (s.advanceScrub).pending = s.pending := by
  unfold State.advanceScrub
  (repeat' split) <;> simp
@[simp] theorem State.advanceScrub_mode (s : State) : (s.advanceScrub).mode = s.mode := s.advanceScrub_keeps.1
@[simp] theorem State.advanceScrub_settings (s : State) : (s.advanceScrub).settings = s.settings := s.advanceScrub_keeps.2.1
@[simp] theorem State.advanceScrub_remap (s : State) : (s.advanceScrub).remap = s.remap := s.advanceScrub_keeps.2.2.1
@[simp] theorem State.advanceScrub_migration (s : State) : (s.advanceScrub).migration = s.migration := s.advanceScrub_keeps.2.2.2.1
@[simp] theorem State.advanceScrub_injection (s : State) : (s.advanceScrub).injection = s.injection := s.advanceScrub_keeps.2.2.2.2.1
@[simp] theorem State.advanceScrub_upstream (s : State) : (s.advanceScrub).upstream = s.upstream := s.advanceScrub_keeps.2.2.2.2.2.1
@[simp] theorem State.advanceScrub_port (s : State) : (s.advanceScrub).port = s.port := s.advanceScrub_keeps.2.2.2.2.2.2.1
@[simp] theorem State.advanceScrub_writeBack (s : State) : (s.advanceScrub).writeBack = s.writeBack := s.advanceScrub_keeps.2.2.2.2.2.2.2.1
@[simp] theorem State.advanceScrub_records (s : State) : (s.advanceScrub).records = s.records := s.advanceScrub_keeps.2.2.2.2.2.2.2.2.1
@[simp] theorem State.advanceScrub_management (s : State) : (s.advanceScrub).management = s.management := s.advanceScrub_keeps.2.2.2.2.2.2.2.2.2.1
@[simp] theorem State.advanceScrub_freeIndex (s : State) : (s.advanceScrub).freeIndex = s.freeIndex := s.advanceScrub_keeps.2.2.2.2.2.2.2.2.2.2.1
@[simp] theorem State.advanceScrub_pending (s : State) : (s.advanceScrub).pending = s.pending := s.advanceScrub_keeps.2.2.2.2.2.2.2.2.2.2.2

theorem State.endScrub_keeps (s : State) (block line : Nat) (e : Ending) :
    (s.endScrub block line e).mode = s.mode ∧ (s.endScrub block line e).settings = s.settings ∧ (s.endScrub block line
    e).injection = s.injection ∧ (s.endScrub block line e).upstream = s.upstream ∧ (s.endScrub block line e).port =
    s.port ∧ (s.endScrub block line e).management = s.management ∧ (s.endScrub block line e).freeIndex = s.freeIndex ∧
    (s.endScrub block line e).pending = s.pending := by
  unfold State.endScrub
  (repeat' split) <;> simp
@[simp] theorem State.endScrub_mode (s : State) (block line : Nat) (e : Ending) : (s.endScrub block line e).mode = s.mode := (s.endScrub_keeps block line e).1
@[simp] theorem State.endScrub_settings (s : State) (block line : Nat) (e : Ending) : (s.endScrub block line e).settings = s.settings := (s.endScrub_keeps block line e).2.1
@[simp] theorem State.endScrub_injection (s : State) (block line : Nat) (e : Ending) : (s.endScrub block line e).injection = s.injection := (s.endScrub_keeps block line e).2.2.1
@[simp] theorem State.endScrub_upstream (s : State) (block line : Nat) (e : Ending) : (s.endScrub block line e).upstream = s.upstream := (s.endScrub_keeps block line e).2.2.2.1
@[simp] theorem State.endScrub_port (s : State) (block line : Nat) (e : Ending) : (s.endScrub block line e).port = s.port := (s.endScrub_keeps block line e).2.2.2.2.1
@[simp] theorem State.endScrub_management (s : State) (block line : Nat) (e : Ending) : (s.endScrub block line e).management = s.management := (s.endScrub_keeps block line e).2.2.2.2.2.1
@[simp] theorem State.endScrub_freeIndex (s : State) (block line : Nat) (e : Ending) : (s.endScrub block line e).freeIndex = s.freeIndex := (s.endScrub_keeps block line e).2.2.2.2.2.2.1
@[simp] theorem State.endScrub_pending (s : State) (block line : Nat) (e : Ending) : (s.endScrub block line e).pending = s.pending := (s.endScrub_keeps block line e).2.2.2.2.2.2.2

theorem State.countPassOver_keeps (s : State) (busy : List Requester) (r : Requester) :
    (s.countPassOver busy r).mode = s.mode ∧ (s.countPassOver busy r).settings = s.settings ∧ (s.countPassOver busy
    r).remap = s.remap ∧ (s.countPassOver busy r).migration = s.migration ∧ (s.countPassOver busy r).watch = s.watch ∧
    (s.countPassOver busy r).injection = s.injection ∧ (s.countPassOver busy r).upstream = s.upstream ∧ (s.countPassOver
    busy r).writeBack = s.writeBack ∧ (s.countPassOver busy r).scrubber = s.scrubber ∧ (s.countPassOver busy r).records
    = s.records ∧ (s.countPassOver busy r).management = s.management ∧ (s.countPassOver busy r).freeIndex = s.freeIndex
    ∧ (s.countPassOver busy r).pending = s.pending := by
  simp [State.countPassOver]
@[simp] theorem State.countPassOver_mode (s : State) (busy : List Requester) (r : Requester) : (s.countPassOver busy r).mode = s.mode := (s.countPassOver_keeps busy r).1
@[simp] theorem State.countPassOver_settings (s : State) (busy : List Requester) (r : Requester) : (s.countPassOver busy r).settings = s.settings := (s.countPassOver_keeps busy r).2.1
@[simp] theorem State.countPassOver_remap (s : State) (busy : List Requester) (r : Requester) : (s.countPassOver busy r).remap = s.remap := (s.countPassOver_keeps busy r).2.2.1
@[simp] theorem State.countPassOver_migration (s : State) (busy : List Requester) (r : Requester) : (s.countPassOver busy r).migration = s.migration := (s.countPassOver_keeps busy r).2.2.2.1
@[simp] theorem State.countPassOver_watch (s : State) (busy : List Requester) (r : Requester) : (s.countPassOver busy r).watch = s.watch := (s.countPassOver_keeps busy r).2.2.2.2.1
@[simp] theorem State.countPassOver_injection (s : State) (busy : List Requester) (r : Requester) : (s.countPassOver busy r).injection = s.injection := (s.countPassOver_keeps busy r).2.2.2.2.2.1
@[simp] theorem State.countPassOver_upstream (s : State) (busy : List Requester) (r : Requester) : (s.countPassOver busy r).upstream = s.upstream := (s.countPassOver_keeps busy r).2.2.2.2.2.2.1
@[simp] theorem State.countPassOver_writeBack (s : State) (busy : List Requester) (r : Requester) : (s.countPassOver busy r).writeBack = s.writeBack := (s.countPassOver_keeps busy r).2.2.2.2.2.2.2.1
@[simp] theorem State.countPassOver_scrubber (s : State) (busy : List Requester) (r : Requester) : (s.countPassOver busy r).scrubber = s.scrubber := (s.countPassOver_keeps busy r).2.2.2.2.2.2.2.2.1
@[simp] theorem State.countPassOver_records (s : State) (busy : List Requester) (r : Requester) : (s.countPassOver busy r).records = s.records := (s.countPassOver_keeps busy r).2.2.2.2.2.2.2.2.2.1
@[simp] theorem State.countPassOver_management (s : State) (busy : List Requester) (r : Requester) : (s.countPassOver busy r).management = s.management := (s.countPassOver_keeps busy r).2.2.2.2.2.2.2.2.2.2.1
@[simp] theorem State.countPassOver_freeIndex (s : State) (busy : List Requester) (r : Requester) : (s.countPassOver busy r).freeIndex = s.freeIndex := (s.countPassOver_keeps busy r).2.2.2.2.2.2.2.2.2.2.2.1
@[simp] theorem State.countPassOver_pending (s : State) (busy : List Requester) (r : Requester) : (s.countPassOver busy r).pending = s.pending := (s.countPassOver_keeps busy r).2.2.2.2.2.2.2.2.2.2.2.2

theorem State.issue_keeps (s : State) (p : Purpose) (block line first count : Nat) (ws : List StoredWord) :
    (s.issue p block line first count ws).mode = s.mode ∧ (s.issue p block line first count ws).settings = s.settings ∧
    (s.issue p block line first count ws).remap = s.remap ∧ (s.issue p block line first count ws).migration =
    s.migration ∧ (s.issue p block line first count ws).watch = s.watch ∧ (s.issue p block line first count
    ws).injection = s.injection ∧ (s.issue p block line first count ws).upstream = s.upstream ∧ (s.issue p block line
    first count ws).scrubber = s.scrubber ∧ (s.issue p block line first count ws).records = s.records ∧ (s.issue p block
    line first count ws).management = s.management ∧ (s.issue p block line first count ws).freeIndex = s.freeIndex ∧
    (s.issue p block line first count ws).pending = s.pending := by
  unfold State.issue
  (repeat' split) <;> simp
@[simp] theorem State.issue_mode (s : State) (p : Purpose) (block line first count : Nat) (ws : List StoredWord) : (s.issue p block line first count ws).mode = s.mode := (s.issue_keeps p block line first count ws).1
@[simp] theorem State.issue_settings (s : State) (p : Purpose) (block line first count : Nat) (ws : List StoredWord) : (s.issue p block line first count ws).settings = s.settings := (s.issue_keeps p block line first count ws).2.1
@[simp] theorem State.issue_remap (s : State) (p : Purpose) (block line first count : Nat) (ws : List StoredWord) : (s.issue p block line first count ws).remap = s.remap := (s.issue_keeps p block line first count ws).2.2.1
@[simp] theorem State.issue_migration (s : State) (p : Purpose) (block line first count : Nat) (ws : List StoredWord) : (s.issue p block line first count ws).migration = s.migration := (s.issue_keeps p block line first count ws).2.2.2.1
@[simp] theorem State.issue_watch (s : State) (p : Purpose) (block line first count : Nat) (ws : List StoredWord) : (s.issue p block line first count ws).watch = s.watch := (s.issue_keeps p block line first count ws).2.2.2.2.1
@[simp] theorem State.issue_injection (s : State) (p : Purpose) (block line first count : Nat) (ws : List StoredWord) : (s.issue p block line first count ws).injection = s.injection := (s.issue_keeps p block line first count ws).2.2.2.2.2.1
@[simp] theorem State.issue_upstream (s : State) (p : Purpose) (block line first count : Nat) (ws : List StoredWord) : (s.issue p block line first count ws).upstream = s.upstream := (s.issue_keeps p block line first count ws).2.2.2.2.2.2.1
@[simp] theorem State.issue_scrubber (s : State) (p : Purpose) (block line first count : Nat) (ws : List StoredWord) : (s.issue p block line first count ws).scrubber = s.scrubber := (s.issue_keeps p block line first count ws).2.2.2.2.2.2.2.1
@[simp] theorem State.issue_records (s : State) (p : Purpose) (block line first count : Nat) (ws : List StoredWord) : (s.issue p block line first count ws).records = s.records := (s.issue_keeps p block line first count ws).2.2.2.2.2.2.2.2.1
@[simp] theorem State.issue_management (s : State) (p : Purpose) (block line first count : Nat) (ws : List StoredWord) : (s.issue p block line first count ws).management = s.management := (s.issue_keeps p block line first count ws).2.2.2.2.2.2.2.2.2.1
@[simp] theorem State.issue_freeIndex (s : State) (p : Purpose) (block line first count : Nat) (ws : List StoredWord) : (s.issue p block line first count ws).freeIndex = s.freeIndex := (s.issue_keeps p block line first count ws).2.2.2.2.2.2.2.2.2.2.1
@[simp] theorem State.issue_pending (s : State) (p : Purpose) (block line first count : Nat) (ws : List StoredWord) : (s.issue p block line first count ws).pending = s.pending := (s.issue_keeps p block line first count ws).2.2.2.2.2.2.2.2.2.2.2

theorem State.applyInjection_keeps (s : State) (a : Nat) (forms : List StoredWord) :
    ((s.applyInjection a forms).1).mode = s.mode ∧ ((s.applyInjection a forms).1).settings = s.settings ∧
    ((s.applyInjection a forms).1).remap = s.remap ∧ ((s.applyInjection a forms).1).migration = s.migration ∧
    ((s.applyInjection a forms).1).watch = s.watch ∧ ((s.applyInjection a forms).1).upstream = s.upstream ∧
    ((s.applyInjection a forms).1).port = s.port ∧ ((s.applyInjection a forms).1).writeBack = s.writeBack ∧
    ((s.applyInjection a forms).1).scrubber = s.scrubber ∧ ((s.applyInjection a forms).1).management = s.management ∧
    ((s.applyInjection a forms).1).freeIndex = s.freeIndex ∧ ((s.applyInjection a forms).1).pending = s.pending := by
  unfold State.applyInjection
  (repeat' split) <;> simp
@[simp] theorem State.applyInjection_mode (s : State) (a : Nat) (forms : List StoredWord) : ((s.applyInjection a forms).1).mode = s.mode := (s.applyInjection_keeps a forms).1
@[simp] theorem State.applyInjection_settings (s : State) (a : Nat) (forms : List StoredWord) : ((s.applyInjection a forms).1).settings = s.settings := (s.applyInjection_keeps a forms).2.1
@[simp] theorem State.applyInjection_remap (s : State) (a : Nat) (forms : List StoredWord) : ((s.applyInjection a forms).1).remap = s.remap := (s.applyInjection_keeps a forms).2.2.1
@[simp] theorem State.applyInjection_migration (s : State) (a : Nat) (forms : List StoredWord) : ((s.applyInjection a forms).1).migration = s.migration := (s.applyInjection_keeps a forms).2.2.2.1
@[simp] theorem State.applyInjection_watch (s : State) (a : Nat) (forms : List StoredWord) : ((s.applyInjection a forms).1).watch = s.watch := (s.applyInjection_keeps a forms).2.2.2.2.1
@[simp] theorem State.applyInjection_upstream (s : State) (a : Nat) (forms : List StoredWord) : ((s.applyInjection a forms).1).upstream = s.upstream := (s.applyInjection_keeps a forms).2.2.2.2.2.1
@[simp] theorem State.applyInjection_port (s : State) (a : Nat) (forms : List StoredWord) : ((s.applyInjection a forms).1).port = s.port := (s.applyInjection_keeps a forms).2.2.2.2.2.2.1
@[simp] theorem State.applyInjection_writeBack (s : State) (a : Nat) (forms : List StoredWord) : ((s.applyInjection a forms).1).writeBack = s.writeBack := (s.applyInjection_keeps a forms).2.2.2.2.2.2.2.1
@[simp] theorem State.applyInjection_scrubber (s : State) (a : Nat) (forms : List StoredWord) : ((s.applyInjection a forms).1).scrubber = s.scrubber := (s.applyInjection_keeps a forms).2.2.2.2.2.2.2.2.1
@[simp] theorem State.applyInjection_management (s : State) (a : Nat) (forms : List StoredWord) : ((s.applyInjection a forms).1).management = s.management := (s.applyInjection_keeps a forms).2.2.2.2.2.2.2.2.2.1
@[simp] theorem State.applyInjection_freeIndex (s : State) (a : Nat) (forms : List StoredWord) : ((s.applyInjection a forms).1).freeIndex = s.freeIndex := (s.applyInjection_keeps a forms).2.2.2.2.2.2.2.2.2.2.1
@[simp] theorem State.applyInjection_pending (s : State) (a : Nat) (forms : List StoredWord) : ((s.applyInjection a forms).1).pending = s.pending := (s.applyInjection_keeps a forms).2.2.2.2.2.2.2.2.2.2.2

theorem State.markOvertaken_keeps (s : State) (block line : Nat) :
    (s.markOvertaken block line).mode = s.mode ∧ (s.markOvertaken block line).settings = s.settings ∧ (s.markOvertaken
    block line).remap = s.remap ∧ (s.markOvertaken block line).watch = s.watch ∧ (s.markOvertaken block line).injection
    = s.injection ∧ (s.markOvertaken block line).upstream = s.upstream ∧ (s.markOvertaken block line).port = s.port ∧
    (s.markOvertaken block line).writeBack = s.writeBack ∧ (s.markOvertaken block line).scrubber = s.scrubber ∧
    (s.markOvertaken block line).records = s.records ∧ (s.markOvertaken block line).management = s.management ∧
    (s.markOvertaken block line).freeIndex = s.freeIndex ∧ (s.markOvertaken block line).pending = s.pending := by
  unfold State.markOvertaken
  (repeat' split) <;> simp
@[simp] theorem State.markOvertaken_mode (s : State) (block line : Nat) : (s.markOvertaken block line).mode = s.mode := (s.markOvertaken_keeps block line).1
@[simp] theorem State.markOvertaken_settings (s : State) (block line : Nat) : (s.markOvertaken block line).settings = s.settings := (s.markOvertaken_keeps block line).2.1
@[simp] theorem State.markOvertaken_remap (s : State) (block line : Nat) : (s.markOvertaken block line).remap = s.remap := (s.markOvertaken_keeps block line).2.2.1
@[simp] theorem State.markOvertaken_watch (s : State) (block line : Nat) : (s.markOvertaken block line).watch = s.watch := (s.markOvertaken_keeps block line).2.2.2.1
@[simp] theorem State.markOvertaken_injection (s : State) (block line : Nat) : (s.markOvertaken block line).injection = s.injection := (s.markOvertaken_keeps block line).2.2.2.2.1
@[simp] theorem State.markOvertaken_upstream (s : State) (block line : Nat) : (s.markOvertaken block line).upstream = s.upstream := (s.markOvertaken_keeps block line).2.2.2.2.2.1
@[simp] theorem State.markOvertaken_port (s : State) (block line : Nat) : (s.markOvertaken block line).port = s.port := (s.markOvertaken_keeps block line).2.2.2.2.2.2.1
@[simp] theorem State.markOvertaken_writeBack (s : State) (block line : Nat) : (s.markOvertaken block line).writeBack = s.writeBack := (s.markOvertaken_keeps block line).2.2.2.2.2.2.2.1
@[simp] theorem State.markOvertaken_scrubber (s : State) (block line : Nat) : (s.markOvertaken block line).scrubber = s.scrubber := (s.markOvertaken_keeps block line).2.2.2.2.2.2.2.2.1
@[simp] theorem State.markOvertaken_records (s : State) (block line : Nat) : (s.markOvertaken block line).records = s.records := (s.markOvertaken_keeps block line).2.2.2.2.2.2.2.2.2.1
@[simp] theorem State.markOvertaken_management (s : State) (block line : Nat) : (s.markOvertaken block line).management = s.management := (s.markOvertaken_keeps block line).2.2.2.2.2.2.2.2.2.2.1
@[simp] theorem State.markOvertaken_freeIndex (s : State) (block line : Nat) : (s.markOvertaken block line).freeIndex = s.freeIndex := (s.markOvertaken_keeps block line).2.2.2.2.2.2.2.2.2.2.2.1
@[simp] theorem State.markOvertaken_pending (s : State) (block line : Nat) : (s.markOvertaken block line).pending = s.pending := (s.markOvertaken_keeps block line).2.2.2.2.2.2.2.2.2.2.2.2

theorem State.grantRun_keeps (s : State) (a : Nat) (work : StoreWork) (run : StoreRun) :
    (s.grantRun a work run).mode = s.mode ∧ (s.grantRun a work run).settings = s.settings ∧ (s.grantRun a work
    run).remap = s.remap ∧ (s.grantRun a work run).watch = s.watch ∧ (s.grantRun a work run).scrubber = s.scrubber ∧
    (s.grantRun a work run).management = s.management ∧ (s.grantRun a work run).freeIndex = s.freeIndex ∧ (s.grantRun a
    work run).pending = s.pending := by
  unfold State.grantRun
  dsimp only
  split <;> simp
@[simp] theorem State.grantRun_mode (s : State) (a : Nat) (work : StoreWork) (run : StoreRun) : (s.grantRun a work run).mode = s.mode := (s.grantRun_keeps a work run).1
@[simp] theorem State.grantRun_settings (s : State) (a : Nat) (work : StoreWork) (run : StoreRun) : (s.grantRun a work run).settings = s.settings := (s.grantRun_keeps a work run).2.1
@[simp] theorem State.grantRun_remap (s : State) (a : Nat) (work : StoreWork) (run : StoreRun) : (s.grantRun a work run).remap = s.remap := (s.grantRun_keeps a work run).2.2.1
@[simp] theorem State.grantRun_watch (s : State) (a : Nat) (work : StoreWork) (run : StoreRun) : (s.grantRun a work run).watch = s.watch := (s.grantRun_keeps a work run).2.2.2.1
@[simp] theorem State.grantRun_scrubber (s : State) (a : Nat) (work : StoreWork) (run : StoreRun) : (s.grantRun a work run).scrubber = s.scrubber := (s.grantRun_keeps a work run).2.2.2.2.1
@[simp] theorem State.grantRun_management (s : State) (a : Nat) (work : StoreWork) (run : StoreRun) : (s.grantRun a work run).management = s.management := (s.grantRun_keeps a work run).2.2.2.2.2.1
@[simp] theorem State.grantRun_freeIndex (s : State) (a : Nat) (work : StoreWork) (run : StoreRun) : (s.grantRun a work run).freeIndex = s.freeIndex := (s.grantRun_keeps a work run).2.2.2.2.2.2.1
@[simp] theorem State.grantRun_pending (s : State) (a : Nat) (work : StoreWork) (run : StoreRun) : (s.grantRun a work run).pending = s.pending := (s.grantRun_keeps a work run).2.2.2.2.2.2.2

theorem State.grantUpstream_keeps (s : State) :
    (s.grantUpstream).mode = s.mode ∧ (s.grantUpstream).settings = s.settings ∧ (s.grantUpstream).remap = s.remap ∧
    (s.grantUpstream).watch = s.watch ∧ (s.grantUpstream).scrubber = s.scrubber ∧ (s.grantUpstream).management =
    s.management ∧ (s.grantUpstream).freeIndex = s.freeIndex ∧ (s.grantUpstream).pending = s.pending := by
  unfold State.grantUpstream
  (repeat' split) <;> simp
@[simp] theorem State.grantUpstream_mode (s : State) : (s.grantUpstream).mode = s.mode := s.grantUpstream_keeps.1
@[simp] theorem State.grantUpstream_settings (s : State) : (s.grantUpstream).settings = s.settings := s.grantUpstream_keeps.2.1
@[simp] theorem State.grantUpstream_remap (s : State) : (s.grantUpstream).remap = s.remap := s.grantUpstream_keeps.2.2.1
@[simp] theorem State.grantUpstream_watch (s : State) : (s.grantUpstream).watch = s.watch := s.grantUpstream_keeps.2.2.2.1
@[simp] theorem State.grantUpstream_scrubber (s : State) : (s.grantUpstream).scrubber = s.scrubber := s.grantUpstream_keeps.2.2.2.2.1
@[simp] theorem State.grantUpstream_management (s : State) : (s.grantUpstream).management = s.management := s.grantUpstream_keeps.2.2.2.2.2.1
@[simp] theorem State.grantUpstream_freeIndex (s : State) : (s.grantUpstream).freeIndex = s.freeIndex := s.grantUpstream_keeps.2.2.2.2.2.2.1
@[simp] theorem State.grantUpstream_pending (s : State) : (s.grantUpstream).pending = s.pending := s.grantUpstream_keeps.2.2.2.2.2.2.2

theorem State.grantWriteBack_keeps (s : State) :
    (s.grantWriteBack).mode = s.mode ∧ (s.grantWriteBack).settings = s.settings ∧ (s.grantWriteBack).remap = s.remap ∧
    (s.grantWriteBack).migration = s.migration ∧ (s.grantWriteBack).watch = s.watch ∧ (s.grantWriteBack).injection =
    s.injection ∧ (s.grantWriteBack).upstream = s.upstream ∧ (s.grantWriteBack).scrubber = s.scrubber ∧
    (s.grantWriteBack).records = s.records ∧ (s.grantWriteBack).management = s.management ∧ (s.grantWriteBack).freeIndex
    = s.freeIndex ∧ (s.grantWriteBack).pending = s.pending := by
  unfold State.grantWriteBack
  (repeat' split) <;> simp
@[simp] theorem State.grantWriteBack_mode (s : State) : (s.grantWriteBack).mode = s.mode := s.grantWriteBack_keeps.1
@[simp] theorem State.grantWriteBack_settings (s : State) : (s.grantWriteBack).settings = s.settings := s.grantWriteBack_keeps.2.1
@[simp] theorem State.grantWriteBack_remap (s : State) : (s.grantWriteBack).remap = s.remap := s.grantWriteBack_keeps.2.2.1
@[simp] theorem State.grantWriteBack_migration (s : State) : (s.grantWriteBack).migration = s.migration := s.grantWriteBack_keeps.2.2.2.1
@[simp] theorem State.grantWriteBack_watch (s : State) : (s.grantWriteBack).watch = s.watch := s.grantWriteBack_keeps.2.2.2.2.1
@[simp] theorem State.grantWriteBack_injection (s : State) : (s.grantWriteBack).injection = s.injection := s.grantWriteBack_keeps.2.2.2.2.2.1
@[simp] theorem State.grantWriteBack_upstream (s : State) : (s.grantWriteBack).upstream = s.upstream := s.grantWriteBack_keeps.2.2.2.2.2.2.1
@[simp] theorem State.grantWriteBack_scrubber (s : State) : (s.grantWriteBack).scrubber = s.scrubber := s.grantWriteBack_keeps.2.2.2.2.2.2.2.1
@[simp] theorem State.grantWriteBack_records (s : State) : (s.grantWriteBack).records = s.records := s.grantWriteBack_keeps.2.2.2.2.2.2.2.2.1
@[simp] theorem State.grantWriteBack_management (s : State) : (s.grantWriteBack).management = s.management := s.grantWriteBack_keeps.2.2.2.2.2.2.2.2.2.1
@[simp] theorem State.grantWriteBack_freeIndex (s : State) : (s.grantWriteBack).freeIndex = s.freeIndex := s.grantWriteBack_keeps.2.2.2.2.2.2.2.2.2.2.1
@[simp] theorem State.grantWriteBack_pending (s : State) : (s.grantWriteBack).pending = s.pending := s.grantWriteBack_keeps.2.2.2.2.2.2.2.2.2.2.2

theorem State.grantCopy_keeps (s : State) (work : CopyWork) :
    (s.grantCopy work).mode = s.mode ∧ (s.grantCopy work).settings = s.settings ∧ (s.grantCopy work).remap = s.remap ∧
    (s.grantCopy work).watch = s.watch ∧ (s.grantCopy work).injection = s.injection ∧ (s.grantCopy work).upstream =
    s.upstream ∧ (s.grantCopy work).scrubber = s.scrubber ∧ (s.grantCopy work).records = s.records ∧ (s.grantCopy
    work).management = s.management ∧ (s.grantCopy work).freeIndex = s.freeIndex ∧ (s.grantCopy work).pending =
    s.pending := by
  unfold State.grantCopy
  (repeat' split) <;> simp
@[simp] theorem State.grantCopy_mode (s : State) (work : CopyWork) : (s.grantCopy work).mode = s.mode := (s.grantCopy_keeps work).1
@[simp] theorem State.grantCopy_settings (s : State) (work : CopyWork) : (s.grantCopy work).settings = s.settings := (s.grantCopy_keeps work).2.1
@[simp] theorem State.grantCopy_remap (s : State) (work : CopyWork) : (s.grantCopy work).remap = s.remap := (s.grantCopy_keeps work).2.2.1
@[simp] theorem State.grantCopy_watch (s : State) (work : CopyWork) : (s.grantCopy work).watch = s.watch := (s.grantCopy_keeps work).2.2.2.1
@[simp] theorem State.grantCopy_injection (s : State) (work : CopyWork) : (s.grantCopy work).injection = s.injection := (s.grantCopy_keeps work).2.2.2.2.1
@[simp] theorem State.grantCopy_upstream (s : State) (work : CopyWork) : (s.grantCopy work).upstream = s.upstream := (s.grantCopy_keeps work).2.2.2.2.2.1
@[simp] theorem State.grantCopy_scrubber (s : State) (work : CopyWork) : (s.grantCopy work).scrubber = s.scrubber := (s.grantCopy_keeps work).2.2.2.2.2.2.1
@[simp] theorem State.grantCopy_records (s : State) (work : CopyWork) : (s.grantCopy work).records = s.records := (s.grantCopy_keeps work).2.2.2.2.2.2.2.1
@[simp] theorem State.grantCopy_management (s : State) (work : CopyWork) : (s.grantCopy work).management = s.management := (s.grantCopy_keeps work).2.2.2.2.2.2.2.2.1
@[simp] theorem State.grantCopy_freeIndex (s : State) (work : CopyWork) : (s.grantCopy work).freeIndex = s.freeIndex := (s.grantCopy_keeps work).2.2.2.2.2.2.2.2.2.1
@[simp] theorem State.grantCopy_pending (s : State) (work : CopyWork) : (s.grantCopy work).pending = s.pending := (s.grantCopy_keeps work).2.2.2.2.2.2.2.2.2.2

theorem State.grantMigration_keeps (s : State) :
    (s.grantMigration).mode = s.mode ∧ (s.grantMigration).settings = s.settings ∧ (s.grantMigration).remap = s.remap ∧
    (s.grantMigration).watch = s.watch ∧ (s.grantMigration).injection = s.injection ∧ (s.grantMigration).upstream =
    s.upstream ∧ (s.grantMigration).scrubber = s.scrubber ∧ (s.grantMigration).records = s.records ∧
    (s.grantMigration).management = s.management ∧ (s.grantMigration).freeIndex = s.freeIndex ∧
    (s.grantMigration).pending = s.pending := by
  unfold State.grantMigration
  (repeat' split) <;> simp
@[simp] theorem State.grantMigration_mode (s : State) : (s.grantMigration).mode = s.mode := s.grantMigration_keeps.1
@[simp] theorem State.grantMigration_settings (s : State) : (s.grantMigration).settings = s.settings := s.grantMigration_keeps.2.1
@[simp] theorem State.grantMigration_remap (s : State) : (s.grantMigration).remap = s.remap := s.grantMigration_keeps.2.2.1
@[simp] theorem State.grantMigration_watch (s : State) : (s.grantMigration).watch = s.watch := s.grantMigration_keeps.2.2.2.1
@[simp] theorem State.grantMigration_injection (s : State) : (s.grantMigration).injection = s.injection := s.grantMigration_keeps.2.2.2.2.1
@[simp] theorem State.grantMigration_upstream (s : State) : (s.grantMigration).upstream = s.upstream := s.grantMigration_keeps.2.2.2.2.2.1
@[simp] theorem State.grantMigration_scrubber (s : State) : (s.grantMigration).scrubber = s.scrubber := s.grantMigration_keeps.2.2.2.2.2.2.1
@[simp] theorem State.grantMigration_records (s : State) : (s.grantMigration).records = s.records := s.grantMigration_keeps.2.2.2.2.2.2.2.1
@[simp] theorem State.grantMigration_management (s : State) : (s.grantMigration).management = s.management := s.grantMigration_keeps.2.2.2.2.2.2.2.2.1
@[simp] theorem State.grantMigration_freeIndex (s : State) : (s.grantMigration).freeIndex = s.freeIndex := s.grantMigration_keeps.2.2.2.2.2.2.2.2.2.1
@[simp] theorem State.grantMigration_pending (s : State) : (s.grantMigration).pending = s.pending := s.grantMigration_keeps.2.2.2.2.2.2.2.2.2.2

theorem State.grantScrub_keeps (s : State) :
    (s.grantScrub).mode = s.mode ∧ (s.grantScrub).settings = s.settings ∧ (s.grantScrub).remap = s.remap ∧
    (s.grantScrub).migration = s.migration ∧ (s.grantScrub).watch = s.watch ∧ (s.grantScrub).injection = s.injection ∧
    (s.grantScrub).upstream = s.upstream ∧ (s.grantScrub).records = s.records ∧ (s.grantScrub).management = s.management
    ∧ (s.grantScrub).freeIndex = s.freeIndex ∧ (s.grantScrub).pending = s.pending := by
  simp [State.grantScrub]
@[simp] theorem State.grantScrub_mode (s : State) : (s.grantScrub).mode = s.mode := s.grantScrub_keeps.1
@[simp] theorem State.grantScrub_settings (s : State) : (s.grantScrub).settings = s.settings := s.grantScrub_keeps.2.1
@[simp] theorem State.grantScrub_remap (s : State) : (s.grantScrub).remap = s.remap := s.grantScrub_keeps.2.2.1
@[simp] theorem State.grantScrub_migration (s : State) : (s.grantScrub).migration = s.migration := s.grantScrub_keeps.2.2.2.1
@[simp] theorem State.grantScrub_watch (s : State) : (s.grantScrub).watch = s.watch := s.grantScrub_keeps.2.2.2.2.1
@[simp] theorem State.grantScrub_injection (s : State) : (s.grantScrub).injection = s.injection := s.grantScrub_keeps.2.2.2.2.2.1
@[simp] theorem State.grantScrub_upstream (s : State) : (s.grantScrub).upstream = s.upstream := s.grantScrub_keeps.2.2.2.2.2.2.1
@[simp] theorem State.grantScrub_records (s : State) : (s.grantScrub).records = s.records := s.grantScrub_keeps.2.2.2.2.2.2.2.1
@[simp] theorem State.grantScrub_management (s : State) : (s.grantScrub).management = s.management := s.grantScrub_keeps.2.2.2.2.2.2.2.2.1
@[simp] theorem State.grantScrub_freeIndex (s : State) : (s.grantScrub).freeIndex = s.freeIndex := s.grantScrub_keeps.2.2.2.2.2.2.2.2.2.1
@[simp] theorem State.grantScrub_pending (s : State) : (s.grantScrub).pending = s.pending := s.grantScrub_keeps.2.2.2.2.2.2.2.2.2.2

theorem State.grant_keeps (s : State) (busy : List Requester) :
    (s.grant busy).mode = s.mode ∧ (s.grant busy).settings = s.settings ∧ (s.grant busy).remap = s.remap ∧ (s.grant
    busy).watch = s.watch ∧ (s.grant busy).management = s.management ∧ (s.grant busy).freeIndex = s.freeIndex ∧ (s.grant
    busy).pending = s.pending := by
  unfold State.grant
  (repeat' split) <;> simp
@[simp] theorem State.grant_mode (s : State) (busy : List Requester) : (s.grant busy).mode = s.mode := (s.grant_keeps busy).1
@[simp] theorem State.grant_settings (s : State) (busy : List Requester) : (s.grant busy).settings = s.settings := (s.grant_keeps busy).2.1
@[simp] theorem State.grant_remap (s : State) (busy : List Requester) : (s.grant busy).remap = s.remap := (s.grant_keeps busy).2.2.1
@[simp] theorem State.grant_watch (s : State) (busy : List Requester) : (s.grant busy).watch = s.watch := (s.grant_keeps busy).2.2.2.1
@[simp] theorem State.grant_management (s : State) (busy : List Requester) : (s.grant busy).management = s.management := (s.grant_keeps busy).2.2.2.2.1
@[simp] theorem State.grant_freeIndex (s : State) (busy : List Requester) : (s.grant busy).freeIndex = s.freeIndex := (s.grant_keeps busy).2.2.2.2.2.1
@[simp] theorem State.grant_pending (s : State) (busy : List Requester) : (s.grant busy).pending = s.pending := (s.grant_keeps busy).2.2.2.2.2.2

theorem State.endCopyRead_keeps (s : State) (block line : Nat) (e : Ending) :
    (s.endCopyRead block line e).mode = s.mode ∧ (s.endCopyRead block line e).settings = s.settings ∧ (s.endCopyRead
    block line e).injection = s.injection ∧ (s.endCopyRead block line e).scrubber = s.scrubber ∧ (s.endCopyRead block
    line e).management = s.management ∧ (s.endCopyRead block line e).freeIndex = s.freeIndex ∧ (s.endCopyRead block line
    e).pending = s.pending := by
  unfold State.endCopyRead
  (repeat' split) <;> simp
@[simp] theorem State.endCopyRead_mode (s : State) (block line : Nat) (e : Ending) : (s.endCopyRead block line e).mode = s.mode := (s.endCopyRead_keeps block line e).1
@[simp] theorem State.endCopyRead_settings (s : State) (block line : Nat) (e : Ending) : (s.endCopyRead block line e).settings = s.settings := (s.endCopyRead_keeps block line e).2.1
@[simp] theorem State.endCopyRead_injection (s : State) (block line : Nat) (e : Ending) : (s.endCopyRead block line e).injection = s.injection := (s.endCopyRead_keeps block line e).2.2.1
@[simp] theorem State.endCopyRead_scrubber (s : State) (block line : Nat) (e : Ending) : (s.endCopyRead block line e).scrubber = s.scrubber := (s.endCopyRead_keeps block line e).2.2.2.1
@[simp] theorem State.endCopyRead_management (s : State) (block line : Nat) (e : Ending) : (s.endCopyRead block line e).management = s.management := (s.endCopyRead_keeps block line e).2.2.2.2.1
@[simp] theorem State.endCopyRead_freeIndex (s : State) (block line : Nat) (e : Ending) : (s.endCopyRead block line e).freeIndex = s.freeIndex := (s.endCopyRead_keeps block line e).2.2.2.2.2.1
@[simp] theorem State.endCopyRead_pending (s : State) (block line : Nat) (e : Ending) : (s.endCopyRead block line e).pending = s.pending := (s.endCopyRead_keeps block line e).2.2.2.2.2.2

theorem State.endCopyWrite_keeps (s : State) (line : Nat) (e : Ending) :
    (s.endCopyWrite line e).mode = s.mode ∧ (s.endCopyWrite line e).settings = s.settings ∧ (s.endCopyWrite line
    e).injection = s.injection ∧ (s.endCopyWrite line e).writeBack = s.writeBack ∧ (s.endCopyWrite line e).scrubber =
    s.scrubber ∧ (s.endCopyWrite line e).management = s.management ∧ (s.endCopyWrite line e).freeIndex = s.freeIndex ∧
    (s.endCopyWrite line e).pending = s.pending := by
  unfold State.endCopyWrite
  (repeat' split) <;> simp
@[simp] theorem State.endCopyWrite_mode (s : State) (line : Nat) (e : Ending) : (s.endCopyWrite line e).mode = s.mode := (s.endCopyWrite_keeps line e).1
@[simp] theorem State.endCopyWrite_settings (s : State) (line : Nat) (e : Ending) : (s.endCopyWrite line e).settings = s.settings := (s.endCopyWrite_keeps line e).2.1
@[simp] theorem State.endCopyWrite_injection (s : State) (line : Nat) (e : Ending) : (s.endCopyWrite line e).injection = s.injection := (s.endCopyWrite_keeps line e).2.2.1
@[simp] theorem State.endCopyWrite_writeBack (s : State) (line : Nat) (e : Ending) : (s.endCopyWrite line e).writeBack = s.writeBack := (s.endCopyWrite_keeps line e).2.2.2.1
@[simp] theorem State.endCopyWrite_scrubber (s : State) (line : Nat) (e : Ending) : (s.endCopyWrite line e).scrubber = s.scrubber := (s.endCopyWrite_keeps line e).2.2.2.2.1
@[simp] theorem State.endCopyWrite_management (s : State) (line : Nat) (e : Ending) : (s.endCopyWrite line e).management = s.management := (s.endCopyWrite_keeps line e).2.2.2.2.2.1
@[simp] theorem State.endCopyWrite_freeIndex (s : State) (line : Nat) (e : Ending) : (s.endCopyWrite line e).freeIndex = s.freeIndex := (s.endCopyWrite_keeps line e).2.2.2.2.2.2.1
@[simp] theorem State.endCopyWrite_pending (s : State) (line : Nat) (e : Ending) : (s.endCopyWrite line e).pending = s.pending := (s.endCopyWrite_keeps line e).2.2.2.2.2.2.2

theorem State.endWriteBack_keeps (s : State) (a : Access) :
    (s.endWriteBack a).mode = s.mode ∧ (s.endWriteBack a).settings = s.settings ∧ (s.endWriteBack a).remap = s.remap ∧
    (s.endWriteBack a).migration = s.migration ∧ (s.endWriteBack a).watch = s.watch ∧ (s.endWriteBack a).injection =
    s.injection ∧ (s.endWriteBack a).upstream = s.upstream ∧ (s.endWriteBack a).port = s.port ∧ (s.endWriteBack
    a).scrubber = s.scrubber ∧ (s.endWriteBack a).records = s.records ∧ (s.endWriteBack a).management = s.management ∧
    (s.endWriteBack a).freeIndex = s.freeIndex ∧ (s.endWriteBack a).pending = s.pending := by
  simp [State.endWriteBack]
@[simp] theorem State.endWriteBack_mode (s : State) (a : Access) : (s.endWriteBack a).mode = s.mode := (s.endWriteBack_keeps a).1
@[simp] theorem State.endWriteBack_settings (s : State) (a : Access) : (s.endWriteBack a).settings = s.settings := (s.endWriteBack_keeps a).2.1
@[simp] theorem State.endWriteBack_remap (s : State) (a : Access) : (s.endWriteBack a).remap = s.remap := (s.endWriteBack_keeps a).2.2.1
@[simp] theorem State.endWriteBack_migration (s : State) (a : Access) : (s.endWriteBack a).migration = s.migration := (s.endWriteBack_keeps a).2.2.2.1
@[simp] theorem State.endWriteBack_watch (s : State) (a : Access) : (s.endWriteBack a).watch = s.watch := (s.endWriteBack_keeps a).2.2.2.2.1
@[simp] theorem State.endWriteBack_injection (s : State) (a : Access) : (s.endWriteBack a).injection = s.injection := (s.endWriteBack_keeps a).2.2.2.2.2.1
@[simp] theorem State.endWriteBack_upstream (s : State) (a : Access) : (s.endWriteBack a).upstream = s.upstream := (s.endWriteBack_keeps a).2.2.2.2.2.2.1
@[simp] theorem State.endWriteBack_port (s : State) (a : Access) : (s.endWriteBack a).port = s.port := (s.endWriteBack_keeps a).2.2.2.2.2.2.2.1
@[simp] theorem State.endWriteBack_scrubber (s : State) (a : Access) : (s.endWriteBack a).scrubber = s.scrubber := (s.endWriteBack_keeps a).2.2.2.2.2.2.2.2.1
@[simp] theorem State.endWriteBack_records (s : State) (a : Access) : (s.endWriteBack a).records = s.records := (s.endWriteBack_keeps a).2.2.2.2.2.2.2.2.2.1
@[simp] theorem State.endWriteBack_management (s : State) (a : Access) : (s.endWriteBack a).management = s.management := (s.endWriteBack_keeps a).2.2.2.2.2.2.2.2.2.2.1
@[simp] theorem State.endWriteBack_freeIndex (s : State) (a : Access) : (s.endWriteBack a).freeIndex = s.freeIndex := (s.endWriteBack_keeps a).2.2.2.2.2.2.2.2.2.2.2.1
@[simp] theorem State.endWriteBack_pending (s : State) (a : Access) : (s.endWriteBack a).pending = s.pending := (s.endWriteBack_keeps a).2.2.2.2.2.2.2.2.2.2.2.2

theorem State.receive_keeps (s : State) (a : Access) (ws : List StoredWord) :
    ((s.receive a ws).1).mode = s.mode ∧ ((s.receive a ws).1).settings = s.settings ∧ ((s.receive a ws).1).remap =
    s.remap ∧ ((s.receive a ws).1).migration = s.migration ∧ ((s.receive a ws).1).watch = s.watch ∧ ((s.receive a
    ws).1).injection = s.injection ∧ ((s.receive a ws).1).upstream = s.upstream ∧ ((s.receive a ws).1).port = s.port ∧
    ((s.receive a ws).1).writeBack = s.writeBack ∧ ((s.receive a ws).1).scrubber = s.scrubber ∧ ((s.receive a
    ws).1).records = s.records ∧ ((s.receive a ws).1).management = s.management ∧ ((s.receive a ws).1).pending =
    s.pending := by
  simp [State.receive]
@[simp] theorem State.receive_mode (s : State) (a : Access) (ws : List StoredWord) : ((s.receive a ws).1).mode = s.mode := (s.receive_keeps a ws).1
@[simp] theorem State.receive_settings (s : State) (a : Access) (ws : List StoredWord) : ((s.receive a ws).1).settings = s.settings := (s.receive_keeps a ws).2.1
@[simp] theorem State.receive_remap (s : State) (a : Access) (ws : List StoredWord) : ((s.receive a ws).1).remap = s.remap := (s.receive_keeps a ws).2.2.1
@[simp] theorem State.receive_migration (s : State) (a : Access) (ws : List StoredWord) : ((s.receive a ws).1).migration = s.migration := (s.receive_keeps a ws).2.2.2.1
@[simp] theorem State.receive_watch (s : State) (a : Access) (ws : List StoredWord) : ((s.receive a ws).1).watch = s.watch := (s.receive_keeps a ws).2.2.2.2.1
@[simp] theorem State.receive_injection (s : State) (a : Access) (ws : List StoredWord) : ((s.receive a ws).1).injection = s.injection := (s.receive_keeps a ws).2.2.2.2.2.1
@[simp] theorem State.receive_upstream (s : State) (a : Access) (ws : List StoredWord) : ((s.receive a ws).1).upstream = s.upstream := (s.receive_keeps a ws).2.2.2.2.2.2.1
@[simp] theorem State.receive_port (s : State) (a : Access) (ws : List StoredWord) : ((s.receive a ws).1).port = s.port := (s.receive_keeps a ws).2.2.2.2.2.2.2.1
@[simp] theorem State.receive_writeBack (s : State) (a : Access) (ws : List StoredWord) : ((s.receive a ws).1).writeBack = s.writeBack := (s.receive_keeps a ws).2.2.2.2.2.2.2.2.1
@[simp] theorem State.receive_scrubber (s : State) (a : Access) (ws : List StoredWord) : ((s.receive a ws).1).scrubber = s.scrubber := (s.receive_keeps a ws).2.2.2.2.2.2.2.2.2.1
@[simp] theorem State.receive_records (s : State) (a : Access) (ws : List StoredWord) : ((s.receive a ws).1).records = s.records := (s.receive_keeps a ws).2.2.2.2.2.2.2.2.2.2.1
@[simp] theorem State.receive_management (s : State) (a : Access) (ws : List StoredWord) : ((s.receive a ws).1).management = s.management := (s.receive_keeps a ws).2.2.2.2.2.2.2.2.2.2.2.1
@[simp] theorem State.receive_pending (s : State) (a : Access) (ws : List StoredWord) : ((s.receive a ws).1).pending = s.pending := (s.receive_keeps a ws).2.2.2.2.2.2.2.2.2.2.2.2

theorem State.hand_keeps (s : State) (a : Access) (e : Ending) :
    (s.hand a e).mode = s.mode ∧ (s.hand a e).settings = s.settings ∧ (s.hand a e).injection = s.injection ∧ (s.hand a
    e).management = s.management ∧ (s.hand a e).freeIndex = s.freeIndex ∧ (s.hand a e).pending = s.pending := by
  unfold State.hand
  (repeat' split) <;> simp
@[simp] theorem State.hand_mode (s : State) (a : Access) (e : Ending) : (s.hand a e).mode = s.mode := (s.hand_keeps a e).1
@[simp] theorem State.hand_settings (s : State) (a : Access) (e : Ending) : (s.hand a e).settings = s.settings := (s.hand_keeps a e).2.1
@[simp] theorem State.hand_injection (s : State) (a : Access) (e : Ending) : (s.hand a e).injection = s.injection := (s.hand_keeps a e).2.2.1
@[simp] theorem State.hand_management (s : State) (a : Access) (e : Ending) : (s.hand a e).management = s.management := (s.hand_keeps a e).2.2.2.1
@[simp] theorem State.hand_freeIndex (s : State) (a : Access) (e : Ending) : (s.hand a e).freeIndex = s.freeIndex := (s.hand_keeps a e).2.2.2.2.1
@[simp] theorem State.hand_pending (s : State) (a : Access) (e : Ending) : (s.hand a e).pending = s.pending := (s.hand_keeps a e).2.2.2.2.2

theorem State.handOk_keeps (s : State) (a : Access) (ws : List StoredWord) :
    (s.handOk a ws).mode = s.mode ∧ (s.handOk a ws).settings = s.settings ∧ (s.handOk a ws).injection = s.injection ∧
    (s.handOk a ws).management = s.management ∧ (s.handOk a ws).pending = s.pending := by
  unfold State.handOk
  (repeat' split) <;> simp
@[simp] theorem State.handOk_mode (s : State) (a : Access) (ws : List StoredWord) : (s.handOk a ws).mode = s.mode := (s.handOk_keeps a ws).1
@[simp] theorem State.handOk_settings (s : State) (a : Access) (ws : List StoredWord) : (s.handOk a ws).settings = s.settings := (s.handOk_keeps a ws).2.1
@[simp] theorem State.handOk_injection (s : State) (a : Access) (ws : List StoredWord) : (s.handOk a ws).injection = s.injection := (s.handOk_keeps a ws).2.2.1
@[simp] theorem State.handOk_management (s : State) (a : Access) (ws : List StoredWord) : (s.handOk a ws).management = s.management := (s.handOk_keeps a ws).2.2.2.1
@[simp] theorem State.handOk_pending (s : State) (a : Access) (ws : List StoredWord) : (s.handOk a ws).pending = s.pending := (s.handOk_keeps a ws).2.2.2.2

theorem State.grantIfFirst_keeps (s : State) (g : Bool) (a : Access) (failed : Bool) :
    (s.grantIfFirst g a failed).mode = s.mode ∧ (s.grantIfFirst g a failed).settings = s.settings ∧ (s.grantIfFirst g a failed).remap =
    s.remap ∧ (s.grantIfFirst g a failed).watch = s.watch ∧ (s.grantIfFirst g a failed).management = s.management ∧ (s.grantIfFirst g a failed).freeIndex = s.freeIndex ∧ (s.grantIfFirst g a failed).pending = s.pending := by
  unfold State.grantIfFirst
  (repeat' split) <;> simp
@[simp] theorem State.grantIfFirst_mode (s : State) (g : Bool) (a : Access) (failed : Bool) : (s.grantIfFirst g a failed).mode = s.mode := (s.grantIfFirst_keeps g a failed).1
@[simp] theorem State.grantIfFirst_settings (s : State) (g : Bool) (a : Access) (failed : Bool) : (s.grantIfFirst g a failed).settings = s.settings := (s.grantIfFirst_keeps g a failed).2.1
@[simp] theorem State.grantIfFirst_remap (s : State) (g : Bool) (a : Access) (failed : Bool) : (s.grantIfFirst g a failed).remap = s.remap := (s.grantIfFirst_keeps g a failed).2.2.1
@[simp] theorem State.grantIfFirst_watch (s : State) (g : Bool) (a : Access) (failed : Bool) : (s.grantIfFirst g a failed).watch = s.watch := (s.grantIfFirst_keeps g a failed).2.2.2.1
@[simp] theorem State.grantIfFirst_management (s : State) (g : Bool) (a : Access) (failed : Bool) : (s.grantIfFirst g a failed).management = s.management := (s.grantIfFirst_keeps g a failed).2.2.2.2.1
@[simp] theorem State.grantIfFirst_freeIndex (s : State) (g : Bool) (a : Access) (failed : Bool) : (s.grantIfFirst g a failed).freeIndex = s.freeIndex := (s.grantIfFirst_keeps g a failed).2.2.2.2.2.1
@[simp] theorem State.grantIfFirst_pending (s : State) (g : Bool) (a : Access) (failed : Bool) : (s.grantIfFirst g a failed).pending = s.pending := (s.grantIfFirst_keeps g a failed).2.2.2.2.2.2

theorem State.linkGoesDown_keeps (s : State) :
    (s.linkGoesDown).mode = s.mode ∧ (s.linkGoesDown).settings = s.settings ∧ (s.linkGoesDown).remap = s.remap ∧
    (s.linkGoesDown).migration = s.migration ∧ (s.linkGoesDown).watch = s.watch ∧ (s.linkGoesDown).injection =
    s.injection ∧ (s.linkGoesDown).upstream = s.upstream ∧ (s.linkGoesDown).writeBack = s.writeBack ∧
    (s.linkGoesDown).management = s.management ∧ (s.linkGoesDown).freeIndex = s.freeIndex ∧ (s.linkGoesDown).pending =
    s.pending := by
  simp [State.linkGoesDown]
@[simp] theorem State.linkGoesDown_mode (s : State) : (s.linkGoesDown).mode = s.mode := s.linkGoesDown_keeps.1
@[simp] theorem State.linkGoesDown_settings (s : State) : (s.linkGoesDown).settings = s.settings := s.linkGoesDown_keeps.2.1
@[simp] theorem State.linkGoesDown_remap (s : State) : (s.linkGoesDown).remap = s.remap := s.linkGoesDown_keeps.2.2.1
@[simp] theorem State.linkGoesDown_migration (s : State) : (s.linkGoesDown).migration = s.migration := s.linkGoesDown_keeps.2.2.2.1
@[simp] theorem State.linkGoesDown_watch (s : State) : (s.linkGoesDown).watch = s.watch := s.linkGoesDown_keeps.2.2.2.2.1
@[simp] theorem State.linkGoesDown_injection (s : State) : (s.linkGoesDown).injection = s.injection := s.linkGoesDown_keeps.2.2.2.2.2.1
@[simp] theorem State.linkGoesDown_upstream (s : State) : (s.linkGoesDown).upstream = s.upstream := s.linkGoesDown_keeps.2.2.2.2.2.2.1
@[simp] theorem State.linkGoesDown_writeBack (s : State) : (s.linkGoesDown).writeBack = s.writeBack := s.linkGoesDown_keeps.2.2.2.2.2.2.2.1
@[simp] theorem State.linkGoesDown_management (s : State) : (s.linkGoesDown).management = s.management := s.linkGoesDown_keeps.2.2.2.2.2.2.2.2.1
@[simp] theorem State.linkGoesDown_freeIndex (s : State) : (s.linkGoesDown).freeIndex = s.freeIndex := s.linkGoesDown_keeps.2.2.2.2.2.2.2.2.2.1
@[simp] theorem State.linkGoesDown_pending (s : State) : (s.linkGoesDown).pending = s.pending := s.linkGoesDown_keeps.2.2.2.2.2.2.2.2.2.2

theorem State.expireResponse_keeps (s : State) (g : Bool) :
    (s.expireResponse g).mode = s.mode ∧ (s.expireResponse g).settings = s.settings ∧ (s.expireResponse g).management =
    s.management ∧ (s.expireResponse g).freeIndex = s.freeIndex ∧ (s.expireResponse g).pending = s.pending := by
  unfold State.expireResponse
  split
  · simp
  · dsimp only
    split <;> simp
@[simp] theorem State.expireResponse_mode (s : State) (g : Bool) : (s.expireResponse g).mode = s.mode := (s.expireResponse_keeps g).1
@[simp] theorem State.expireResponse_settings (s : State) (g : Bool) : (s.expireResponse g).settings = s.settings := (s.expireResponse_keeps g).2.1
@[simp] theorem State.expireResponse_management (s : State) (g : Bool) : (s.expireResponse g).management = s.management := (s.expireResponse_keeps g).2.2.1
@[simp] theorem State.expireResponse_freeIndex (s : State) (g : Bool) : (s.expireResponse g).freeIndex = s.freeIndex := (s.expireResponse_keeps g).2.2.2.1
@[simp] theorem State.expireResponse_pending (s : State) (g : Bool) : (s.expireResponse g).pending = s.pending := (s.expireResponse_keeps g).2.2.2.2

theorem State.strayResponse_keeps (s : State) (tag : Tag) :
    (s.strayResponse tag).mode = s.mode ∧ (s.strayResponse tag).settings = s.settings ∧ (s.strayResponse tag).remap =
    s.remap ∧ (s.strayResponse tag).migration = s.migration ∧ (s.strayResponse tag).watch = s.watch ∧ (s.strayResponse
    tag).injection = s.injection ∧ (s.strayResponse tag).upstream = s.upstream ∧ (s.strayResponse tag).writeBack =
    s.writeBack ∧ (s.strayResponse tag).scrubber = s.scrubber ∧ (s.strayResponse tag).management = s.management ∧
    (s.strayResponse tag).freeIndex = s.freeIndex ∧ (s.strayResponse tag).pending = s.pending := by
  unfold State.strayResponse
  (repeat' split) <;> simp
@[simp] theorem State.strayResponse_mode (s : State) (tag : Tag) : (s.strayResponse tag).mode = s.mode := (s.strayResponse_keeps tag).1
@[simp] theorem State.strayResponse_settings (s : State) (tag : Tag) : (s.strayResponse tag).settings = s.settings := (s.strayResponse_keeps tag).2.1
@[simp] theorem State.strayResponse_remap (s : State) (tag : Tag) : (s.strayResponse tag).remap = s.remap := (s.strayResponse_keeps tag).2.2.1
@[simp] theorem State.strayResponse_migration (s : State) (tag : Tag) : (s.strayResponse tag).migration = s.migration := (s.strayResponse_keeps tag).2.2.2.1
@[simp] theorem State.strayResponse_watch (s : State) (tag : Tag) : (s.strayResponse tag).watch = s.watch := (s.strayResponse_keeps tag).2.2.2.2.1
@[simp] theorem State.strayResponse_injection (s : State) (tag : Tag) : (s.strayResponse tag).injection = s.injection := (s.strayResponse_keeps tag).2.2.2.2.2.1
@[simp] theorem State.strayResponse_upstream (s : State) (tag : Tag) : (s.strayResponse tag).upstream = s.upstream := (s.strayResponse_keeps tag).2.2.2.2.2.2.1
@[simp] theorem State.strayResponse_writeBack (s : State) (tag : Tag) : (s.strayResponse tag).writeBack = s.writeBack := (s.strayResponse_keeps tag).2.2.2.2.2.2.2.1
@[simp] theorem State.strayResponse_scrubber (s : State) (tag : Tag) : (s.strayResponse tag).scrubber = s.scrubber := (s.strayResponse_keeps tag).2.2.2.2.2.2.2.2.1
@[simp] theorem State.strayResponse_management (s : State) (tag : Tag) : (s.strayResponse tag).management = s.management := (s.strayResponse_keeps tag).2.2.2.2.2.2.2.2.2.1
@[simp] theorem State.strayResponse_freeIndex (s : State) (tag : Tag) : (s.strayResponse tag).freeIndex = s.freeIndex := (s.strayResponse_keeps tag).2.2.2.2.2.2.2.2.2.2.1
@[simp] theorem State.strayResponse_pending (s : State) (tag : Tag) : (s.strayResponse tag).pending = s.pending := (s.strayResponse_keeps tag).2.2.2.2.2.2.2.2.2.2.2

theorem State.answerAccess_keeps (s : State) (a : Access) (r : MemResult) (ws : List StoredWord) (g : Bool) :
    (s.answerAccess a r ws g).mode = s.mode ∧ (s.answerAccess a r ws g).settings = s.settings ∧ (s.answerAccess a r ws
    g).management = s.management ∧ (s.answerAccess a r ws g).pending = s.pending := by
  unfold State.answerAccess
  (repeat' split) <;> simp
@[simp] theorem State.answerAccess_mode (s : State) (a : Access) (r : MemResult) (ws : List StoredWord) (g : Bool) : (s.answerAccess a r ws g).mode = s.mode := (s.answerAccess_keeps a r ws g).1
@[simp] theorem State.answerAccess_settings (s : State) (a : Access) (r : MemResult) (ws : List StoredWord) (g : Bool) : (s.answerAccess a r ws g).settings = s.settings := (s.answerAccess_keeps a r ws g).2.1
@[simp] theorem State.answerAccess_management (s : State) (a : Access) (r : MemResult) (ws : List StoredWord) (g : Bool) : (s.answerAccess a r ws g).management = s.management := (s.answerAccess_keeps a r ws g).2.2.1
@[simp] theorem State.answerAccess_pending (s : State) (a : Access) (r : MemResult) (ws : List StoredWord) (g : Bool) : (s.answerAccess a r ws g).pending = s.pending := (s.answerAccess_keeps a r ws g).2.2.2

theorem State.takeResponse_keeps (s : State) (tag : Tag) (r : MemResult) (ws : List StoredWord) (g : Bool) :
    (s.takeResponse tag r ws g).mode = s.mode ∧ (s.takeResponse tag r ws g).settings = s.settings ∧ (s.takeResponse tag
    r ws g).management = s.management ∧ (s.takeResponse tag r ws g).pending = s.pending := by
  unfold State.takeResponse
  (repeat' split) <;> simp
@[simp] theorem State.takeResponse_mode (s : State) (tag : Tag) (r : MemResult) (ws : List StoredWord) (g : Bool) : (s.takeResponse tag r ws g).mode = s.mode := (s.takeResponse_keeps tag r ws g).1
@[simp] theorem State.takeResponse_settings (s : State) (tag : Tag) (r : MemResult) (ws : List StoredWord) (g : Bool) : (s.takeResponse tag r ws g).settings = s.settings := (s.takeResponse_keeps tag r ws g).2.1
@[simp] theorem State.takeResponse_management (s : State) (tag : Tag) (r : MemResult) (ws : List StoredWord) (g : Bool) : (s.takeResponse tag r ws g).management = s.management := (s.takeResponse_keeps tag r ws g).2.2.1
@[simp] theorem State.takeResponse_pending (s : State) (tag : Tag) (r : MemResult) (ws : List StoredWord) (g : Bool) : (s.takeResponse tag r ws g).pending = s.pending := (s.takeResponse_keeps tag r ws g).2.2.2

theorem State.checkResponseTimer_keeps (s : State) :
    (s.checkResponseTimer).mode = s.mode ∧ (s.checkResponseTimer).settings = s.settings ∧
    (s.checkResponseTimer).management = s.management ∧ (s.checkResponseTimer).freeIndex = s.freeIndex ∧
    (s.checkResponseTimer).pending = s.pending := by
  unfold State.checkResponseTimer
  (repeat' split) <;> simp
@[simp] theorem State.checkResponseTimer_mode (s : State) : (s.checkResponseTimer).mode = s.mode := s.checkResponseTimer_keeps.1
@[simp] theorem State.checkResponseTimer_settings (s : State) : (s.checkResponseTimer).settings = s.settings := s.checkResponseTimer_keeps.2.1
@[simp] theorem State.checkResponseTimer_management (s : State) : (s.checkResponseTimer).management = s.management := s.checkResponseTimer_keeps.2.2.1
@[simp] theorem State.checkResponseTimer_freeIndex (s : State) : (s.checkResponseTimer).freeIndex = s.freeIndex := s.checkResponseTimer_keeps.2.2.2.1
@[simp] theorem State.checkResponseTimer_pending (s : State) : (s.checkResponseTimer).pending = s.pending := s.checkResponseTimer_keeps.2.2.2.2

theorem State.checkIntervalTimer_keeps (s : State) :
    (s.checkIntervalTimer).mode = s.mode ∧ (s.checkIntervalTimer).settings = s.settings ∧ (s.checkIntervalTimer).remap =
    s.remap ∧ (s.checkIntervalTimer).migration = s.migration ∧ (s.checkIntervalTimer).watch = s.watch ∧
    (s.checkIntervalTimer).injection = s.injection ∧ (s.checkIntervalTimer).upstream = s.upstream ∧
    (s.checkIntervalTimer).port = s.port ∧ (s.checkIntervalTimer).writeBack = s.writeBack ∧
    (s.checkIntervalTimer).records = s.records ∧ (s.checkIntervalTimer).management = s.management ∧
    (s.checkIntervalTimer).freeIndex = s.freeIndex ∧ (s.checkIntervalTimer).pending = s.pending := by
  unfold State.checkIntervalTimer
  (repeat' split) <;> simp
@[simp] theorem State.checkIntervalTimer_mode (s : State) : (s.checkIntervalTimer).mode = s.mode := s.checkIntervalTimer_keeps.1
@[simp] theorem State.checkIntervalTimer_settings (s : State) : (s.checkIntervalTimer).settings = s.settings := s.checkIntervalTimer_keeps.2.1
@[simp] theorem State.checkIntervalTimer_remap (s : State) : (s.checkIntervalTimer).remap = s.remap := s.checkIntervalTimer_keeps.2.2.1
@[simp] theorem State.checkIntervalTimer_migration (s : State) : (s.checkIntervalTimer).migration = s.migration := s.checkIntervalTimer_keeps.2.2.2.1
@[simp] theorem State.checkIntervalTimer_watch (s : State) : (s.checkIntervalTimer).watch = s.watch := s.checkIntervalTimer_keeps.2.2.2.2.1
@[simp] theorem State.checkIntervalTimer_injection (s : State) : (s.checkIntervalTimer).injection = s.injection := s.checkIntervalTimer_keeps.2.2.2.2.2.1
@[simp] theorem State.checkIntervalTimer_upstream (s : State) : (s.checkIntervalTimer).upstream = s.upstream := s.checkIntervalTimer_keeps.2.2.2.2.2.2.1
@[simp] theorem State.checkIntervalTimer_port (s : State) : (s.checkIntervalTimer).port = s.port := s.checkIntervalTimer_keeps.2.2.2.2.2.2.2.1
@[simp] theorem State.checkIntervalTimer_writeBack (s : State) : (s.checkIntervalTimer).writeBack = s.writeBack := s.checkIntervalTimer_keeps.2.2.2.2.2.2.2.2.1
@[simp] theorem State.checkIntervalTimer_records (s : State) : (s.checkIntervalTimer).records = s.records := s.checkIntervalTimer_keeps.2.2.2.2.2.2.2.2.2.1
@[simp] theorem State.checkIntervalTimer_management (s : State) : (s.checkIntervalTimer).management = s.management := s.checkIntervalTimer_keeps.2.2.2.2.2.2.2.2.2.2.1
@[simp] theorem State.checkIntervalTimer_freeIndex (s : State) : (s.checkIntervalTimer).freeIndex = s.freeIndex := s.checkIntervalTimer_keeps.2.2.2.2.2.2.2.2.2.2.2.1
@[simp] theorem State.checkIntervalTimer_pending (s : State) : (s.checkIntervalTimer).pending = s.pending := s.checkIntervalTimer_keeps.2.2.2.2.2.2.2.2.2.2.2.2

theorem State.passMicrosecond_keeps (s : State) :
    (s.passMicrosecond).mode = s.mode ∧ (s.passMicrosecond).settings = s.settings ∧ (s.passMicrosecond).remap = s.remap
    ∧ (s.passMicrosecond).migration = s.migration ∧ (s.passMicrosecond).watch = s.watch ∧ (s.passMicrosecond).injection
    = s.injection ∧ (s.passMicrosecond).upstream = s.upstream ∧ (s.passMicrosecond).writeBack = s.writeBack ∧
    (s.passMicrosecond).records = s.records ∧ (s.passMicrosecond).management = s.management ∧
    (s.passMicrosecond).freeIndex = s.freeIndex ∧ (s.passMicrosecond).pending = s.pending := by
  simp [State.passMicrosecond]
@[simp] theorem State.passMicrosecond_mode (s : State) : (s.passMicrosecond).mode = s.mode := s.passMicrosecond_keeps.1
@[simp] theorem State.passMicrosecond_settings (s : State) : (s.passMicrosecond).settings = s.settings := s.passMicrosecond_keeps.2.1
@[simp] theorem State.passMicrosecond_remap (s : State) : (s.passMicrosecond).remap = s.remap := s.passMicrosecond_keeps.2.2.1
@[simp] theorem State.passMicrosecond_migration (s : State) : (s.passMicrosecond).migration = s.migration := s.passMicrosecond_keeps.2.2.2.1
@[simp] theorem State.passMicrosecond_watch (s : State) : (s.passMicrosecond).watch = s.watch := s.passMicrosecond_keeps.2.2.2.2.1
@[simp] theorem State.passMicrosecond_injection (s : State) : (s.passMicrosecond).injection = s.injection := s.passMicrosecond_keeps.2.2.2.2.2.1
@[simp] theorem State.passMicrosecond_upstream (s : State) : (s.passMicrosecond).upstream = s.upstream := s.passMicrosecond_keeps.2.2.2.2.2.2.1
@[simp] theorem State.passMicrosecond_writeBack (s : State) : (s.passMicrosecond).writeBack = s.writeBack := s.passMicrosecond_keeps.2.2.2.2.2.2.2.1
@[simp] theorem State.passMicrosecond_records (s : State) : (s.passMicrosecond).records = s.records := s.passMicrosecond_keeps.2.2.2.2.2.2.2.2.1
@[simp] theorem State.passMicrosecond_management (s : State) : (s.passMicrosecond).management = s.management := s.passMicrosecond_keeps.2.2.2.2.2.2.2.2.2.1
@[simp] theorem State.passMicrosecond_freeIndex (s : State) : (s.passMicrosecond).freeIndex = s.freeIndex := s.passMicrosecond_keeps.2.2.2.2.2.2.2.2.2.2.1
@[simp] theorem State.passMicrosecond_pending (s : State) : (s.passMicrosecond).pending = s.pending := s.passMicrosecond_keeps.2.2.2.2.2.2.2.2.2.2.2

theorem State.tick_keeps (s : State) :
    (s.tick).mode = s.mode ∧ (s.tick).settings = s.settings ∧ (s.tick).management = s.management ∧ (s.tick).freeIndex =
    s.freeIndex ∧ (s.tick).pending = s.pending := by
  simp [State.tick]
@[simp] theorem State.tick_mode (s : State) : (s.tick).mode = s.mode := s.tick_keeps.1
@[simp] theorem State.tick_settings (s : State) : (s.tick).settings = s.settings := s.tick_keeps.2.1
@[simp] theorem State.tick_management (s : State) : (s.tick).management = s.management := s.tick_keeps.2.2.1
@[simp] theorem State.tick_freeIndex (s : State) : (s.tick).freeIndex = s.freeIndex := s.tick_keeps.2.2.2.1
@[simp] theorem State.tick_pending (s : State) : (s.tick).pending = s.pending := s.tick_keeps.2.2.2.2

theorem State.dropTransactions_keeps (s : State) :
    (s.dropTransactions).mode = s.mode ∧ (s.dropTransactions).settings = s.settings ∧ (s.dropTransactions).remap =
    s.remap ∧ (s.dropTransactions).migration = s.migration ∧ (s.dropTransactions).watch = s.watch ∧
    (s.dropTransactions).injection = s.injection ∧ (s.dropTransactions).writeBack = s.writeBack ∧
    (s.dropTransactions).scrubber = s.scrubber ∧ (s.dropTransactions).records = s.records ∧
    (s.dropTransactions).management = s.management ∧ (s.dropTransactions).freeIndex = s.freeIndex ∧
    (s.dropTransactions).pending = s.pending := by
  simp [State.dropTransactions]
@[simp] theorem State.dropTransactions_mode (s : State) : (s.dropTransactions).mode = s.mode := s.dropTransactions_keeps.1
@[simp] theorem State.dropTransactions_settings (s : State) : (s.dropTransactions).settings = s.settings := s.dropTransactions_keeps.2.1
@[simp] theorem State.dropTransactions_remap (s : State) : (s.dropTransactions).remap = s.remap := s.dropTransactions_keeps.2.2.1
@[simp] theorem State.dropTransactions_migration (s : State) : (s.dropTransactions).migration = s.migration := s.dropTransactions_keeps.2.2.2.1
@[simp] theorem State.dropTransactions_watch (s : State) : (s.dropTransactions).watch = s.watch := s.dropTransactions_keeps.2.2.2.2.1
@[simp] theorem State.dropTransactions_injection (s : State) : (s.dropTransactions).injection = s.injection := s.dropTransactions_keeps.2.2.2.2.2.1
@[simp] theorem State.dropTransactions_writeBack (s : State) : (s.dropTransactions).writeBack = s.writeBack := s.dropTransactions_keeps.2.2.2.2.2.2.1
@[simp] theorem State.dropTransactions_scrubber (s : State) : (s.dropTransactions).scrubber = s.scrubber := s.dropTransactions_keeps.2.2.2.2.2.2.2.1
@[simp] theorem State.dropTransactions_records (s : State) : (s.dropTransactions).records = s.records := s.dropTransactions_keeps.2.2.2.2.2.2.2.2.1
@[simp] theorem State.dropTransactions_management (s : State) : (s.dropTransactions).management = s.management := s.dropTransactions_keeps.2.2.2.2.2.2.2.2.2.1
@[simp] theorem State.dropTransactions_freeIndex (s : State) : (s.dropTransactions).freeIndex = s.freeIndex := s.dropTransactions_keeps.2.2.2.2.2.2.2.2.2.2.1
@[simp] theorem State.dropTransactions_pending (s : State) : (s.dropTransactions).pending = s.pending := s.dropTransactions_keeps.2.2.2.2.2.2.2.2.2.2.2

theorem State.systemReset_keeps (s : State) :
    (s.systemReset).settings = s.settings ∧ (s.systemReset).management = s.management ∧ (s.systemReset).freeIndex =
    s.freeIndex ∧ (s.systemReset).pending = s.pending := by
  simp [State.systemReset]
@[simp] theorem State.systemReset_settings (s : State) : (s.systemReset).settings = s.settings := s.systemReset_keeps.1
@[simp] theorem State.systemReset_management (s : State) : (s.systemReset).management = s.management := s.systemReset_keeps.2.1
@[simp] theorem State.systemReset_freeIndex (s : State) : (s.systemReset).freeIndex = s.freeIndex := s.systemReset_keeps.2.2.1
@[simp] theorem State.systemReset_pending (s : State) : (s.systemReset).pending = s.pending := s.systemReset_keeps.2.2.2

theorem State.endStopping_keeps (s : State) :
    (s.endStopping).settings = s.settings ∧ (s.endStopping).remap = s.remap ∧ (s.endStopping).migration = s.migration ∧
    (s.endStopping).watch = s.watch ∧ (s.endStopping).injection = s.injection ∧ (s.endStopping).upstream = s.upstream ∧
    (s.endStopping).port = s.port ∧ (s.endStopping).writeBack = s.writeBack ∧ (s.endStopping).scrubber = s.scrubber ∧
    (s.endStopping).records = s.records ∧ (s.endStopping).management = s.management ∧ (s.endStopping).freeIndex =
    s.freeIndex ∧ (s.endStopping).pending = s.pending := by
  unfold State.endStopping
  (repeat' split) <;> simp
@[simp] theorem State.endStopping_settings (s : State) : (s.endStopping).settings = s.settings := s.endStopping_keeps.1
@[simp] theorem State.endStopping_remap (s : State) : (s.endStopping).remap = s.remap := s.endStopping_keeps.2.1
@[simp] theorem State.endStopping_migration (s : State) : (s.endStopping).migration = s.migration := s.endStopping_keeps.2.2.1
@[simp] theorem State.endStopping_watch (s : State) : (s.endStopping).watch = s.watch := s.endStopping_keeps.2.2.2.1
@[simp] theorem State.endStopping_injection (s : State) : (s.endStopping).injection = s.injection := s.endStopping_keeps.2.2.2.2.1
@[simp] theorem State.endStopping_upstream (s : State) : (s.endStopping).upstream = s.upstream := s.endStopping_keeps.2.2.2.2.2.1
@[simp] theorem State.endStopping_port (s : State) : (s.endStopping).port = s.port := s.endStopping_keeps.2.2.2.2.2.2.1
@[simp] theorem State.endStopping_writeBack (s : State) : (s.endStopping).writeBack = s.writeBack := s.endStopping_keeps.2.2.2.2.2.2.2.1
@[simp] theorem State.endStopping_scrubber (s : State) : (s.endStopping).scrubber = s.scrubber := s.endStopping_keeps.2.2.2.2.2.2.2.2.1
@[simp] theorem State.endStopping_records (s : State) : (s.endStopping).records = s.records := s.endStopping_keeps.2.2.2.2.2.2.2.2.2.1
@[simp] theorem State.endStopping_management (s : State) : (s.endStopping).management = s.management := s.endStopping_keeps.2.2.2.2.2.2.2.2.2.2.1
@[simp] theorem State.endStopping_freeIndex (s : State) : (s.endStopping).freeIndex = s.freeIndex := s.endStopping_keeps.2.2.2.2.2.2.2.2.2.2.2.1
@[simp] theorem State.endStopping_pending (s : State) : (s.endStopping).pending = s.pending := s.endStopping_keeps.2.2.2.2.2.2.2.2.2.2.2.2

theorem State.accept_keeps (s : State) (t : Transaction) :
    (s.accept t).mode = s.mode ∧ (s.accept t).settings = s.settings ∧ (s.accept t).injection = s.injection ∧ (s.accept
    t).scrubber = s.scrubber ∧ (s.accept t).management = s.management ∧ (s.accept t).freeIndex = s.freeIndex ∧ (s.accept
    t).pending = s.pending := by
  unfold State.accept
  (repeat' split) <;> simp
@[simp] theorem State.accept_mode (s : State) (t : Transaction) : (s.accept t).mode = s.mode := (s.accept_keeps t).1
@[simp] theorem State.accept_settings (s : State) (t : Transaction) : (s.accept t).settings = s.settings := (s.accept_keeps t).2.1
@[simp] theorem State.accept_injection (s : State) (t : Transaction) : (s.accept t).injection = s.injection := (s.accept_keeps t).2.2.1
@[simp] theorem State.accept_scrubber (s : State) (t : Transaction) : (s.accept t).scrubber = s.scrubber := (s.accept_keeps t).2.2.2.1
@[simp] theorem State.accept_management (s : State) (t : Transaction) : (s.accept t).management = s.management := (s.accept_keeps t).2.2.2.2.1
@[simp] theorem State.accept_freeIndex (s : State) (t : Transaction) : (s.accept t).freeIndex = s.freeIndex := (s.accept_keeps t).2.2.2.2.2.1
@[simp] theorem State.accept_pending (s : State) (t : Transaction) : (s.accept t).pending = s.pending := (s.accept_keeps t).2.2.2.2.2.2

theorem State.leaveQueue_keeps (s : State) :
    (s.leaveQueue).settings = s.settings ∧ (s.leaveQueue).injection = s.injection ∧ (s.leaveQueue).scrubber = s.scrubber
    ∧ (s.leaveQueue).management = s.management ∧ (s.leaveQueue).freeIndex = s.freeIndex ∧ (s.leaveQueue).pending =
    s.pending := by
  simp [State.leaveQueue]
@[simp] theorem State.leaveQueue_settings (s : State) : (s.leaveQueue).settings = s.settings := s.leaveQueue_keeps.1
@[simp] theorem State.leaveQueue_injection (s : State) : (s.leaveQueue).injection = s.injection := s.leaveQueue_keeps.2.1
@[simp] theorem State.leaveQueue_scrubber (s : State) : (s.leaveQueue).scrubber = s.scrubber := s.leaveQueue_keeps.2.2.1
@[simp] theorem State.leaveQueue_management (s : State) : (s.leaveQueue).management = s.management := s.leaveQueue_keeps.2.2.2.1
@[simp] theorem State.leaveQueue_freeIndex (s : State) : (s.leaveQueue).freeIndex = s.freeIndex := s.leaveQueue_keeps.2.2.2.2.1
@[simp] theorem State.leaveQueue_pending (s : State) : (s.leaveQueue).pending = s.pending := s.leaveQueue_keeps.2.2.2.2.2

theorem State.pruneTables_keeps (s : State) :
    (s.pruneTables).mode = s.mode ∧ (s.pruneTables).settings = s.settings ∧ (s.pruneTables).remap = s.remap ∧
    (s.pruneTables).injection = s.injection ∧ (s.pruneTables).upstream = s.upstream ∧ (s.pruneTables).port = s.port ∧
    (s.pruneTables).writeBack = s.writeBack ∧ (s.pruneTables).scrubber = s.scrubber ∧ (s.pruneTables).records =
    s.records ∧ (s.pruneTables).management = s.management ∧ (s.pruneTables).freeIndex = s.freeIndex ∧
    (s.pruneTables).pending = s.pending := by
  simp [State.pruneTables]
@[simp] theorem State.pruneTables_mode (s : State) : (s.pruneTables).mode = s.mode := s.pruneTables_keeps.1
@[simp] theorem State.pruneTables_settings (s : State) : (s.pruneTables).settings = s.settings := s.pruneTables_keeps.2.1
@[simp] theorem State.pruneTables_remap (s : State) : (s.pruneTables).remap = s.remap := s.pruneTables_keeps.2.2.1
@[simp] theorem State.pruneTables_injection (s : State) : (s.pruneTables).injection = s.injection := s.pruneTables_keeps.2.2.2.1
@[simp] theorem State.pruneTables_upstream (s : State) : (s.pruneTables).upstream = s.upstream := s.pruneTables_keeps.2.2.2.2.1
@[simp] theorem State.pruneTables_port (s : State) : (s.pruneTables).port = s.port := s.pruneTables_keeps.2.2.2.2.2.1
@[simp] theorem State.pruneTables_writeBack (s : State) : (s.pruneTables).writeBack = s.writeBack := s.pruneTables_keeps.2.2.2.2.2.2.1
@[simp] theorem State.pruneTables_scrubber (s : State) : (s.pruneTables).scrubber = s.scrubber := s.pruneTables_keeps.2.2.2.2.2.2.2.1
@[simp] theorem State.pruneTables_records (s : State) : (s.pruneTables).records = s.records := s.pruneTables_keeps.2.2.2.2.2.2.2.2.1
@[simp] theorem State.pruneTables_management (s : State) : (s.pruneTables).management = s.management := s.pruneTables_keeps.2.2.2.2.2.2.2.2.2.1
@[simp] theorem State.pruneTables_freeIndex (s : State) : (s.pruneTables).freeIndex = s.freeIndex := s.pruneTables_keeps.2.2.2.2.2.2.2.2.2.2.1
@[simp] theorem State.pruneTables_pending (s : State) : (s.pruneTables).pending = s.pending := s.pruneTables_keeps.2.2.2.2.2.2.2.2.2.2.2

theorem State.offerAll_keeps (s : State) (n : Nat) :
    (State.offerAll n s).mode = s.mode ∧ (State.offerAll n s).settings = s.settings ∧ (State.offerAll n s).injection =
    s.injection ∧ (State.offerAll n s).upstream = s.upstream ∧ (State.offerAll n s).port = s.port ∧ (State.offerAll n
    s).writeBack = s.writeBack ∧ (State.offerAll n s).scrubber = s.scrubber ∧ (State.offerAll n s).management =
    s.management ∧ (State.offerAll n s).freeIndex = s.freeIndex ∧ (State.offerAll n s).pending = s.pending := by
  induction n generalizing s with
  | zero => simp [State.offerAll]
  | succ n ih =>
    unfold State.offerAll
    (repeat' split) <;> simp [ih]
@[simp] theorem State.offerAll_mode (s : State) (n : Nat) : (State.offerAll n s).mode = s.mode := (s.offerAll_keeps n).1
@[simp] theorem State.offerAll_settings (s : State) (n : Nat) : (State.offerAll n s).settings = s.settings := (s.offerAll_keeps n).2.1
@[simp] theorem State.offerAll_injection (s : State) (n : Nat) : (State.offerAll n s).injection = s.injection := (s.offerAll_keeps n).2.2.1
@[simp] theorem State.offerAll_upstream (s : State) (n : Nat) : (State.offerAll n s).upstream = s.upstream := (s.offerAll_keeps n).2.2.2.1
@[simp] theorem State.offerAll_port (s : State) (n : Nat) : (State.offerAll n s).port = s.port := (s.offerAll_keeps n).2.2.2.2.1
@[simp] theorem State.offerAll_writeBack (s : State) (n : Nat) : (State.offerAll n s).writeBack = s.writeBack := (s.offerAll_keeps n).2.2.2.2.2.1
@[simp] theorem State.offerAll_scrubber (s : State) (n : Nat) : (State.offerAll n s).scrubber = s.scrubber := (s.offerAll_keeps n).2.2.2.2.2.2.1
@[simp] theorem State.offerAll_management (s : State) (n : Nat) : (State.offerAll n s).management = s.management := (s.offerAll_keeps n).2.2.2.2.2.2.2.1
@[simp] theorem State.offerAll_freeIndex (s : State) (n : Nat) : (State.offerAll n s).freeIndex = s.freeIndex := (s.offerAll_keeps n).2.2.2.2.2.2.2.2.1
@[simp] theorem State.offerAll_pending (s : State) (n : Nat) : (State.offerAll n s).pending = s.pending := (s.offerAll_keeps n).2.2.2.2.2.2.2.2.2

theorem State.enterOnline_keeps (s : State) :
    (s.enterOnline).settings = s.settings ∧ (s.enterOnline).injection = s.injection ∧ (s.enterOnline).upstream =
    s.upstream ∧ (s.enterOnline).port = s.port ∧ (s.enterOnline).writeBack = s.writeBack ∧ (s.enterOnline).management =
    s.management ∧ (s.enterOnline).freeIndex = s.freeIndex ∧ (s.enterOnline).pending = s.pending := by
  simp [State.enterOnline]
@[simp] theorem State.enterOnline_settings (s : State) : (s.enterOnline).settings = s.settings := s.enterOnline_keeps.1
@[simp] theorem State.enterOnline_injection (s : State) : (s.enterOnline).injection = s.injection := s.enterOnline_keeps.2.1
@[simp] theorem State.enterOnline_upstream (s : State) : (s.enterOnline).upstream = s.upstream := s.enterOnline_keeps.2.2.1
@[simp] theorem State.enterOnline_port (s : State) : (s.enterOnline).port = s.port := s.enterOnline_keeps.2.2.2.1
@[simp] theorem State.enterOnline_writeBack (s : State) : (s.enterOnline).writeBack = s.writeBack := s.enterOnline_keeps.2.2.2.2.1
@[simp] theorem State.enterOnline_management (s : State) : (s.enterOnline).management = s.management := s.enterOnline_keeps.2.2.2.2.2.1
@[simp] theorem State.enterOnline_freeIndex (s : State) : (s.enterOnline).freeIndex = s.freeIndex := s.enterOnline_keeps.2.2.2.2.2.2.1
@[simp] theorem State.enterOnline_pending (s : State) : (s.enterOnline).pending = s.pending := s.enterOnline_keeps.2.2.2.2.2.2.2

theorem State.leaveOnline_keeps (s : State) :
    (s.leaveOnline).settings = s.settings ∧ (s.leaveOnline).injection = s.injection ∧ (s.leaveOnline).management =
    s.management ∧ (s.leaveOnline).freeIndex = s.freeIndex ∧ (s.leaveOnline).pending = s.pending := by
  simp [State.leaveOnline]
@[simp] theorem State.leaveOnline_settings (s : State) : (s.leaveOnline).settings = s.settings := s.leaveOnline_keeps.1
@[simp] theorem State.leaveOnline_injection (s : State) : (s.leaveOnline).injection = s.injection := s.leaveOnline_keeps.2.1
@[simp] theorem State.leaveOnline_management (s : State) : (s.leaveOnline).management = s.management := s.leaveOnline_keeps.2.2.1
@[simp] theorem State.leaveOnline_freeIndex (s : State) : (s.leaveOnline).freeIndex = s.freeIndex := s.leaveOnline_keeps.2.2.2.1
@[simp] theorem State.leaveOnline_pending (s : State) : (s.leaveOnline).pending = s.pending := s.leaveOnline_keeps.2.2.2.2

theorem State.clearLink_keeps (s : State) :
    (s.clearLink).mode = s.mode ∧ (s.clearLink).settings = s.settings ∧ (s.clearLink).injection = s.injection ∧
    (s.clearLink).upstream = s.upstream ∧ (s.clearLink).writeBack = s.writeBack ∧ (s.clearLink).management =
    s.management ∧ (s.clearLink).freeIndex = s.freeIndex ∧ (s.clearLink).pending = s.pending := by
  simp [State.clearLink]
@[simp] theorem State.clearLink_mode (s : State) : (s.clearLink).mode = s.mode := s.clearLink_keeps.1
@[simp] theorem State.clearLink_settings (s : State) : (s.clearLink).settings = s.settings := s.clearLink_keeps.2.1
@[simp] theorem State.clearLink_injection (s : State) : (s.clearLink).injection = s.injection := s.clearLink_keeps.2.2.1
@[simp] theorem State.clearLink_upstream (s : State) : (s.clearLink).upstream = s.upstream := s.clearLink_keeps.2.2.2.1
@[simp] theorem State.clearLink_writeBack (s : State) : (s.clearLink).writeBack = s.writeBack := s.clearLink_keeps.2.2.2.2.1
@[simp] theorem State.clearLink_management (s : State) : (s.clearLink).management = s.management := s.clearLink_keeps.2.2.2.2.2.1
@[simp] theorem State.clearLink_freeIndex (s : State) : (s.clearLink).freeIndex = s.freeIndex := s.clearLink_keeps.2.2.2.2.2.2.1
@[simp] theorem State.clearLink_pending (s : State) : (s.clearLink).pending = s.pending := s.clearLink_keeps.2.2.2.2.2.2.2

theorem State.unblock_keeps (s : State) :
    (s.unblock).mode = s.mode ∧ (s.unblock).settings = s.settings ∧ (s.unblock).injection = s.injection ∧
    (s.unblock).upstream = s.upstream ∧ (s.unblock).port = s.port ∧ (s.unblock).writeBack = s.writeBack ∧
    (s.unblock).scrubber = s.scrubber ∧ (s.unblock).management = s.management ∧ (s.unblock).freeIndex = s.freeIndex ∧
    (s.unblock).pending = s.pending := by
  unfold State.unblock
  (repeat' split) <;> simp
@[simp] theorem State.unblock_mode (s : State) : (s.unblock).mode = s.mode := s.unblock_keeps.1
@[simp] theorem State.unblock_settings (s : State) : (s.unblock).settings = s.settings := s.unblock_keeps.2.1
@[simp] theorem State.unblock_injection (s : State) : (s.unblock).injection = s.injection := s.unblock_keeps.2.2.1
@[simp] theorem State.unblock_upstream (s : State) : (s.unblock).upstream = s.upstream := s.unblock_keeps.2.2.2.1
@[simp] theorem State.unblock_port (s : State) : (s.unblock).port = s.port := s.unblock_keeps.2.2.2.2.1
@[simp] theorem State.unblock_writeBack (s : State) : (s.unblock).writeBack = s.writeBack := s.unblock_keeps.2.2.2.2.2.1
@[simp] theorem State.unblock_scrubber (s : State) : (s.unblock).scrubber = s.scrubber := s.unblock_keeps.2.2.2.2.2.2.1
@[simp] theorem State.unblock_management (s : State) : (s.unblock).management = s.management := s.unblock_keeps.2.2.2.2.2.2.2.1
@[simp] theorem State.unblock_freeIndex (s : State) : (s.unblock).freeIndex = s.freeIndex := s.unblock_keeps.2.2.2.2.2.2.2.2.1
@[simp] theorem State.unblock_pending (s : State) : (s.unblock).pending = s.pending := s.unblock_keeps.2.2.2.2.2.2.2.2.2

theorem State.removeRequest_keeps (s : State) (l : Location) :
    (s.removeRequest l).mode = s.mode ∧ (s.removeRequest l).settings = s.settings ∧ (s.removeRequest l).remap = s.remap
    ∧ (s.removeRequest l).injection = s.injection ∧ (s.removeRequest l).upstream = s.upstream ∧ (s.removeRequest l).port
    = s.port ∧ (s.removeRequest l).writeBack = s.writeBack ∧ (s.removeRequest l).scrubber = s.scrubber ∧
    (s.removeRequest l).records = s.records ∧ (s.removeRequest l).management = s.management ∧ (s.removeRequest
    l).freeIndex = s.freeIndex ∧ (s.removeRequest l).pending = s.pending := by
  simp [State.removeRequest]
@[simp] theorem State.removeRequest_mode (s : State) (l : Location) : (s.removeRequest l).mode = s.mode := (s.removeRequest_keeps l).1
@[simp] theorem State.removeRequest_settings (s : State) (l : Location) : (s.removeRequest l).settings = s.settings := (s.removeRequest_keeps l).2.1
@[simp] theorem State.removeRequest_remap (s : State) (l : Location) : (s.removeRequest l).remap = s.remap := (s.removeRequest_keeps l).2.2.1
@[simp] theorem State.removeRequest_injection (s : State) (l : Location) : (s.removeRequest l).injection = s.injection := (s.removeRequest_keeps l).2.2.2.1
@[simp] theorem State.removeRequest_upstream (s : State) (l : Location) : (s.removeRequest l).upstream = s.upstream := (s.removeRequest_keeps l).2.2.2.2.1
@[simp] theorem State.removeRequest_port (s : State) (l : Location) : (s.removeRequest l).port = s.port := (s.removeRequest_keeps l).2.2.2.2.2.1
@[simp] theorem State.removeRequest_writeBack (s : State) (l : Location) : (s.removeRequest l).writeBack = s.writeBack := (s.removeRequest_keeps l).2.2.2.2.2.2.1
@[simp] theorem State.removeRequest_scrubber (s : State) (l : Location) : (s.removeRequest l).scrubber = s.scrubber := (s.removeRequest_keeps l).2.2.2.2.2.2.2.1
@[simp] theorem State.removeRequest_records (s : State) (l : Location) : (s.removeRequest l).records = s.records := (s.removeRequest_keeps l).2.2.2.2.2.2.2.2.1
@[simp] theorem State.removeRequest_management (s : State) (l : Location) : (s.removeRequest l).management = s.management := (s.removeRequest_keeps l).2.2.2.2.2.2.2.2.2.1
@[simp] theorem State.removeRequest_freeIndex (s : State) (l : Location) : (s.removeRequest l).freeIndex = s.freeIndex := (s.removeRequest_keeps l).2.2.2.2.2.2.2.2.2.2.1
@[simp] theorem State.removeRequest_pending (s : State) (l : Location) : (s.removeRequest l).pending = s.pending := (s.removeRequest_keeps l).2.2.2.2.2.2.2.2.2.2.2

theorem State.cancelRequest_keeps (s : State) (l : Location) :
    (s.cancelRequest l).mode = s.mode ∧ (s.cancelRequest l).settings = s.settings ∧ (s.cancelRequest l).injection =
    s.injection ∧ (s.cancelRequest l).writeBack = s.writeBack ∧ (s.cancelRequest l).scrubber = s.scrubber ∧
    (s.cancelRequest l).management = s.management ∧ (s.cancelRequest l).freeIndex = s.freeIndex ∧ (s.cancelRequest
    l).pending = s.pending := by
  unfold State.cancelRequest
  (repeat' split) <;> simp
@[simp] theorem State.cancelRequest_mode (s : State) (l : Location) : (s.cancelRequest l).mode = s.mode := (s.cancelRequest_keeps l).1
@[simp] theorem State.cancelRequest_settings (s : State) (l : Location) : (s.cancelRequest l).settings = s.settings := (s.cancelRequest_keeps l).2.1
@[simp] theorem State.cancelRequest_injection (s : State) (l : Location) : (s.cancelRequest l).injection = s.injection := (s.cancelRequest_keeps l).2.2.1
@[simp] theorem State.cancelRequest_writeBack (s : State) (l : Location) : (s.cancelRequest l).writeBack = s.writeBack := (s.cancelRequest_keeps l).2.2.2.1
@[simp] theorem State.cancelRequest_scrubber (s : State) (l : Location) : (s.cancelRequest l).scrubber = s.scrubber := (s.cancelRequest_keeps l).2.2.2.2.1
@[simp] theorem State.cancelRequest_management (s : State) (l : Location) : (s.cancelRequest l).management = s.management := (s.cancelRequest_keeps l).2.2.2.2.2.1
@[simp] theorem State.cancelRequest_freeIndex (s : State) (l : Location) : (s.cancelRequest l).freeIndex = s.freeIndex := (s.cancelRequest_keeps l).2.2.2.2.2.2.1
@[simp] theorem State.cancelRequest_pending (s : State) (l : Location) : (s.cancelRequest l).pending = s.pending := (s.cancelRequest_keeps l).2.2.2.2.2.2.2

end Sys2Proof.Machine
end

