-- ==== Sys2Proof/Laws/Ops.lean ====
section
/-! SUPPORT. Laws/Ops.lean: for the shared operations on tables, records, frames and accesses, what each can do. -/

namespace Sys2Proof.Machine

/-! ## Remap entries -/

theorem entryAt_setEntry (t : RemapTable) (i j : Nat) (e : RemapEntry) :
    entryAt (setEntry t i e) j = if i = j ∧ i < 64 then e else entryAt t j := by
  unfold entryAt setEntry
  by_cases hj : j < 64
  · by_cases hij : i = j
    · subst hij; simp [hj]
    · simp [hj, hij]
  · by_cases hij : i = j
    · subst hij; simp [hj]
    · simp [hij, hj]

theorem entryAt_of_le (t : RemapTable) {i : Nat} (h : 64 ≤ i) : entryAt t i = .unused := by
  unfold entryAt
  rw [Vector.getElem?_eq_none (by omega)]
  rfl

theorem toList_getElem (t : RemapTable) {i : Nat} (h : i < 64) :
    t.toList[i]'(by simp [h]) = entryAt t i := by
  unfold entryAt
  simp [h]

theorem entryFor_some {t : RemapTable} {b i : Nat} (h : entryFor t b = some i) :
    i < 64 ∧ (entryAt t i).routes b = true ∧ ∀ j, j < i → (entryAt t j).routes b = false := by
  unfold entryFor at h
  rw [List.findIdx?_eq_some_iff_getElem] at h
  obtain ⟨hi, hr, hlt⟩ := h
  have hi' : i < 64 := by simpa using hi
  refine ⟨hi', ?_, fun j hj => ?_⟩
  · rw [← toList_getElem t hi']; exact hr
  · have := hlt j hj
    rw [← toList_getElem t (by omega)]
    simpa using this

theorem entryFor_none {t : RemapTable} {b : Nat} (h : entryFor t b = none) {i : Nat} (hi : i < 64) :
    (entryAt t i).routes b = false := by
  unfold entryFor at h
  rw [List.findIdx?_eq_none_iff] at h
  rw [← toList_getElem t hi]
  exact h _ (List.getElem_mem _)

theorem lowestFree_some {t : RemapTable} {i : Nat} (h : lowestFree t = some i) :
    i < 64 ∧ entryAt t i = .free ∧ ∀ j, j < i → entryAt t j ≠ .free := by
  unfold lowestFree at h
  rw [List.findIdx?_eq_some_iff_getElem] at h
  obtain ⟨hi, hr, hlt⟩ := h
  have hi' : i < 64 := by simpa using hi
  refine ⟨hi', ?_, fun j hj => ?_⟩
  · rw [← toList_getElem t hi']; simpa using hr
  · have := hlt j hj
    rw [← toList_getElem t (by omega)]
    simpa using this

theorem lowestFree_none {t : RemapTable} (h : lowestFree t = none) {i : Nat} (hi : i < 64) : entryAt t i ≠ .free := by
  unfold lowestFree at h
  rw [List.findIdx?_eq_none_iff] at h
  have := h (entryAt t i) (by rw [← toList_getElem t hi]; exact List.getElem_mem _)
  simpa using this

/-! ## Watch slots -/

theorem WatchTable.entryIn_setSlot (w : WatchTable) (i j : Nat) (e : Option WatchEntry) :
    (w.setSlot i e).entryIn j = if i = j ∧ i < 32 then e else w.entryIn j := by
  unfold WatchTable.entryIn WatchTable.setSlot
  by_cases hj : j < 32
  · by_cases hij : i = j
    · subst hij; simp [hj]
    · simp [hj, hij]
  · by_cases hij : i = j
    · subst hij; simp [hj]
    · simp [hij, hj]

theorem WatchTable.slotOf_some {w : WatchTable} {l : Location} {i : Nat} (h : w.slotOf l = some i) :
    i < 32 ∧ ∃ e, w.entryIn i = some e ∧ e.location = l := by
  unfold WatchTable.slotOf at h
  rw [List.findIdx?_eq_some_iff_getElem] at h
  obtain ⟨hi, hr, -⟩ := h
  have hi' : i < 32 := by simpa using hi
  refine ⟨hi', ?_⟩
  simp only [Vector.getElem_toList] at hr
  unfold WatchTable.entryIn
  split at hr
  · rename_i e he
    exact ⟨e, by simp [hi', he], by simpa using hr⟩
  · simp at hr

theorem WatchTable.slotOf_none {w : WatchTable} {l : Location} (h : w.slotOf l = none) {i : Nat} {e : WatchEntry}
    (he : w.entryIn i = some e) : e.location ≠ l := by
  unfold WatchTable.slotOf at h
  rw [List.findIdx?_eq_none_iff] at h
  unfold WatchTable.entryIn at he
  by_cases hi : i < 32
  · have hs : w.slots[i] = some e := by simpa [hi] using he
    have := h (some e) (by rw [← hs]; simp)
    simpa using this
  · rw [Vector.getElem?_eq_none (by omega)] at he
    simp at he

/-! ## Records -/

theorem RecordUnit.take_room {u : RecordUnit} (b : RecordBody) (h : u.queue.length < 16) :
    u.take b = { u with queue := u.queue ++ [{ sequence := u.nextSequence, body := b }], nextSequence := u.nextSequence + 1 } := by
  simp [RecordUnit.take, h]

theorem RecordUnit.take_full {u : RecordUnit} (b : RecordBody) (h : 16 ≤ u.queue.length) :
    u.take b =
      { u with nextSequence := u.nextSequence + 1, dropped := min (u.dropped + 1) 65535, droppedFlag := true } := by
  simp [RecordUnit.take, saturate, Nat.not_lt.mpr h]

/-! ## Frames -/

theorem State.takeFrame_ours {s : State} {a : BusAddress} (h : a = s.management.address) (f : State → State) :
    s.takeFrame a f = f (s.onBus true []) := by simp [State.takeFrame, h]

theorem State.takeFrame_other {s : State} {a : BusAddress} (h : a ≠ s.management.address) (f : State → State) :
    s.takeFrame a f = s.onBus false [] := by simp [State.takeFrame, h]

theorem State.takeCommand_ours {s : State} {a : BusAddress} {args : List Byte} {n : Nat}
    (h : a = s.management.address) (hn : args.length = n) (f : State → State) :
    s.takeCommand a args n f = f (s.onBus true []) := by simp [State.takeCommand, State.takeFrame, h, hn]

theorem State.takeCommand_badLength {s : State} {a : BusAddress} {args : List Byte} {n : Nat}
    (h : a = s.management.address) (hn : args.length ≠ n) (f : State → State) :
    s.takeCommand a args n f = (s.onBus true []).answerStatus .badLength := by
  simp [State.takeCommand, State.takeFrame, h, hn]

/-! ## The engine at rest, and what follows a change -/

theorem State.tryLoop_of_settled {s : State} (h : s.mayTry = false) (n : Nat) : State.tryLoop n s = s := by
  cases n with
  | zero => rfl
  | succ n => simp [State.tryLoop, h]

theorem State.tryStart_of_settled {s : State} (h : s.mayTry = false) : s.tryStart = s := State.tryLoop_of_settled h _

theorem State.endWithoutIssue_of_up {s : State} (h : s.port.link = .up) : s.endWithoutIssue = s := by
  simp [State.endWithoutIssue, h]

theorem State.settle_of_up {s : State} (h : s.port.link = .up) : s.settle = s.tryStart := by
  simp [State.settle, State.endWithoutIssue_of_up h]

theorem State.settle_of_settled {s : State} (hl : s.port.link = .up) (h : s.mayTry = false) : s.settle = s := by
  rw [State.settle_of_up hl, State.tryStart_of_settled h]

/-! ## The words of a read -/

@[simp] theorem State.takeWords_nil (s : State) (use : ReadUse) (word : Nat) (f : Bool) : s.takeWords use word [] f = s :=
  rfl

theorem State.takeWords_cons (s : State) (use : ReadUse) (word : Nat) (w : StoredWord) (ws : List StoredWord) (f : Bool) :
    s.takeWords use word (w :: ws) f = (s.takeWord use word w f).1.takeWords use (word + 1) ws (s.takeWord use word w f).2 :=
  rfl

theorem State.takeWord_clean {s : State} {w : StoredWord} (h : (classify w).1 = .clean) (use : ReadUse) (word : Nat)
    (f : Bool) : s.takeWord use word w f = (s, f) := by
  unfold State.takeWord
  split <;> simp_all

theorem State.takeWords_clean {s : State} {ws : List StoredWord} (h : ∀ w ∈ ws, (classify w).1 = .clean) (use : ReadUse)
    (word : Nat) (f : Bool) : s.takeWords use word ws f = s := by
  induction ws generalizing word with
  | nil => rfl
  | cons w ws ih =>
    rw [State.takeWords_cons, State.takeWord_clean (h w (by simp))]
    exact ih (fun x hx => h x (by simp [hx])) _

end Sys2Proof.Machine
end

