-- ==== Sys2Proof/Laws/Ends.lean ====
section
/-! SUPPORT. Laws/Ends.lean: what the arbiter's choice, the end of an access and an abort leave, in the words of Safety.lean. -/

namespace Sys2Proof.Machine

/-! ## The arbiter -/

/-- The arbiter grants a waiting requester, and none that is barred. -/
theorem State.choose_some {s : State} {busy : List Requester} {r : Requester} (h : s.choose busy = some r) :
    r ∉ busy ∧ s.waiting r = true := by
  have candidate : s.candidate busy r = true := by
    unfold State.choose at h
    split at h
    · cases h; rename_i hm; exact hm.1
    · split at h
      · cases h; rename_i hs; exact hs.1
      · exact List.find?_some h
  simpa [State.candidate] using candidate

/-- With none barred, every waiting requester is a candidate. -/
@[simp] theorem State.candidate_nil (s : State) (r : Requester) : s.candidate [] r = s.waiting r := by
  simp [State.candidate]

/-! ## What follows an ending -/

/-- What follows a change while the link is UP is the engine's try. -/
theorem State.settle_eq_try {s : State} (h : s.port.link = .up) : Host.Outcome.next s.settle = exec .migrationStart s := by
  simp [exec, execMigrationStart, State.settle_of_up h]

/-- A failed access, with no grant taken first: its requester takes the ending, and what follows is settled. -/
theorem exec_of_failsBy {s : State} {a : Access} {c : Instr} {u : State} (ho : s.port.outstanding = some a)
    (h : s.failsBy a c u) : exec c s = .next (u.hand a .failed).settle := by
  obtain ⟨kind, abandoned, h, rfl⟩ := h
  rcases h with ⟨⟨words, rfl⟩, rfl, rfl⟩ | ⟨rfl, room, rfl, rfl⟩
  · simp [exec, execMemoryResponse, State.takeResponse, ho, State.answerAccess, State.freeSlot, State.grantIfFirst,
      State.makeRecord, linkRecord]
  · have below : ¬ 8 ≤ s.port.abandoned.length + 1 := by omega
    simp [exec, execResponseTimerExpiry, State.expireResponse, ho, State.freeSlot, State.grantIfFirst, State.makeRecord,
      linkRecord, below]

/-- What a failed access leaves alone before its requester takes the ending. -/
theorem State.failsBy_keeps {s : State} {a : Access} {c : Instr} {u : State} (h : s.failsBy a c u) :
    u.mode = s.mode ∧ u.settings = s.settings ∧ u.remap = s.remap ∧ u.migration = s.migration ∧ u.watch = s.watch
      ∧ u.upstream = s.upstream ∧ u.port.link = s.port.link ∧ u.port.outstanding = none ∧ u.writeBack = s.writeBack
      ∧ u.scrubber = s.scrubber := by
  obtain ⟨_, _, _, rfl⟩ := h
  simp

/-- A write access that ends OK, with no grant taken first. -/
theorem exec_ok_of_write {s : State} {a : Access} (ho : s.port.outstanding = some a) (hw : a.purpose.isWrite = true) :
    exec (.memoryResponse a.tag .ok [] false) s
      = .next (State.settle (State.hand { s with port := { s.port with outstanding := none } } a (.ok []))) := by
  simp [exec, execMemoryResponse, State.takeResponse, ho, State.answerAccess, State.freeSlot, State.grantIfFirst,
    State.handOk, hw]

/-! ## The ends of a store run -/

theorem State.finishRun_eq (s : State) {work : StoreWork} {run : StoreRun} {rest : List StoreRun}
    (h : work.runs = run :: rest) :
    s.finishRun work = { s with upstream := { s.upstream with progress := work.succeeded rest } } := by
  unfold State.finishRun StoreWork.succeeded
  rw [h]
  cases rest <;> simp [State.setProgress]

theorem State.failRun_eq (s : State) (t : Transaction) (work : StoreWork) :
    s.failRun t work
      = { s with upstream := { s.upstream with progress := work.failed (firstAddress t % 16) } } := by
  have statuses : failedStatuses (wordOf (firstAddress t)) work.runs work.statuses
      = work.statuses.zipIdx.map fun (status, k) =>
        if ∃ r ∈ work.runs, r.first ≤ firstAddress t % 16 + k ∧ firstAddress t % 16 + k < r.first + r.forms.length
        then .bad else status := by
    unfold failedStatuses
    refine List.map_congr_left fun x _ => if_congr ?_ rfl rfl
    simp only [List.any_eq_true, Bool.and_eq_true, wordOf]
    exact ⟨fun ⟨r, hr, a, b⟩ => ⟨r, hr, of_decide_eq_true a, of_decide_eq_true b⟩,
      fun ⟨r, hr, a, b⟩ => ⟨r, hr, decide_eq_true a, decide_eq_true b⟩⟩
  simp [State.failRun, StoreWork.failed, State.setProgress, statuses]

/-! ## An abort -/

theorem State.settleFate_eq (s : State) (fate : MigrationFate) :
    s.settleFate fate
      = { s with upstream := { s.upstream with progress := s.upstream.progress.withFate fate } } := by
  unfold State.settleFate
  obtain ⟨_, _, _, _, _, _, ⟨held, progress⟩, _, _, _, _, _, _, _⟩ := s
  cases progress with
  | store work =>
    obtain ⟨runs, statuses, dual⟩ := work
    cases dual with
    | none => simp [Progress.withFate]
    | some d => simp [Progress.withFate]; split <;> rfl
  | idle | fetch | mergeRead | answer _ => simp [Progress.withFate]

theorem State.discardMigration_eq (s : State) :
    s.discardOutstanding .migration
      = { s with
          port := { s.port with
            outstanding := s.port.outstanding.map fun a =>
              { a with discarded := a.discarded || a.purpose == .copyRead || a.purpose == .copyWrite } } } := by
  unfold State.discardOutstanding
  obtain ⟨_, _, _, _, _, _, _, ⟨outstanding, _, _, _, _, _⟩, _, _, _, _, _, _⟩ := s
  cases outstanding with
  | none => rfl
  | some a =>
    obtain ⟨purpose, _, _, _, _, _, _, _, _⟩ := a
    cases purpose <;> simp [Purpose.requester, BEq.beq]

theorem State.failRequest_eq (s : State) (r : Request) (rest : List Request) (target : Nat) :
    s.failRequest r rest target = s.afterFailure r rest target := by
  unfold State.failRequest State.afterFailure
  cases r.retried <;> simp [State.setQueue, State.makeRecord]
  rfl

/-- An abort of the migration in flight: what `State.afterAbort` says, and then what its cause makes of the request. -/
theorem State.abortMigration_eq {s : State} {work : CopyWork} {r : Request} {rest : List Request} {cause : AbortCause}
    {left : RemapEntry} {table : RemapTable} (hq : s.migration = { queue := r :: rest, engine := .copying work })
    (hl : left = if cause = .targetFailed then .retired .writeFailed else .free)
    (ht : s.abortsTo work.target left table) :
    s.abortMigration cause = (s.afterAbort work r table cause.detail).disposeRequest cause r rest work.target := by
  subst hl
  have entries : abortEntries s.remap work.target (cause == .targetFailed) = table := by
    have target : (if (cause == AbortCause.targetFailed) = true then RemapEntry.retired RetireReason.writeFailed else .free)
        = if cause = .targetFailed then .retired .writeFailed else .free := by simp
    rcases ht with ⟨source, cursor, origin, ⟨h, rfl⟩ | ⟨j, was, old, h, hj, rfl⟩⟩
    · simp only [abortEntries, h, settleLeaving]
      rw [target]
    · simp only [abortEntries, h, settleLeaving, hj]
      rw [target]
  unfold State.abortMigration
  simp only [hq, entries, State.discardMigration_eq, State.settleFate_eq]
  rfl

/-! ## The link going DOWN -/

theorem State.tryStart_of_down {s : State} (h : s.port.link = .down) : s.tryStart = s :=
  State.tryStart_of_settled (by simp [State.mayTry, h])

/-- With nothing to ask for, nothing ends without issue. -/
theorem State.endWithoutIssue_of_quiet {s : State} (h : s.upstream.progress.needsAccess = false) :
    s.endWithoutIssue = s := by simp [State.endWithoutIssue, h]

/-- While the link is DOWN and nothing is outstanding, the request of the phase ends as a failed access would. -/
theorem State.endWithoutIssue_of_down {s : State} (hl : s.port.link = .down) (ho : s.port.outstanding = none)
    (h : s.upstream.progress.needsAccess = true) : s.endWithoutIssue = s.endUpstream s.dualPending 0 .failed := by
  simp [State.endWithoutIssue, hl, h, State.awaiting, ho]

/-- The expiry that takes the link DOWN: no grant is taken with it, the requester takes its ending, and what waits is settled. -/
theorem exec_expiry_of_eighth {s : State} {a : Access} (ho : s.port.outstanding = some a)
    (eighth : s.port.abandoned.length = 7) (grantFirst : Bool) :
    exec (.responseTimerExpiry grantFirst) s = .next ((s.linkLost a).hand a .failed).settle := by
  have no_grant : ∀ t : State, t.port.link = .down → ∀ f, t.grantIfFirst grantFirst a f = t := by
    intro t ht f
    cases grantFirst with
    | false => rfl
    | true =>
      have none_waits : ∀ r, t.candidate (t.busyAfter a f) r = false := by
        intro r
        simp [State.candidate, State.waiting, ht]
      have none_chosen : t.choose (t.busyAfter a f) = none := by simp [State.choose, none_waits]
      simp [State.grantIfFirst, State.grant, none_chosen]
  simp only [exec, execResponseTimerExpiry, State.expireResponse, ho]
  rw [no_grant]
  · simp [State.freeSlot, State.makeRecord, eighth, State.linkGoesDown, State.linkLost, linkRecord]
    congr 1
    congr 1
    congr 1
    cases s.scrubber.state <;> simp
  · simp [State.freeSlot, State.makeRecord, eighth, State.linkGoesDown]

theorem State.afterFailure_upstream (s : State) (p : Upstream) (r : Request) (rest : List Request) (target : Nat) :
    State.afterFailure { s with upstream := p } r rest target = { s.afterFailure r rest target with upstream := p } := by
  unfold State.afterFailure
  split
  · rfl
  · unfold State.placeFreed State.offerWaiting
    dsimp only [State.hasRequest]
    cases s.settings.autoSpare with
    | false => rfl
    | true =>
      simp only [if_true]
      cases (s.watch.modify r.location fun e => { e with state := .tracking }).oldestWaiting with
      | none => rfl
      | some oldest =>
        by_cases named : (rest.any fun r => r.location == oldest.2.location) = true
        · simp [named, State.queueEntry]
        · by_cases room : rest.length < 8 <;>
            simp [named, room, State.queueEntry, State.joinQueue, State.setQueue]

theorem State.afterFailure_keeps (s : State) (r : Request) (rest : List Request) (target : Nat) :
    (s.afterFailure r rest target).port = s.port ∧ (s.afterFailure r rest target).upstream = s.upstream := by
  unfold State.afterFailure
  split
  · exact ⟨rfl, rfl⟩
  · simp

/-- The run that follows a run that stands, while the link is DOWN: it fails without issue, or there is none. -/
theorem State.endWithoutIssue_of_succeeded {s : State} {t : Transaction} {work : StoreWork} {rest : List StoreRun}
    (hl : s.port.link = .down) (ho : s.port.outstanding = none) (hc : s.current = some t)
    (hp : s.upstream.progress = StoreWork.succeeded { work with dual := none } rest) :
    s.endWithoutIssue = { s with
      upstream := { s.upstream with
        progress :=
          if rest = [] then work.succeeded []
          else StoreWork.failed { work with runs := rest } (firstAddress t % 16) } } := by
  cases rest with
  | nil =>
    rw [State.endWithoutIssue_of_quiet (by simp [hp, StoreWork.succeeded, Progress.needsAccess])]
    simp only [StoreWork.succeeded, if_true] at hp ⊢
    rw [← hp]
  | cons r rs =>
    simp only [StoreWork.succeeded, reduceCtorEq, if_false] at hp ⊢
    rw [State.endWithoutIssue_of_down hl ho (by simp [hp, Progress.needsAccess])]
    have single : s.dualPending = false := by simp [State.dualPending, hp]
    simp only [single, State.endUpstream, hp, hc, State.endStore, State.failRun_eq]
    rfl

/-- While the link is DOWN and nothing is outstanding, what follows a change is the end of the upstream port's request. -/
theorem State.settle_requestEnds {t : State} (hl : t.port.link = .down) (ho : t.port.outstanding = none) :
    t.requestEnds t.settle := by
  refine ⟨fun hn => ?_, fun x hx => ⟨fun hp => ?_, fun ad n words hw hp => ?_, fun work hp failed hf => ⟨fun hd => ?_, ?_⟩⟩⟩
  · rw [State.settle, State.endWithoutIssue_of_quiet hn, State.endWithoutIssue_of_quiet hn, State.tryStart_of_down hl]
  · rw [State.settle, State.endWithoutIssue_of_down hl ho (by simp [hp, Progress.needsAccess])]
    simp only [State.endUpstream, hp, hx, State.endFetch]
    rw [State.endWithoutIssue_of_quiet rfl, State.tryStart_of_down (by simpa using hl)]
    rfl
  · subst hw
    rw [State.settle, State.endWithoutIssue_of_down hl ho (by simp [hp, Progress.needsAccess])]
    simp only [State.endUpstream, hp, hx, State.endMergeRead]
    rw [State.endWithoutIssue_of_quiet rfl, State.tryStart_of_down (by simpa using hl)]
    rfl
  · subst hf
    have dp : t.dualPending = false := by simp [State.dualPending, hp, hd]
    rw [State.settle, State.endWithoutIssue_of_down hl ho (by simp [hp, Progress.needsAccess]), dp]
    have w : { work with dual := none } = work := by cases work; simp_all
    simp only [State.endUpstream, hp, hx, State.endStore, w, State.failRun_eq]
    rw [State.endWithoutIssue_of_quiet rfl, State.tryStart_of_down (by simpa using hl)]
  · intro dual run rest hd hr stands hs
    subst hf hs
    have dp : t.dualPending = true := by simp [State.dualPending, hp, hd]
    have first : t.endWithoutIssue = t.endSpareStore x { work with dual := none } dual .failed := by
      rw [State.endWithoutIssue_of_down hl ho (by simp [hp, Progress.needsAccess]), dp]
      simp only [State.endUpstream, hp, hx, State.endStore, hd]
    rw [State.settle, first]
    refine ⟨fun hfate => ?_, fun hfate => ?_, fun copy r behind table hfate hm hab => ?_⟩
    · simp only [State.endSpareStore, hfate, State.failRun_eq]
      rw [State.endWithoutIssue_of_quiet rfl, State.tryStart_of_down (by simpa using hl)]
      rfl
    · simp only [State.endSpareStore, hfate]
      rw [State.finishRun_eq t (work := { work with dual := none }) (show _ = run :: rest from hr)]
      refine (congrArg State.tryStart
        (State.endWithoutIssue_of_succeeded
          (s := { t with upstream := { t.upstream with progress := StoreWork.succeeded { work with dual := none } rest } })
          hl ho hx rfl)).trans ?_
      rw [State.tryStart_of_down (by simpa using hl)]
    · simp only [State.endSpareStore, hfate]
      rw [State.finishRun_eq t (work := { work with dual := none }) (show _ = run :: rest from hr)]
      rw [State.abortMigration_eq
        (s := { t with upstream := { t.upstream with progress := StoreWork.succeeded { work with dual := none } rest } })
        (r := r) (rest := behind) (work := copy) (left := .retired .writeFailed) (table := table) hm (by simp) hab]
      simp only [State.disposeRequest, State.failRequest_eq]
      have fate : ∀ rs, (StoreWork.succeeded { work with dual := none } rs).withFate .aborted
          = StoreWork.succeeded { work with dual := none } rs := by
        intro rs
        unfold StoreWork.succeeded
        split <;> simp [Progress.withFate]
      generalize hv : State.afterAbort
        { t with upstream := { t.upstream with progress := StoreWork.succeeded { work with dual := none } rest } }
        copy r table AbortCause.targetFailed.detail = v
      have vp : v.port.link = .down ∧ v.port.outstanding = none := by subst hv; simp [State.afterAbort, hl, ho]
      have vu : v.upstream = { t.upstream with progress := StoreWork.succeeded { work with dual := none } rest } := by
        subst hv; simp [State.afterAbort, fate]
      obtain ⟨kp, ku⟩ := v.afterFailure_keeps r behind copy.target
      have two := State.endWithoutIssue_of_succeeded (s := v.afterFailure r behind copy.target) (t := x)
        (work := work) (rest := rest) (by rw [kp]; exact vp.1) (by rw [kp]; exact vp.2)
        (by simp only [State.current, ku, vu]; exact hx) (by rw [ku, vu])
      refine (congrArg State.tryStart two).trans ?_
      rw [State.tryStart_of_down (by simp only [kp]; exact vp.1), ← State.afterFailure_upstream]
      simp only [ku, vu]
      refine congrArg (fun q => State.afterFailure q r behind copy.target) ?_
      subst hv
      have last : ∀ p : Progress, p = (if rest = [] then work.succeeded []
          else StoreWork.failed { work with runs := rest } (firstAddress x % 16)) → p.withFate .aborted = p := by
        rintro p rfl
        split <;> simp [StoreWork.succeeded, StoreWork.failed, Progress.withFate]
      simp only [State.afterAbort, last _ rfl]
      rfl

end Sys2Proof.Machine
end

