-- ==== Sys2Proof/Laws/PerInstr.lean ====
section
/-! SUPPORT. Laws/PerInstr.lean: what is said of every command as syntax, one lemma per constructor of `Instr`. -/

namespace Sys2Proof.Laws.FrameRoundTrip

/-- The frame of a command, read and written again, is the same frame (R156, R161, R171); nothing for the events that no write
frame carries. -/
def Statement (i : Instr) : Prop :=
  ∀ address frame, encodeFrame i = some (address, frame) → encodeFrame (decodeFrame address frame) = some (address, frame)

/-- The bytes of the value of a WRITE_CONFIG frame, least significant first (R161). -/
theorem wordOfBytes_byte (b0 b1 b2 b3 : Byte) (i : Nat) :
    (wordOfBytes b0 b1 b2 b3).getLsbD i = if i < 8 then b0.getLsbD i else if i < 16 then b1.getLsbD (i - 8)
      else if i < 24 then b2.getLsbD (i - 16) else b3.getLsbD (i - 24) := by
  unfold wordOfBytes
  erw [BitVec.getLsbD_append, BitVec.getLsbD_append, BitVec.getLsbD_append]
  by_cases h0 : i < 8
  · simp [h0]
  by_cases h1 : i < 16
  · have : i - 8 < 8 := by omega
    simp [h0, h1, this]
  have n8 : ¬ i - 8 < 8 := by omega
  have e8 : i - 8 - 8 = i - 16 := by omega
  rw [if_neg h0, if_neg n8, if_neg h0, if_neg h1, e8]
  by_cases h2 : i < 24
  · rw [if_pos (by omega), if_pos h2]
  · have e16 : i - 16 - 8 = i - 24 := by omega
    rw [if_neg (by omega), if_neg h2, e16]
/-- Four bytes make a word, and the word gives them back (R161, R171). -/
theorem frame_of_bytes (item b0 b1 b2 b3 : Byte) :
    writeConfigFrame item (wordOfBytes b0 b1 b2 b3) = [0x03#8, item, b0, b1, b2, b3] := by
  have key : ∀ k (b : Byte), (∀ i, i < 8 → (wordOfBytes b0 b1 b2 b3).getLsbD (k + i) = b.getLsbD i) →
      (wordOfBytes b0 b1 b2 b3).extractLsb' k 8 = b := by
    intro k b h
    apply BitVec.eq_of_getLsbD_eq
    intro i hi
    rw [BitVec.getLsbD_extractLsb', h i hi]
    simp [hi]
  unfold writeConfigFrame
  rw [key 0 b0, key 8 b1, key 16 b2, key 24 b3]
  all_goals
    intro i hi
    rw [wordOfBytes_byte]
  · rw [if_neg (by omega), if_neg (by omega), if_neg (by omega)]; congr 1; omega
  · rw [if_neg (by omega), if_neg (by omega), if_pos (by omega)]; congr 1; omega
  · rw [if_neg (by omega), if_pos (by omega)]; congr 1; omega
  · rw [if_pos (by omega)]; congr 1; omega

theorem encode_decode_writeConfig (address : BusAddress) (args : List Byte) :
    encodeFrame (decodeWriteConfig address args) = some (address, 0x03#8 :: args) := by
  unfold decodeWriteConfig
  split
  · rename_i item b0 b1 b2 b3
    unfold itemRow
    split <;> simp [encodeFrame, frame_of_bytes]
  · rfl

/-- Any frame, read and written again, is the same frame. -/
theorem encode_decode (address : BusAddress) (frame : List Byte) :
    encodeFrame (decodeFrame address frame) = some (address, frame) := by
  unfold decodeFrame
  split
  · rfl
  · split
    all_goals first
      | rfl
      | exact encode_decode_writeConfig _ _


theorem powerOn (straps : BitVec 2) : Statement (.powerOn straps) := fun _ _ _ => encode_decode _ _
theorem systemReset : Statement (.systemReset) := fun _ _ _ => encode_decode _ _
theorem transactionAccepted (transaction : Transaction) : Statement (.transactionAccepted transaction) := fun _ _ _ => encode_decode _ _
theorem answerTaken : Statement (.answerTaken) := fun _ _ _ => encode_decode _ _
theorem arbiterGrant : Statement (.arbiterGrant) := fun _ _ _ => encode_decode _ _
theorem memoryResponse (tag : Tag) (result : MemResult) (words : List StoredWord) (grantFirst : Bool) : Statement (.memoryResponse tag result words grantFirst) := fun _ _ _ => encode_decode _ _
theorem responseTimerExpiry (grantFirst : Bool) : Statement (.responseTimerExpiry grantFirst) := fun _ _ _ => encode_decode _ _
theorem scrubIntervalExpiry : Statement (.scrubIntervalExpiry) := fun _ _ _ => encode_decode _ _
theorem migrationStart : Statement (.migrationStart) := fun _ _ _ => encode_decode _ _
theorem readFrame (address : BusAddress) (count : Nat) : Statement (.readFrame address count) := fun _ _ _ => encode_decode _ _
theorem unknownCommand (address : BusAddress) (frame : List Byte) : Statement (.unknownCommand address frame) := fun _ _ _ => encode_decode _ _
theorem readStatus (address : BusAddress) (args : List Byte) : Statement (.readStatus address args) := fun _ _ _ => encode_decode _ _
theorem readConfig (address : BusAddress) (args : List Byte) : Statement (.readConfig address args) := fun _ _ _ => encode_decode _ _
theorem writeConfig (address : BusAddress) (args : List Byte) : Statement (.writeConfig address args) := fun _ _ _ => encode_decode _ _
theorem downstreamBlocks (address : BusAddress) (value : Word) : Statement (.downstreamBlocks address value) := fun _ _ _ => encode_decode _ _
theorem visibleBlocks (address : BusAddress) (value : Word) : Statement (.visibleBlocks address value) := fun _ _ _ => encode_decode _ _
theorem spareCount (address : BusAddress) (value : Word) : Statement (.spareCount address value) := fun _ _ _ => encode_decode _ _
theorem autoSpare (address : BusAddress) (value : Word) : Statement (.autoSpare address value) := fun _ _ _ => encode_decode _ _
theorem scrubEnable (address : BusAddress) (value : Word) : Statement (.scrubEnable address value) := fun _ _ _ => encode_decode _ _
theorem scrubInterval (address : BusAddress) (value : Word) : Statement (.scrubInterval address value) := fun _ _ _ => encode_decode _ _
theorem linkTimeout (address : BusAddress) (value : Word) : Statement (.linkTimeout address value) := fun _ _ _ => encode_decode _ _
theorem alertEnables (address : BusAddress) (value : Word) : Statement (.alertEnables address value) := fun _ _ _ => encode_decode _ _
theorem alertDepth (address : BusAddress) (value : Word) : Statement (.alertDepth address value) := fun _ _ _ => encode_decode _ _
theorem spareLowMark (address : BusAddress) (value : Word) : Statement (.spareLowMark address value) := fun _ _ _ => encode_decode _ _
theorem goOnline (address : BusAddress) (args : List Byte) : Statement (.goOnline address args) := fun _ _ _ => encode_decode _ _
theorem goOffline (address : BusAddress) (args : List Byte) : Statement (.goOffline address args) := fun _ _ _ => encode_decode _ _
theorem resetPart (address : BusAddress) (args : List Byte) : Statement (.resetPart address args) := fun _ _ _ => encode_decode _ _
theorem clearLink (address : BusAddress) (args : List Byte) : Statement (.clearLink address args) := fun _ _ _ => encode_decode _ _
theorem readRemap (address : BusAddress) (args : List Byte) : Statement (.readRemap address args) := fun _ _ _ => encode_decode _ _
theorem restoreRemap (address : BusAddress) (args : List Byte) : Statement (.restoreRemap address args) := fun _ _ _ => encode_decode _ _
theorem dropRemap (address : BusAddress) (args : List Byte) : Statement (.dropRemap address args) := fun _ _ _ => encode_decode _ _
theorem releaseSpare (address : BusAddress) (args : List Byte) : Statement (.releaseSpare address args) := fun _ _ _ => encode_decode _ _
theorem requestSpare (address : BusAddress) (args : List Byte) : Statement (.requestSpare address args) := fun _ _ _ => encode_decode _ _
theorem cancelRequest (address : BusAddress) (args : List Byte) : Statement (.cancelRequest address args) := fun _ _ _ => encode_decode _ _
theorem readQueue (address : BusAddress) (args : List Byte) : Statement (.readQueue address args) := fun _ _ _ => encode_decode _ _
theorem readWatch (address : BusAddress) (args : List Byte) : Statement (.readWatch address args) := fun _ _ _ => encode_decode _ _
theorem clearWatch (address : BusAddress) (args : List Byte) : Statement (.clearWatch address args) := fun _ _ _ => encode_decode _ _
theorem peekRecord (address : BusAddress) (args : List Byte) : Statement (.peekRecord address args) := fun _ _ _ => encode_decode _ _
theorem popRecord (address : BusAddress) (args : List Byte) : Statement (.popRecord address args) := fun _ _ _ => encode_decode _ _
theorem ackAlert (address : BusAddress) (args : List Byte) : Statement (.ackAlert address args) := fun _ _ _ => encode_decode _ _
theorem inject (address : BusAddress) (args : List Byte) : Statement (.inject address args) := fun _ _ _ => encode_decode _ _

end Sys2Proof.Laws.FrameRoundTrip
end

