-- ==== Sys2Proof/Laws/Watch.lean ====
section
/-! SUPPORT. Laws/Watch.lean: what the words of a read and a counted outcome leave, in the words of Safety.lean. -/

namespace Sys2Proof.Machine

/-! ## Slots -/

theorem WatchTable.lt_of_entryIn {w : WatchTable} {slot : Nat} {e : WatchEntry} (h : w.entryIn slot = some e) :
    slot < 32 := by
  by_contra hs
  simp [WatchTable.entryIn, Vector.getElem?_eq_none (Nat.le_of_not_lt hs)] at h

theorem WatchTable.setSlot_setSlot (w : WatchTable) (slot : Nat) (e f : Option WatchEntry) :
    (w.setSlot slot e).setSlot slot f = w.setSlot slot f := by simp [WatchTable.setSlot]

/-- The first slot that holds an entry for a location is the one found. -/
theorem WatchTable.slotOf_eq_some {w : WatchTable} {location : Location} {slot : Nat} {e : WatchEntry}
    (h : w.entryIn slot = some e) (he : e.location = location)
    (first : ∀ i f, i < slot → w.entryIn i = some f → f.location ≠ location) : w.slotOf location = some slot := by
  have hs := WatchTable.lt_of_entryIn h
  have slots : ∀ i (hi : i < 32), w.entryIn i = w.slots[i] := fun i hi => by simp [WatchTable.entryIn, hi]
  unfold WatchTable.slotOf
  rw [List.findIdx?_eq_some_iff_getElem]
  refine ⟨by simp [hs], ?_, fun j hj => ?_⟩
  · have at_slot := slots slot hs
    rw [h] at at_slot
    simp [← at_slot, he]
  · have at_j := slots j (by omega)
    simp only [Vector.getElem_toList]
    cases hx : w.slots[j] with
    | none => simp
    | some f => simpa using first j f hj (by rw [at_j, hx])

theorem WatchTable.slotOf_eq_none {w : WatchTable} {location : Location}
    (h : ∀ i f, w.entryIn i = some f → f.location ≠ location) : w.slotOf location = none := by
  unfold WatchTable.slotOf
  rw [List.findIdx?_eq_none_iff]
  intro x hx
  cases x with
  | none => rfl
  | some f =>
    obtain ⟨i, hi, e⟩ := List.mem_iff_getElem.mp hx
    simp only [Vector.length_toList, Vector.getElem_toList] at hi e
    simpa using h i f (by simp [WatchTable.entryIn, hi, e])

theorem WatchTable.lowestEmpty_eq_none {w : WatchTable} (h : ∀ i, i < 32 → w.entryIn i ≠ none) :
    w.lowestEmpty = none := by
  unfold WatchTable.lowestEmpty
  rw [List.findIdx?_eq_none_iff]
  intro x hx
  obtain ⟨i, hi, e⟩ := List.mem_iff_getElem.mp hx
  simp only [Vector.length_toList, Vector.getElem_toList] at hi e
  have filled := h i hi
  simp only [WatchTable.entryIn, hi, Vector.getElem?_eq_getElem, e] at filled
  cases x <;> simp_all

theorem WatchTable.lowestEmpty_eq_some {w : WatchTable} {slot : Nat} (hs : slot < 32) (h : w.entryIn slot = none)
    (first : ∀ i, i < slot → w.entryIn i ≠ none) : w.lowestEmpty = some slot := by
  unfold WatchTable.lowestEmpty
  rw [List.findIdx?_eq_some_iff_getElem]
  refine ⟨by simp [hs], ?_, fun j hj => ?_⟩
  · simp [WatchTable.entryIn, hs] at h
    simp [h]
  · have filled := first j hj
    simp [WatchTable.entryIn, show j < 32 by omega] at filled
    simp only [Vector.getElem_toList]
    cases hx : w.slots[j] <;> simp_all

theorem WatchTable.mem_filled {w : WatchTable} {i : Nat} {e : WatchEntry} :
    (i, e) ∈ w.filled ↔ w.entryIn i = some e := by
  unfold WatchTable.filled
  simp only [List.mem_filterMap]
  constructor
  · rintro ⟨⟨slot, j⟩, hm, h⟩
    simp at h
    cases slot with
    | none => simp at h
    | some f =>
      simp at h
      obtain ⟨rfl, rfl⟩ := h
      have there := List.mem_zipIdx_iff_getElem?.mp hm
      simp at there
      simp [WatchTable.entryIn, there]
  · intro h
    have hi := WatchTable.lt_of_entryIn h
    refine ⟨(some e, i), ?_, by simp⟩
    rw [List.mem_zipIdx_iff_getElem?]
    simp [WatchTable.entryIn, hi] at h
    simp [hi, h]

/-! ## Eviction -/

theorem firstBy_mem {before : Nat × WatchEntry → Nat × WatchEntry → Bool} {l : List (Nat × WatchEntry)}
    {m : Nat × WatchEntry} (h : firstBy before l = some m) : m ∈ l := by
  induction l generalizing m with
  | nil => simp [firstBy] at h
  | cons x xs ih =>
    unfold firstBy at h
    split at h
    · simp_all
    · rename_i best hb
      split at h
      · simp at h; subst h; simp [ih hb]
      · simp_all

/-- An element chosen over each other one is the one found. -/
theorem firstBy_eq_some {before : Nat × WatchEntry → Nat × WatchEntry → Bool} {l : List (Nat × WatchEntry)}
    {m : Nat × WatchEntry} (hm : m ∈ l) (h : ∀ x ∈ l, x ≠ m → before m x = true ∧ before x m = false) :
    firstBy before l = some m := by
  induction l with
  | nil => simp at hm
  | cons x xs ih =>
    unfold firstBy
    by_cases hx : m ∈ xs
    · rw [ih hx fun y hy => h y (by simp [hy])]
      by_cases he : x = m
      · subst he; simp
      · simp [(h x (by simp) he).1]
    · obtain rfl : m = x := by simpa [hx] using hm
      cases hb : firstBy before xs with
      | none => rfl
      | some b =>
        have hmem := firstBy_mem hb
        simp [(h b (by simp [hmem]) (by rintro rfl; exact hx hmem)).2]

theorem WatchTable.evictee_eq_some {w : WatchTable} {slot : Nat} {old : WatchEntry} (h : w.entryIn slot = some old)
    (tracking : old.state = .tracking)
    (smallest : ∀ i e, i ≠ slot → w.entryIn i = some e → e.state = .tracking →
      old.corrected < e.corrected ∨ old.corrected = e.corrected ∧ old.stamp.toNat < e.stamp.toNat) :
    w.evictee = some slot := by
  unfold WatchTable.evictee
  rw [firstBy_eq_some (m := (slot, old))]
  · rfl
  · simp [WatchTable.mem_filled, h, tracking]
  · rintro ⟨i, e⟩ hx hne
    simp [WatchTable.mem_filled] at hx
    have hi : i ≠ slot := by
      rintro rfl
      exact hne (by rw [Option.some.inj (hx.1.symm.trans h)])
    rcases smallest i e hi hx.1 hx.2 with less | ⟨same, older⟩
    · simp [evictedBefore, less, show ¬ e.corrected < old.corrected by omega,
        show old.corrected ≠ e.corrected by omega, show e.corrected ≠ old.corrected by omega]
    · have ne : old.stamp ≠ e.stamp := by
        intro q
        rw [q] at older
        omega
      simp [evictedBefore, olderThan, same, ne, ne.symm]
      omega

/-! ## Counting -/

theorem WatchEntry.count_eq (e : WatchEntry) (offset : Nat) (bad : Bool) : e.count offset bad = e.counted bad offset := by
  unfold WatchEntry.count WatchEntry.counted
  cases bad <;> simp

/-- Where `WatchTable.countsIn` says a location is counted, there the table makes sure of its entry. -/
theorem WatchTable.ensure_of_countsIn {w table : WatchTable} {location : Location} {slot : Nat} {before : WatchEntry}
    (h : w.countsIn location slot before table) :
    ∃ t, w.ensure location = some (slot, t) ∧ t.entryIn slot = some before ∧ slot < 32
      ∧ (∀ e, t.setSlot slot e = table.setSlot slot e)
      ∧ (∀ i f, i < slot → table.entryIn i = some f → f.location ≠ location) ∧ before.location = location := by
  rcases h with ⟨h, hl, rfl, first⟩ | ⟨none_names, hs, rfl, rfl, place⟩
  · exact ⟨_, by simp [WatchTable.ensure, WatchTable.slotOf_eq_some h hl first], h, WatchTable.lt_of_entryIn h,
      fun _ => rfl, first, hl⟩
  · have new : w.slotForNew = some slot := by
      rcases place with ⟨empty, first⟩ | ⟨full, old, hold, tracking, smallest⟩
      · simp [WatchTable.slotForNew, WatchTable.lowestEmpty_eq_some hs empty first]
      · simp [WatchTable.slotForNew, WatchTable.lowestEmpty_eq_none full,
          WatchTable.evictee_eq_some hold tracking smallest]
    refine ⟨w.create slot location, by simp [WatchTable.ensure, WatchTable.slotOf_eq_none none_names, new], ?_, hs, ?_,
      fun i f _ h => none_names i f h, rfl⟩
    · simp [WatchTable.create, WatchTable.entryIn, WatchTable.setSlot, hs]
    · intro e
      simp [WatchTable.create, WatchTable.setSlot]

/-- No entry can be had for a location that none names where no slot is empty and no entry TRACKING (R63). -/
theorem WatchTable.ensure_eq_none {w : WatchTable} {location : Location}
    (h : ∀ slot, slot < 32 → ∃ e, w.entryIn slot = some e ∧ e.location ≠ location ∧ e.state ≠ .tracking) :
    w.ensure location = none := by
  have unnamed : w.slotOf location = none := WatchTable.slotOf_eq_none fun i f hf => by
    obtain ⟨e, he, hl, -⟩ := h i (WatchTable.lt_of_entryIn hf)
    exact Option.some.inj (hf.symm.trans he) ▸ hl
  have full : w.lowestEmpty = none := WatchTable.lowestEmpty_eq_none fun i hi => by
    obtain ⟨e, he, -⟩ := h i hi
    simp [he]
  have kept : w.evictee = none := by
    have tracking : (w.filled.filter fun e => e.2.state == .tracking) = [] := by
      rw [List.filter_eq_nil_iff]
      rintro ⟨i, e⟩ hm
      rw [WatchTable.mem_filled] at hm
      obtain ⟨f, hf, -, ht⟩ := h i (WatchTable.lt_of_entryIn hm)
      simpa [Option.some.inj (hm.symm.trans hf)] using ht
    unfold WatchTable.evictee
    rw [tracking]
    rfl
  simp [WatchTable.ensure, unnamed, WatchTable.slotForNew, full, kept]

/-- An outcome that no entry can be had for: the untracked count, and a TRACKING_FULL record if the read has made none (R63). -/
theorem State.countOutcome_untracked {s : State} {location : Location}
    (h : ∀ slot, slot < 32 → ∃ e, s.watch.entryIn slot = some e ∧ e.location ≠ location ∧ e.state ≠ .tracking)
    (source : RecordSource) (offset : Nat) (bad full : Bool) :
    s.countOutcome source location offset bad full =
      ({ s with
          watch := { s.watch with untracked := min (s.watch.untracked + 1) 65535 }
          records :=
            if full then s.records
            else s.records.take
              { kind := .trackingFull, source := source, location := some location, offset := some offset } }, true) := by
  cases full <;> simp [State.countOutcome, WatchTable.ensure_eq_none h, saturate, State.makeRecord]

/-- A counted outcome: the entry it makes, and a candidate exactly where that entry is TRACKING and at a threshold (R61, R64). -/
theorem State.countOutcome_counted {s : State} {location : Location} {slot offset : Nat} {before e : WatchEntry}
    {table : WatchTable} {bad : Bool} (h : s.watch.countsIn location slot before table) (he : e = before.counted bad offset)
    (source : RecordSource) (f : Bool) :
    (e.state ≠ .tracking ∨ ¬ e.atLimit s.settings →
        s.countOutcome source location offset bad f = ({ s with watch := table.setSlot slot (some e) }, f))
      ∧ (e.state = .tracking → e.atLimit s.settings →
        s.countOutcome source location offset bad f
          = (State.becomeCandidate { s with watch := table.setSlot slot (some e) } source location offset, f)) := by
  obtain ⟨t, found, there, -, sets, -, -⟩ := WatchTable.ensure_of_countsIn h
  have limit : e.meetsLimit s.settings = true ↔ e.atLimit s.settings := by
    simp [WatchEntry.meetsLimit, WatchEntry.atLimit, or_assoc]
  simp only [State.countOutcome, found, there, WatchEntry.count_eq, ← he, sets]
  refine ⟨fun no => if_neg ?_, fun tracking at_limit => if_pos ⟨tracking, limit.mpr at_limit⟩⟩
  rintro ⟨a, b⟩
  exact no.elim (fun n => n a) (fun n => n (limit.mp b))

/-! ## The write-back buffer and the management port, which the engine does not read -/

theorem State.offerWaiting_with (s : State) (m : ManagementPort) (b : WriteBackBuffer) :
    State.offerWaiting { s with management := m, writeBack := b }
      = { s.offerWaiting with management := m, writeBack := b } := by
  unfold State.offerWaiting
  dsimp only [State.hasRequest]
  cases s.watch.oldestWaiting with
  | none => rfl
  | some oldest =>
    by_cases named : (s.migration.queue.any fun r => r.location == oldest.2.location) = true
    · simp [named, State.queueEntry]
    · by_cases room : s.migration.queue.length < 8 <;>
        simp [named, room, State.queueEntry, State.joinQueue, State.setQueue]

theorem State.placeFreed_with (s : State) (m : ManagementPort) (b : WriteBackBuffer) :
    State.placeFreed { s with management := m, writeBack := b } = { s.placeFreed with management := m, writeBack := b } := by
  unfold State.placeFreed
  dsimp only
  split
  · exact s.offerWaiting_with m b
  · rfl

/-- The places that free neither read nor change the management port and the write-back buffer. -/
theorem State.placesFreed_with (n : Nat) (s : State) (m : ManagementPort) (b : WriteBackBuffer) :
    State.placesFreed n { s with management := m, writeBack := b }
      = { State.placesFreed n s with management := m, writeBack := b } := by
  induction n generalizing s with
  | zero => rfl
  | succ n ih => rw [State.placesFreed, State.placeFreed_with, ih, State.placesFreed]

theorem State.dropStale_with (s : State) (location : Location) (rest : List Request) (m : ManagementPort)
    (b : WriteBackBuffer) :
    State.dropStale { s with management := m, writeBack := b } location rest
      = { s.dropStale location rest with management := m, writeBack := b } :=
  State.placeFreed_with (State.makeRecord { s.setQueue rest with watch := s.watch.remove location } _) m b

theorem State.tryLoop_with (n : Nat) (s : State) (m : ManagementPort) (b : WriteBackBuffer) :
    State.tryLoop n { s with management := m, writeBack := b }
      = { State.tryLoop n s with management := m, writeBack := b } := by
  induction n generalizing s with
  | zero => rfl
  | succ n ih =>
    unfold State.tryLoop
    rw [show State.mayTry { s with management := m, writeBack := b } = s.mayTry from rfl]
    split
    · dsimp only
      split
      · rfl
      · rename_i r rest _
        rw [show State.validRequest { s with management := m, writeBack := b } r.location = s.validRequest r.location from rfl]
        split
        · split <;> rfl
        · rw [State.dropStale_with, ih]
    · rfl

/-- The engine's try neither reads nor changes the management port and the write-back buffer. -/
theorem State.tryStart_with (s : State) (m : ManagementPort) (b : WriteBackBuffer) :
    State.tryStart { s with management := m, writeBack := b } = { s.tryStart with management := m, writeBack := b } :=
  State.tryLoop_with _ s m b

/-- Counting neither reads nor changes the write-back buffer. -/
theorem State.countOutcome_with (s : State) (source : RecordSource) (location : Location) (offset : Nat) (bad full : Bool)
    (b : WriteBackBuffer) :
    State.countOutcome { s with writeBack := b } source location offset bad full
      = ({ (s.countOutcome source location offset bad full).1 with writeBack := b },
          (s.countOutcome source location offset bad full).2) := by
  have candidate : ∀ t : State, State.becomeCandidate { t with writeBack := b } source location offset
      = { t.becomeCandidate source location offset with writeBack := b } := by
    intro t
    unfold State.becomeCandidate
    rw [show State.hasRequest { t with writeBack := b } location = t.hasRequest location from rfl]
    by_cases named : t.hasRequest location = true
    · rw [if_pos named, if_pos named]
      rfl
    · rw [if_neg named, if_neg named]
      by_cases room : t.settings.autoSpare = true ∧ t.migration.queue.length < 8
      · rw [if_pos room, if_pos room]
        exact State.tryStart_with (((t.makeRecord _).queueEntry location).joinQueue location .auto) t.management b |>.trans
          (by simp [State.makeRecord, State.queueEntry, State.joinQueue, State.setQueue])
      · rw [if_neg room, if_neg room]
        rfl
  unfold State.countOutcome
  dsimp only
  split
  · split <;> rfl
  · split
    · rfl
    · split
      · rw [← candidate]
      · rfl

/-! ## The words of a read -/

/-- Of a read with one word that is not CLEAN, that word alone is taken. -/
theorem State.takeWords_one (s : State) (use : ReadUse) {words : List StoredWord} {k : Nat} {w : StoredWord} (first : Nat)
    (hk : words[k]? = some w) (clean : ∀ j x, words[j]? = some x → j ≠ k → (classify x).1 = .clean) :
    s.takeWords use first words false = (s.takeWord use (first + k) w false).1 := by
  induction words generalizing first k with
  | nil => simp at hk
  | cons x xs ih =>
    rw [State.takeWords_cons]
    cases k with
    | zero =>
      obtain rfl : x = w := by simpa using hk
      rw [State.takeWords_clean]
      · rfl
      · intro y hy
        obtain ⟨j, hj, rfl⟩ := List.mem_iff_getElem.mp hy
        exact clean (j + 1) _ (by simp [hj]) (by omega)
    | succ k =>
      rw [State.takeWord_clean (clean 0 x (by simp) (by omega)),
        ih (first + 1) (by simpa using hk) fun j y hj ne => clean (j + 1) y (by simpa using hj) (by omega),
        show first + 1 + k = first + (k + 1) by omega]

/-- A location that the first slots do not name is changed in its own slot. -/
theorem WatchTable.modify_setSlot {w : WatchTable} {location : Location} {slot : Nat} {e : WatchEntry} (hs : slot < 32)
    (he : e.location = location) (first : ∀ i f, i < slot → w.entryIn i = some f → f.location ≠ location)
    (f : WatchEntry → WatchEntry) :
    (w.setSlot slot (some e)).modify location f = w.setSlot slot (some (f e)) := by
  have there : (w.setSlot slot (some e)).entryIn slot = some e := by simp [WatchTable.entryIn_setSlot, hs]
  have found : (w.setSlot slot (some e)).slotOf location = some slot :=
    WatchTable.slotOf_eq_some there he fun i g hi h => by
      rw [WatchTable.entryIn_setSlot, if_neg (by omega)] at h
      exact first i g hi h
  simp [WatchTable.modify, found, there, WatchTable.setSlot_setSlot]

theorem State.hasRequest_iff {s : State} {location : Location} :
    s.hasRequest location = true ↔ ∃ r ∈ s.migration.queue, r.location = location := by
  simp [State.hasRequest]

theorem WatchEntry.counted_location (e : WatchEntry) (bad : Bool) (offset : Nat) :
    (e.counted bad offset).location = e.location := by
  unfold WatchEntry.counted
  split <;> rfl

/-- What `State.wordTaken` says of a counted outcome is what counting does. -/
theorem State.countOutcome_of_wordTaken {s v : State} {place : ReadPlace} {w : StoredWord} {full full' : Bool}
    (h : s.wordTaken place w full v full') :
    ∀ bad : Bool, (classify w).1 = (if bad then .uncorrectable else .corrected) →
      State.countOutcome
        { s with
          records :=
            if bad = true ∨ s.settings.recordCorrected = true then
              s.records.take
                { kind := if bad then .uncorrectable else .corrected, source := place.source,
                  location := some place.location, offset := some place.offset }
            else s.records } place.source place.location place.offset bad full = (v, full') := by
  intro bad hbad
  rcases h with ⟨hc, -⟩ | ⟨hc, -⟩ | ⟨bad', read, hc, hread, h⟩
  · cases bad <;> simp [hc] at hbad
  · cases bad <;> simp [hc] at hbad
  · obtain rfl : bad = bad' := by
      cases bad <;> cases bad' <;> simp_all
    rw [← hread]
    have hw : read.watch = s.watch := by rw [hread]
    have hm : read.migration = s.migration := by rw [hread]
    have hset : read.settings = s.settings := by rw [hread]
    rcases h with ⟨none_left, rfl, rfl⟩ | ⟨slot, before, table, e, hin, he, rfl, h⟩
    · rw [State.countOutcome_untracked (by rw [hw]; exact none_left), hw]
    · obtain ⟨-, -, -, slot_lt, -, first, at_place⟩ := WatchTable.ensure_of_countsIn hin
      have named_by : e.location = place.location := by rw [he, WatchEntry.counted_location, at_place]
      have outcome := State.countOutcome_counted (s := read) (by rw [hw]; exact hin) he place.source full'
      rw [← hset] at h
      rcases h with ⟨no, rfl⟩ | ⟨tracking, limit, noted, hnoted, h⟩
      · exact outcome.1 no
      · rw [outcome.2 tracking limit]
        refine Prod.ext ?_ rfl
        show State.becomeCandidate _ place.source place.location place.offset = v
        have queued := WatchTable.modify_setSlot slot_lt named_by first WatchEntry.enqueue
        have waiting := WatchTable.modify_setSlot slot_lt named_by first fun e => { e with state := .waiting }
        have requests : State.hasRequest { read with watch := table.setSlot slot (some e) } place.location = true ↔
            ∃ r ∈ s.migration.queue, r.location = place.location := by rw [State.hasRequest_iff]; simp [hm]
        unfold State.becomeCandidate
        dsimp only
        rcases h with ⟨named, rfl⟩ | ⟨unnamed, h⟩
        · rw [if_pos (requests.mpr named)]
          simp [State.queueEntry, State.makeRecord, queued, hnoted]
          rfl
        · rw [if_neg (by rw [requests]; rintro ⟨r, hr, hl⟩; exact unnamed r hr hl)]
          rcases h with ⟨no, rfl⟩ | ⟨auto, room, h⟩
          · have none_joins : ¬ (read.settings.autoSpare = true ∧ read.migration.queue.length < 8) := by
              rw [hm]
              rintro ⟨a, b⟩
              rcases no with n | n
              · simp [n] at a
              · omega
            rw [if_neg none_joins]
            simp [State.makeRecord, waiting, hnoted]
          · rw [if_pos (by simp only [hm]; exact ⟨auto, room⟩)]
            simp only [exec, execMigrationStart, Host.Outcome.next.injEq] at h
            rw [← h, hnoted]
            simp [State.queueEntry, State.joinQueue, State.setQueue, State.makeRecord, queued, hm]
            rfl

/-- A word of a read does what `State.wordTaken` says, and makes the read's offer. -/
theorem State.takeWord_of_wordTaken {s v : State} {use : ReadUse} {word : Nat} {place : ReadPlace} {w : StoredWord}
    {full full' : Bool} (h : s.wordTaken place w full v full') (hs : place.source = use.source)
    (hl : place.location = locationOf s.settings use.block) (ho : place.offset = 16 * use.line + word)
    (hp : use.recordsPoison = true ↔ use.source ≠ .copy) (b : WriteBackBuffer) :
    State.takeWord { s with writeBack := b } use word w full
      = ({ v with
            writeBack :=
              if use.offers = true ∧ (classify w).1 = .corrected then
                b.offer { block := use.block, line := use.line, word := word, data := (classify w).2 }
              else b }, full') := by
  have counts := State.countOutcome_of_wordTaken h
  have outcome : ∃ o d, classify w = (o, d) := ⟨_, _, rfl⟩
  obtain ⟨o, d, hcl⟩ := outcome
  rw [hs, hl, ho] at counts
  cases o with
  | clean =>
    rcases h with ⟨-, rfl, rfl⟩ | ⟨hc, -⟩ | ⟨bad, _, hc, -⟩
    · simp [State.takeWord, hcl]
    · simp [hcl] at hc
    · cases bad <;> simp [hcl] at hc
  | poisoned =>
    rcases h with ⟨hc, -⟩ | ⟨-, rfl, rfl⟩ | ⟨bad, _, hc, -⟩
    · simp [hcl] at hc
    · by_cases copy : use.source = .copy
      · simp [State.takeWord, hcl, hs, copy, show use.recordsPoison = false by simpa [copy] using hp]
      · simp [State.takeWord, hcl, hs, hl, ho, copy, hp.mpr copy, State.makeRecord]
    · cases bad <;> simp [hcl] at hc
  | uncorrectable =>
    have counted := counts true (by simp [hcl])
    have moved := State.countOutcome_with
      { s with
        records := s.records.take
          { kind := .uncorrectable, source := use.source, location := some (locationOf s.settings use.block),
            offset := some (16 * use.line + word) } }
      use.source (locationOf s.settings use.block) (16 * use.line + word) true full b
    simp only [true_or, if_true] at counted
    rw [counted] at moved
    simp only [State.takeWord, hcl, State.makeRecord]
    simpa using moved
  | corrected =>
    have counted := counts false (by simp [hcl])
    have moved := State.countOutcome_with
      { s with
        records :=
          if s.settings.recordCorrected = true then
            s.records.take
              { kind := .corrected, source := use.source, location := some (locationOf s.settings use.block),
                offset := some (16 * use.line + word) }
          else s.records }
      use.source (locationOf s.settings use.block) (16 * use.line + word) false full b
    simp only [Bool.false_eq_true, false_or, if_false] at counted
    rw [counted] at moved
    have noted : (if s.settings.recordCorrected = true then
          State.makeRecord { s with writeBack := b }
            { kind := .corrected, source := use.source, location := some (locationOf s.settings use.block),
              offset := some (16 * use.line + word) }
        else { s with writeBack := b })
        = { s with
            writeBack := b
            records :=
              if s.settings.recordCorrected = true then
                s.records.take
                  { kind := .corrected, source := use.source, location := some (locationOf s.settings use.block),
                    offset := some (16 * use.line + word) }
              else s.records } := by
      split <;> rfl
    simp only [State.takeWord, hcl, noted, moved]
    cases use.offers <;> simp

/-- The offers of a word and of those behind it. -/
theorem offersOf_cons (block line first : Nat) (w : StoredWord) (rest : List StoredWord) :
    offersOf block line first (w :: rest)
      = (if (classify w).1 = .corrected then
          [{ block := block, line := line, word := first, data := (classify w).2 }] else [])
        ++ offersOf block line (first + 1) rest := by
  have shift : offersOf block line (first + 1) rest
      = (rest.zipIdx 1).filterMap fun (w, k) =>
        if (classify w).1 = .corrected then
          some { block := block, line := line, word := first + k, data := (classify w).2 }
        else none := by
    rw [offersOf, List.zipIdx_succ, List.filterMap_map]
    exact congrArg (List.filterMap · _) (funext fun x => by simp [Nat.add_comm, Nat.add_left_comm])
  rw [shift, offersOf, List.zipIdx_cons, List.filterMap_cons]
  split <;> simp_all

/-- The words of a read do what `State.wordsTaken` says, and make the read's offers. -/
theorem State.takeWords_of_wordsTaken {use : ReadUse} (hp : use.recordsPoison = true ↔ use.source ≠ .copy)
    {words : List StoredWord} {s v : State} {place : ReadPlace} {word : Nat} {full : Bool}
    (h : s.wordsTaken place words full v) (hs : place.source = use.source)
    (hl : place.location = locationOf s.settings use.block) (ho : place.offset = 16 * use.line + word)
    (b : WriteBackBuffer) :
    State.takeWords { s with writeBack := b } use word words full
      = { v with
          writeBack :=
            if use.offers then (offersOf use.block use.line word words).foldl WriteBackBuffer.offer b else b } := by
  induction words generalizing s place word full b with
  | nil =>
    obtain rfl : v = s := h
    cases use.offers <;> simp [offersOf]
  | cons w rest ih =>
    obtain ⟨next, full', hw, hrest⟩ := h
    have taken := State.takeWord_of_wordTaken hw hs hl ho hp b
    have settings : next.settings = s.settings := by
      have kept := congrArg (fun t => t.1.settings) taken
      simpa using kept.symm
    rw [State.takeWords_cons, taken,
      ih (word := word + 1) hrest hs (by rw [settings]; exact hl) (by show place.offset + 1 = _; omega), offersOf_cons]
    by_cases corrected : (classify w).1 = .corrected <;> cases use.offers <;> simp [corrected]

/-- What the words of a read leave alone. -/
theorem State.wordsTaken_keeps {words : List StoredWord} {s v : State} {place : ReadPlace} {full : Bool}
    (h : s.wordsTaken place words full v) :
    v.port = s.port ∧ v.upstream = s.upstream ∧ v.settings = s.settings ∧ v.scrubber = s.scrubber
      ∧ v.writeBack = s.writeBack := by
  induction words generalizing s place full with
  | nil =>
    obtain rfl : v = s := h
    simp
  | cons w rest ih =>
    obtain ⟨next, full', hw, hrest⟩ := h
    have kept : next.port = s.port ∧ next.upstream = s.upstream ∧ next.settings = s.settings
        ∧ next.scrubber = s.scrubber ∧ next.writeBack = s.writeBack := by
      rcases hw with ⟨-, rfl, -⟩ | ⟨-, -, rfl⟩ | ⟨bad, read, -, rfl, h⟩
      · simp
      · simp
      · rcases h with ⟨-, -, rfl⟩
          | ⟨_, _, _, _, -, -, -, ⟨-, rfl⟩ | ⟨-, -, noted, rfl, ⟨-, rfl⟩ | ⟨-, ⟨-, rfl⟩ | ⟨-, -, h⟩⟩⟩⟩
        iterate 4 simp
        simp only [exec, execMigrationStart, Host.Outcome.next.injEq] at h
        rw [← h]
        simp
    have behind := ih hrest
    simp_all

end Sys2Proof.Machine
end

