-- ==== Sys2Proof/Laws/Tries.lean ====
section
/-! SUPPORT. Laws/Tries.lean: the fuel of the tries and of the offers is never spent, where the watch table names no location
twice. -/

namespace Sys2Proof.Machine

/-! ## Distinct locations, and the entries that wait -/

/-- No two slots hold entries for one location (R58). -/
def WatchTable.distinct (w : WatchTable) : Prop :=
  ∀ i j e f, w.entryIn i = some e → w.entryIn j = some f → e.location = f.location → i = j

/-- The slots whose entries are WAITING. -/
def WatchTable.waitingSlots (w : WatchTable) : Finset (Fin 32) :=
  Finset.univ.filter fun i => (w.entryIn i).any (·.state == .waiting) = true

theorem WatchTable.mem_waitingSlots {w : WatchTable} {i : Fin 32} :
    i ∈ w.waitingSlots ↔ ∃ e, w.entryIn i = some e ∧ e.state = .waiting := by
  simp [WatchTable.waitingSlots, Option.any_eq_true]

theorem WatchTable.card_waitingSlots_le (w : WatchTable) : w.waitingSlots.card ≤ 32 :=
  (Finset.card_le_univ _).trans (by simp)

/-- The laws of the table rule out two entries for one location. -/
theorem WatchTable.distinct_of_nodup {w : WatchTable} (h : (w.entries.map (·.location)).Nodup) : w.distinct := by
  intro i j e f he hf hl
  by_contra ne
  have hi := WatchTable.lt_of_entryIn he
  have hj := WatchTable.lt_of_entryIn hf
  unfold WatchTable.entries at h
  rw [List.map_filterMap] at h
  have key : ∀ l : List (Option WatchEntry), (l.filterMap fun x => (id x).map (·.location)).Nodup →
      ∀ (i j : Nat) (e f : WatchEntry), i < j → l[i]? = some (some e) → l[j]? = some (some f) → e.location ≠ f.location := by
    intro l
    induction l with
    | nil => intro _ i j e f _ hi; simp at hi
    | cons x xs ih =>
      intro hn i j e f hij hi hj
      cases j with
      | zero => omega
      | succ j =>
        have hj' : xs[j]? = some (some f) := by simpa using hj
        cases i with
        | zero =>
          obtain rfl : x = some e := by simpa using hi
          simp only [List.filterMap_cons, id, Option.map_some, List.nodup_cons] at hn
          intro hl
          exact hn.1 (List.mem_filterMap.mpr ⟨some f, List.mem_of_getElem? hj', by simp [hl]⟩)
        | succ i =>
          refine ih ?_ i j e f (by omega) (by simpa using hi) hj'
          simp only [List.filterMap_cons] at hn
          split at hn
          · exact hn
          · exact (List.nodup_cons.mp hn).2
  have slots : ∀ k x, w.entryIn k = some x → w.slots.toList[k]? = some (some x) := by
    intro k x hk
    have hlt := WatchTable.lt_of_entryIn hk
    simpa [WatchTable.entryIn, hlt] using hk
  rcases Nat.lt_or_gt_of_ne ne with lt | gt
  · exact key _ h i j e f lt (slots i e he) (slots j f hf) hl
  · exact key _ h j i f e gt (slots j f hf) (slots i e he) hl.symm

theorem WatchTable.distinct.slotOf {w : WatchTable} (h : w.distinct) {slot : Nat} {e : WatchEntry}
    (he : w.entryIn slot = some e) : w.slotOf e.location = some slot :=
  WatchTable.slotOf_eq_some he rfl fun i f hi hf hl => by
    have := h i slot f e hf he hl
    omega

/-- A slot emptied, or given another entry for the same location, leaves the locations distinct. -/
theorem WatchTable.distinct.setSlot {w : WatchTable} (h : w.distinct) {slot : Nat} {e : Option WatchEntry}
    (same : ∀ f ∈ e, ∃ g, w.entryIn slot = some g ∧ g.location = f.location) : (w.setSlot slot e).distinct := by
  have old : ∀ i f, (w.setSlot slot e).entryIn i = some f → ∃ g, w.entryIn i = some g ∧ g.location = f.location := by
    intro i f hf
    rw [WatchTable.entryIn_setSlot] at hf
    split at hf
    · rename_i hs
      obtain ⟨rfl, -⟩ := hs
      exact same f hf
    · exact ⟨f, hf, rfl⟩
  intro i j f g hf hg hl
  obtain ⟨f', hf', fl⟩ := old i f hf
  obtain ⟨g', hg', gl⟩ := old j g hg
  exact h i j f' g' hf' hg' (by rw [fl, gl, hl])

theorem WatchTable.distinct.remove {w : WatchTable} (h : w.distinct) (location : Location) : (w.remove location).distinct := by
  unfold WatchTable.remove
  split
  · exact h.setSlot (by simp)
  · exact h

theorem WatchTable.waitingSlots_remove (w : WatchTable) (location : Location) :
    (w.remove location).waitingSlots ⊆ w.waitingSlots := by
  intro i hi
  rw [WatchTable.mem_waitingSlots] at hi ⊢
  obtain ⟨e, he, hw⟩ := hi
  unfold WatchTable.remove at he
  split at he
  · rw [WatchTable.entryIn_setSlot] at he
    split at he
    · simp at he
    · exact ⟨e, he, hw⟩
  · exact ⟨e, he, hw⟩

/-- The entry of a filled slot, changed: its slot is the one set. -/
theorem WatchTable.distinct.modify {w : WatchTable} (h : w.distinct) {slot : Nat} {e : WatchEntry}
    (he : w.entryIn slot = some e) (f : WatchEntry → WatchEntry) :
    w.modify e.location f = w.setSlot slot (some (f e)) := by
  simp [WatchTable.modify, h.slotOf he, he]

/-- An entry taken out of WAITING leaves one slot fewer. -/
theorem WatchTable.waitingSlots_setSlot {w : WatchTable} {slot : Nat} {e f : WatchEntry} (he : w.entryIn slot = some e)
    (hw : e.state = .waiting) (hf : f.state ≠ .waiting) :
    (w.setSlot slot (some f)).waitingSlots.card + 1 ≤ w.waitingSlots.card := by
  have hs := WatchTable.lt_of_entryIn he
  have mem : (⟨slot, hs⟩ : Fin 32) ∈ w.waitingSlots := WatchTable.mem_waitingSlots.mpr ⟨e, he, hw⟩
  refine Finset.card_lt_card ⟨fun i hi => ?_, fun sub => ?_⟩
  · rw [WatchTable.mem_waitingSlots] at hi ⊢
    obtain ⟨g, hg, gw⟩ := hi
    rw [WatchTable.entryIn_setSlot] at hg
    split at hg
    · cases hg; exact absurd gw hf
    · exact ⟨g, hg, gw⟩
  · obtain ⟨g, hg, gw⟩ := WatchTable.mem_waitingSlots.mp (sub mem)
    rw [WatchTable.entryIn_setSlot, if_pos ⟨rfl, hs⟩] at hg
    cases hg
    exact hf gw

/-! ## The oldest WAITING entry -/

theorem WatchTable.oldestWaiting_some {w : WatchTable} {slot : Nat} {e : WatchEntry} (h : w.oldestWaiting = some (slot, e)) :
    w.entryIn slot = some e ∧ e.state = .waiting := by
  have mem := firstBy_mem h
  simpa [WatchTable.mem_filled] using mem

/-- The WAITING entry whose stamp is below every other's is the oldest (R59, R68). -/
theorem WatchTable.oldestWaiting_eq_some {w : WatchTable} {slot : Nat} {e : WatchEntry} (he : w.entryIn slot = some e)
    (hw : e.state = .waiting)
    (smallest : ∀ i f, i ≠ slot → w.entryIn i = some f → f.state = .waiting → e.stamp.toNat < f.stamp.toNat) :
    w.oldestWaiting = some (slot, e) := by
  unfold WatchTable.oldestWaiting
  refine firstBy_eq_some (by simp [WatchTable.mem_filled, he, hw]) ?_
  rintro ⟨i, f⟩ hx ne
  simp [WatchTable.mem_filled] at hx
  have hi : i ≠ slot := by
    rintro rfl
    exact ne (by rw [Option.some.inj (hx.1.symm.trans he)])
  have older := smallest i f hi hx.1 hx.2
  have differ : e.stamp ≠ f.stamp := by intro q; rw [q] at older; omega
  simp [olderThan, differ, differ.symm]
  omega

/-! ## Places freed, and the tries one moment brings -/

/-- What the requests and the WAITING entries leave to be tried. -/
def State.toTry (s : State) : Nat := s.migration.queue.length + s.watch.waitingSlots.card

theorem State.offerWaiting_toTry {s : State} (h : s.watch.distinct) :
    s.offerWaiting.watch.distinct ∧ s.offerWaiting.toTry ≤ s.toTry
      ∧ s.offerWaiting.watch.waitingSlots.card ≤ s.watch.waitingSlots.card := by
  unfold State.offerWaiting
  split
  · exact ⟨h, le_rfl, le_rfl⟩
  · rename_i slot e oldest
    obtain ⟨he, hw⟩ := WatchTable.oldestWaiting_some oldest
    have queued : s.watch.modify e.location WatchEntry.enqueue = s.watch.setSlot slot (some { e with state := .queued }) :=
      h.modify he _
    have fewer := WatchTable.waitingSlots_setSlot he hw (f := { e with state := .queued }) (by simp)
    have still : (s.watch.setSlot slot (some { e with state := .queued })).distinct := h.setSlot (by simp [he])
    split
    · simp only [State.queueEntry, queued, State.toTry]
      exact ⟨still, by omega, by omega⟩
    · split
      · simp only [State.queueEntry, State.joinQueue, State.setQueue, queued, State.toTry, List.length_append,
          List.length_singleton]
        exact ⟨still, by omega, by omega⟩
      · exact ⟨h, le_rfl, le_rfl⟩

theorem State.dropStale_toTry {s : State} (h : s.watch.distinct) {r : Request} {rest : List Request}
    (hq : s.migration.queue = r :: rest) :
    (s.dropStale r.location rest).watch.distinct ∧ (s.dropStale r.location rest).toTry + 1 ≤ s.toTry := by
  have fewer := Finset.card_le_card (WatchTable.waitingSlots_remove s.watch r.location)
  have removed : ∀ t : State, t.watch = s.watch.remove r.location → t.migration.queue = rest →
      t.placeFreed.watch.distinct ∧ t.placeFreed.toTry + 1 ≤ s.toTry := by
    intro t ht hr
    have less : t.toTry + 1 ≤ s.toTry := by simp only [State.toTry, ht, hr, hq, List.length_cons]; omega
    have distinct : t.watch.distinct := by rw [ht]; exact h.remove _
    unfold State.placeFreed
    split
    · have := State.offerWaiting_toTry distinct
      exact ⟨this.1, by omega⟩
    · exact ⟨distinct, less⟩
  exact removed _ rfl rfl

theorem State.dropStale_waiting {s : State} (h : s.watch.distinct) (location : Location) (rest : List Request) :
    (s.dropStale location rest).watch.waitingSlots.card ≤ s.watch.waitingSlots.card := by
  have fewer := Finset.card_le_card (WatchTable.waitingSlots_remove s.watch location)
  have freed : ∀ t : State, t.watch = s.watch.remove location → t.placeFreed.watch.waitingSlots.card ≤ s.watch.waitingSlots.card := by
    intro t ht
    have distinct : t.watch.distinct := by rw [ht]; exact h.remove _
    rw [← ht] at fewer
    unfold State.placeFreed
    split
    · exact (State.offerWaiting_toTry distinct).2.2.trans fewer
    · exact fewer
  exact freed _ rfl

/-- Fuel beyond what can be tried changes nothing: the tries end for want of a head to try. -/
theorem State.tryLoop_enough {n m : Nat} {s : State} (h : s.watch.distinct) (hn : s.toTry ≤ n) (hm : s.toTry ≤ m) :
    State.tryLoop n s = State.tryLoop m s := by
  induction n generalizing m s with
  | zero =>
    have empty : s.migration.queue = [] := by
      rw [State.toTry] at hn
      exact List.eq_nil_of_length_eq_zero (by omega)
    have stuck : s.mayTry = false := by simp [State.mayTry, empty]
    rw [State.tryLoop_of_settled stuck, State.tryLoop_of_settled stuck]
  | succ n ih =>
    cases m with
    | zero =>
      have empty : s.migration.queue = [] := by
        rw [State.toTry] at hm
        exact List.eq_nil_of_length_eq_zero (by omega)
      have stuck : s.mayTry = false := by simp [State.mayTry, empty]
      rw [State.tryLoop_of_settled stuck, State.tryLoop_of_settled stuck]
    | succ m =>
      unfold State.tryLoop
      split
      · split
        · rfl
        · rename_i r rest hq
          split
          · rfl
          · obtain ⟨still, less⟩ := State.dropStale_toTry h hq
            exact ih still (by omega) (by omega)
      · rfl

/-- A try leaves the locations distinct, and no entry that was not WAITING before waits after it. -/
theorem State.tryLoop_waiting {n : Nat} {s : State} (h : s.watch.distinct) :
    (State.tryLoop n s).watch.distinct ∧ (State.tryLoop n s).watch.waitingSlots.card ≤ s.watch.waitingSlots.card := by
  induction n generalizing s with
  | zero => exact ⟨h, le_rfl⟩
  | succ n ih =>
    unfold State.tryLoop
    split
    · split
      · exact ⟨h, le_rfl⟩
      · rename_i r rest hq
        split
        · split <;> exact ⟨h, le_rfl⟩
        · obtain ⟨still, -⟩ := State.dropStale_toTry h hq
          obtain ⟨distinct, less⟩ := ih still
          exact ⟨distinct, less.trans (State.dropStale_waiting h r.location rest)⟩
    · exact ⟨h, le_rfl⟩

/-- With AUTO_SPARE written on, an offer to a queue with room takes the oldest WAITING entry, and leaves one fewer. -/
theorem State.offerWaiting_fewer {s : State} (h : s.watch.distinct) (some_waits : s.watch.oldestWaiting.isSome = true)
    (room : s.migration.queue.length < 8) :
    s.offerWaiting.watch.distinct ∧ s.offerWaiting.watch.waitingSlots.card + 1 ≤ s.watch.waitingSlots.card := by
  obtain ⟨⟨slot, e⟩, oldest⟩ := Option.isSome_iff_exists.mp some_waits
  obtain ⟨he, hw⟩ := WatchTable.oldestWaiting_some oldest
  have queued : s.offerWaiting.watch = s.watch.setSlot slot (some { e with state := .queued }) := by
    refine Eq.trans ?_ (h.modify he WatchEntry.enqueue)
    unfold State.offerWaiting
    rw [oldest]
    dsimp only
    split <;> rfl
  rw [queued]
  exact ⟨h.setSlot (by simp [he]), WatchTable.waitingSlots_setSlot he hw (by simp)⟩

/-- With no WAITING entry there is nothing to offer. -/
theorem State.offerAll_none {s : State} (empty : s.watch.waitingSlots.card = 0) (n : Nat) : State.offerAll n s = s := by
  cases n with
  | zero => rfl
  | succ n =>
    unfold State.offerAll
    rw [if_neg]
    rintro ⟨some_waits, -⟩
    obtain ⟨⟨slot, e⟩, oldest⟩ := Option.isSome_iff_exists.mp some_waits
    obtain ⟨he, hw⟩ := WatchTable.oldestWaiting_some oldest
    have mem : (⟨slot, WatchTable.lt_of_entryIn he⟩ : Fin 32) ∈ s.watch.waitingSlots :=
      WatchTable.mem_waitingSlots.mpr ⟨e, he, hw⟩
    rw [Finset.card_eq_zero.mp empty] at mem
    simp at mem

/-- Fuel beyond the WAITING entries changes nothing: the offers end for want of one. -/
theorem State.offerAll_enough {n m : Nat} {s : State} (h : s.watch.distinct) (hn : s.watch.waitingSlots.card ≤ n)
    (hm : s.watch.waitingSlots.card ≤ m) : State.offerAll n s = State.offerAll m s := by
  induction n generalizing m s with
  | zero => rw [State.offerAll_none (by omega), State.offerAll_none (by omega)]
  | succ n ih =>
    cases m with
    | zero => rw [State.offerAll_none (by omega), State.offerAll_none (by omega)]
    | succ m =>
      unfold State.offerAll
      split
      · rename_i offered
        obtain ⟨still, fewer⟩ := State.offerWaiting_fewer h offered.1 offered.2
        obtain ⟨distinct, less⟩ := State.tryLoop_waiting (n := s.offerWaiting.migration.queue.length + 33) still
        exact ih (s := s.offerWaiting.tryStart) distinct (less.trans (by omega)) (less.trans (by omega))
      · rfl

/-- The offers neither read nor change the management port and the write-back buffer. -/
theorem State.offerAll_with (n : Nat) (s : State) (m : ManagementPort) (b : WriteBackBuffer) :
    State.offerAll n { s with management := m, writeBack := b }
      = { State.offerAll n s with management := m, writeBack := b } := by
  induction n generalizing s with
  | zero => rfl
  | succ n ih =>
    unfold State.offerAll
    dsimp only
    split
    · rw [State.offerWaiting_with, State.tryStart_with, ih]
    · rfl

end Sys2Proof.Machine
end

