-- ==== Sys2Proof/Tests/Slice0.lean ====
section
/-! SUPPORT. Tests/Slice0.lean: the model's own tests, their expected results taken from the manual's tables and worked
examples; and, for each statement with hypotheses, states and operands that meet them. -/

namespace Sys2Proof.Tests

open Sys2Proof Sys2Proof.Machine

/-! ## States -/

/-- The state after a command; the same state where the outcome is no next state. -/
def after (c : Instr) (s : State) : State :=
  match exec c s with
  | .next t => t
  | .fault _ => s
  | .refused _ => s

/-- The port's address with both straps at 0. -/
abbrev ad : BusAddress := 0x58

/-- OFFLINE with D = 10, V = 4, S = 4, the four spares FREE. -/
def off : State :=
  { State.reset with
    settings := { Settings.initial with downstream := 10, visible := 4, spares := 4 }
    remap := resizeEntries State.reset.remap 0 4 }

/-- The same bridge ONLINE. -/
def up : State := { off with mode := .online }

/-- The same with the link DOWN. -/
def down : State := { up with port := { up.port with link := .down } }

/-- An outstanding access with tag 5. -/
def access (purpose : Purpose) (block line first count : Nat) (words : List StoredWord) : Access where
  purpose := purpose
  block := block
  line := line
  first := first
  count := count
  words := words
  tag := 5
  elapsed := 0
  discarded := false

/-- A state with an access outstanding. -/
def sent (s : State) (a : Access) : State := { s with port := { s.port with outstanding := some a } }

/-- A state with one transaction marked SERVE in progress. -/
def serving (s : State) (t : Transaction) (progress : Progress) : State :=
  { s with upstream := { held := [{ transaction := t, mark := .serve }], progress := progress } }

/-- A READ of the last 2 words of line 14 of visible block 1. -/
abbrev readTwo : Transaction := .read 494 2

/-- A WRITE of one full word at word address 256. -/
abbrev writeOne : Transaction := .write 256 1 [{ data := 1, enables := 15 }]

/-- A WRITE of a partial word at word address 256. -/
abbrev writePart : Transaction := .write 256 1 [{ data := 0xAABBCCDD, enables := 1 }]

/-- The store of `writeOne`. -/
abbrev storeOne : StoreWork := { runs := [{ first := 0, forms := [cleanForm 1] }], statuses := [.good], dual := none }

/-- A request for a location. -/
abbrev request (location : Location) (retried started : Bool) : Request where
  location := location
  origin := .manual
  retried := retried
  started := started

/-- The working items of a copy into spare 0. -/
def work : CopyWork := CopyWork.attemptAt 0 0

/-- Visible block 1 under copy into spare 0, with lines below `cursor` copied. -/
def copying (w : CopyWork) (cursor : Nat) : State :=
  { up with
    remap := setEntry up.remap 0 (.copying 1 .source cursor .manual)
    migration := { queue := [request (.visible 1) false true], engine := .copying w } }

/-- Spare 1, ACTIVE for visible block 1, under copy into spare 0. -/
def recopying (w : CopyWork) (cursor : Nat) : State :=
  { up with
    remap := setEntry (setEntry up.remap 1 (.leaving 1 .auto)) 0 (.copying 1 (.leaving 1) cursor .manual)
    migration := { queue := [request (.spare 1) false true], engine := .copying w } }

/-- The request of a copy marked retried. -/
def retried (s : State) : State :=
  { s with migration := { s.migration with queue := s.migration.queue.map fun r => { r with retried := true } } }

/-- A state whose spares are all RETIRED. -/
def exhausted (s : State) : State :=
  { s with remap := (List.range 4).foldl (fun table i => setEntry table i (.retired .writeFailed)) s.remap }

/-- A watch entry. -/
abbrev entry (location : Location) (state : WatchState) (stamp : BitVec 32) : WatchEntry where
  location := location
  corrected := 5
  offsets := [19, 200]
  uncorrectable := false
  state := state
  stamp := stamp

/-- The bridge with three watch entries. -/
def watched (s : State) : State :=
  { s with
    watch := { s.watch with
      slots := ((s.watch.slots.setIfInBounds 0 (some (entry (.visible 0) .tracking 0))).setIfInBounds 1
        (some (entry (.visible 2) .waiting 1))).setIfInBounds 2 (some (entry (.visible 3) .queued 2)) }
    migration := { s.migration with queue := [request (.visible 3) false false] } }

/-! ## Terms that are not well formed -/

theorem test_fault_response_with_words_refused :
    wellFormed (.memoryResponse 0 .fault [0] false) = false := by decide
theorem test_response_of_17_words_refused :
    wellFormed (.memoryResponse 0 .ok (List.replicate 17 0) false) = false := by decide
theorem test_response_of_16_words_taken :
    wellFormed (.memoryResponse 0 .ok (List.replicate 16 0) false) = true := by decide
theorem test_unknown_command_with_known_code_refused :
    wellFormed (.unknownCommand ad [0x01]) = false ∧ wellFormed (.unknownCommand ad [0x99, 1]) = true := by decide
theorem test_write_config_of_row_item_refused :
    wellFormed (.writeConfig ad [0x06, 1, 0, 0, 0]) = false ∧ wellFormed (.writeConfig ad [0x04, 1, 0, 0, 0]) = true := by
  decide

/-! ## Frames (R159 to R168, R171) -/

theorem test_frame_status : decodeFrame ad [0x01] = .readStatus ad [] := by decide
theorem test_frame_visible_blocks : decodeFrame ad [0x03, 0x01, 0xC0, 0xFF, 0, 0] = .visibleBlocks ad 65472 := by decide
theorem test_frame_write_config : decodeFrame ad [0x03, 0x04, 16, 0, 0, 0] = .writeConfig ad [0x04, 16, 0, 0, 0] := by
  decide
theorem test_frame_go_online : decodeFrame ad [0x10] = .goOnline ad [] := by decide
theorem test_frame_restore : decodeFrame ad [0x21, 0, 3, 0xB2, 4, 0] = .restoreRemap ad [0, 3, 0xB2, 4, 0] := by decide
theorem test_frame_request : decodeFrame ad [0x30, 0, 1, 0, 0] = .requestSpare ad [0, 1, 0, 0] := by decide
theorem test_frame_clear_watch : decodeFrame ad [0x41, 7] = .clearWatch ad [7] := by decide
theorem test_frame_pop : decodeFrame ad [0x51] = .popRecord ad [] := by decide
theorem test_frame_inject :
    encodeFrame (.inject ad [0, 1, 0, 0, 3, 0, 0]) = some (ad, [0x60, 0, 1, 0, 0, 3, 0, 0]) := by decide
theorem test_no_row_has_bits : decodeTableWord 8 1 = none ∧ State.reset.withFetchWord 8 1 = State.reset := by decide

/-! ## The check code (R77, R78, R80) -/

theorem test_check_field_of_one : checkField 0 = 0 ∧ checkField 1 = 0x07 := by decide
theorem test_poison_check_field_of_one : poisonForm 1 = 0xF800000001 := by decide
theorem test_check_position_wrong : classify (flipAt (cleanForm 1) 39) = (.corrected, 1) := by decide
theorem test_data_position_wrong : classify (flipAt (cleanForm 1) 31) = (.corrected, 1) := by decide
theorem test_two_wrong : (classify (flipAt (flipAt (cleanForm 1) 0) 39)).1 = .uncorrectable := by decide

/-- The store runs of R84's example: words 0..5, 7..10 and 12..15. -/
theorem test_store_runs :
    (storeRuns 0 ((List.range 16).map fun k => if k = 6 ∨ k = 11 then none else some 0)).map
      (fun r => (r.first, r.forms.length)) = [(0, 6), (7, 4), (12, 4)] := by decide

/-! ## Commands and events -/

theorem test_power_on_reads_straps : (after (.powerOn 3) up).management.address = 0x5B := by decide
theorem test_power_on_offline : (after (.powerOn 0) up).mode = .offline := by decide
theorem test_system_reset_ends_stopping : (after .systemReset { up with mode := .stopping }).mode = .offline := by decide
theorem test_system_reset_keeps_items : (after .systemReset up).settings = up.settings := by decide
/-- R9's table: a READ at 100 of length 16 leaves its line. -/
theorem test_read_across_lines :
    (after (.transactionAccepted (.read 100 16)) up).upstream.progress = .answer (.read .badRequest []) := by decide
/-- R10: V × 256 is the first address out of range. -/
theorem test_read_out_of_range :
    (after (.transactionAccepted (.read 1024 1)) up).upstream.progress = .answer (.read .outOfRange []) := by decide
theorem test_answer_taken_frees_port :
    (after .answerTaken (serving up readTwo (.answer (.read .okay [])))).upstream = { held := [], progress := .idle } := by
  decide
theorem test_first_tag_is_0 :
    (after .arbiterGrant (serving up readTwo .fetch)).port.outstanding.map (fun a => (a.tag, a.block, a.line, a.first, a.count))
      = some (0, 1, 14, 14, 2) := by decide
theorem test_poisoned_word_answered :
    (after (.memoryResponse 5 .ok [cleanForm 9, poisonForm 7] false)
        (sent (serving up readTwo .fetch) (access .fetch 1 14 14 2 []))).upstream.progress
      = .answer (.read .dataError [{ data := 9, status := .good }, { data := 7, status := .poison }]) := by decide
theorem test_expiry_abandons_tag :
    (after (.responseTimerExpiry false) (sent up (access .scrubRead 1 3 0 16 []))).port.abandoned = [5] := by decide
/-- The slow controller's example: a LINK_TIMEOUT record for line 3 carries offset 48. -/
theorem test_expiry_record :
    ((after (.responseTimerExpiry false) (sent up (access .scrubRead 1 3 0 16 []))).records.queue.map
      fun r => (r.body.kind, r.body.offset)) = [(.linkTimeout, some 48)] := by decide
theorem test_scrub_expiry_goes_due :
    (after .scrubIntervalExpiry { up with scrubber := { up.scrubber with timer := some 249 } }).scrubber.state = .due := by
  decide
theorem test_migration_start_takes_lowest_free :
    (after .migrationStart
      { up with
        remap := setEntry up.remap 0 (.retired .restored)
        migration := { queue := [request (.visible 1) false false], engine := .idle } }).migration.engine
      = .copying (CopyWork.attemptAt 1 0) := by decide
theorem test_read_past_end : (after (.readFrame ad 3) State.reset).management.returned = [0x01, 0, 0xFF] := by decide
theorem test_other_address_ignored : (after (.readFrame 0x59 3) State.reset).management.acknowledged = false := by decide
theorem test_unknown_command :
    (after (.unknownCommand ad [0x99]) up).management.response = { status := .unknownCommand, payload := [] } := by decide
theorem test_empty_frame_keeps_response : (after (.unknownCommand ad []) up).management.response = up.management.response := by
  decide
theorem test_status_length : (after (.readStatus ad []) up).management.response.payload.length = 23 := by decide
theorem test_status_bad_length : (after (.readStatus ad [0]) up).management.response.status = .badLength := by decide
theorem test_read_config :
    (after (.readConfig ad [0x09]) up).management.response.payload = [0x09, 250, 0, 0, 0] := by decide
theorem test_write_config_limit : (after (.writeConfig ad [0x04, 255, 0, 0, 0]) up).settings.correctedLimit = 255 := by
  decide
theorem test_write_config_limit_out_of_range :
    (after (.writeConfig ad [0x04, 0, 1, 0, 0]) up).management.response.status = .badArgument := by decide
theorem test_downstream_blocks : (after (.downstreamBlocks ad 131072) off).settings.downstream = 131072 := by decide
theorem test_visible_blocks_online : (after (.visibleBlocks ad 3) up).management.response.status = .wrongMode := by decide
theorem test_visible_blocks_conflict :
    (after (.visibleBlocks ad 3) { off with remap := setEntry off.remap 0 (.active 3 .restored) }).management.response.status
      = .conflict := by decide
theorem test_spare_count_raises_free : freeSpares (after (.spareCount ad 64) off).remap = 64 := by decide
theorem test_spare_count_lowers : entryAt (after (.spareCount ad 2) off).remap 2 = .unused := by decide
theorem test_auto_spare_offers : (after (.autoSpare ad 1) (watched off)).migration.queue.length = 2 := by decide
theorem test_scrub_enable_starts_timer : (after (.scrubEnable ad 1) up).scrubber.timer = some 0 := by decide
theorem test_scrub_interval_expires_at_once :
    (after (.scrubInterval ad 10) { up with scrubber := { up.scrubber with timer := some 10 } }).scrubber.state = .due := by
  decide
theorem test_link_timeout_ends_access :
    (after (.linkTimeout ad 8) (sent up { access .scrubRead 1 3 0 16 [] with elapsed := 8 })).port.outstanding = none := by
  decide
theorem test_link_timeout_range : (after (.linkTimeout ad 1024) up).management.response.status = .badArgument := by decide
theorem test_alert_enables : (after (.alertEnables ad 16) down).alertLow = true := by decide
theorem test_alert_depth : (after (.alertDepth ad 17) up).management.response.status = .badArgument := by decide
theorem test_spare_low_mark : (after (.spareLowMark ad 4) up).flags.sparesLow = true := by decide
/-- R4's table: V + S above D. -/
theorem test_go_online_geometry :
    (after (.goOnline ad []) { off with settings := { off.settings with downstream := 7 } }).management.response.status
      = .badArgument := by decide
theorem test_go_online : (after (.goOnline ad []) off).mode = .online := by decide
theorem test_go_offline_drains : (after (.goOffline ad []) (serving up readTwo .fetch)).mode = .stopping := by decide
theorem test_go_offline_at_once : (after (.goOffline ad []) up).mode = .offline := by decide
theorem test_reset_part_response : (after (.resetPart ad []) up).management.response.status = .noCommand := by decide
theorem test_reset_part_length : (after (.resetPart ad [0]) up).mode = .online := by decide
theorem test_clear_link : (after (.clearLink ad []) down).port.link = .up := by decide
theorem test_read_remap_retired :
    (after (.readRemap ad [3]) { up with remap := setEntry up.remap 3 (.retired .writeFailed) }).management.response.payload
      = [3, 5, 0x10, 0, 0, 0, 0, 0, 0, 1] := by decide
/-- The restore example: a firmware slip is a DUPLICATE. -/
theorem test_restore_duplicate :
    (after (.restoreRemap ad [1, 3, 2, 0, 0])
      { off with remap := setEntry off.remap 0 (.active 2 .restored) }).management.response.status = .duplicate := by decide
theorem test_restore_active : entryAt (after (.restoreRemap ad [0, 3, 2, 0, 0]) off).remap 0 = .active 2 .restored := by decide
theorem test_drop_free_conflict : (after (.dropRemap ad [2]) off).management.response.status = .conflict := by decide
theorem test_release_unblocks :
    (after (.releaseSpare ad [2])
      { exhausted up with
        migration := { queue := [request (.visible 1) false false], engine := .blocked } }).migration.engine
      = .copying (CopyWork.attemptAt 2 0) := by decide
theorem test_request_starts_at_once :
    (after (.requestSpare ad [0, 1, 0, 0]) up).migration.engine = .copying (CopyWork.attemptAt 0 0) := by decide
theorem test_request_of_free_spare : (after (.requestSpare ad [1, 1, 0, 0]) up).management.response.status = .badArgument := by
  decide
theorem test_cancel_aborts : entryAt (after (.cancelRequest ad [0, 1, 0, 0]) (copying work 5)).remap 0 = .free := by decide
theorem test_cancel_nothing : (after (.cancelRequest ad [0, 1, 0, 0]) up).management.response.status = .notFound := by decide
theorem test_read_queue :
    (after (.readQueue ad [0]) (copying work 5)).management.response.payload = [0, 0, 1, 0, 0, 1, 2] := by decide
theorem test_read_watch :
    (after (.readWatch ad [2]) (watched up)).management.response.payload
      = [2, 0, 3, 0, 0, 5, 2, 19, 200, 0, 0, 0, 2, 2, 0, 0, 0] := by decide
theorem test_clear_watch_queued : (after (.clearWatch ad [2]) (watched up)).management.response.status = .conflict := by decide
theorem test_peek_empty : (after (.peekRecord ad []) up).management.response.status = .empty := by decide
theorem test_pop_removes :
    (after (.popRecord ad []) (up.makeRecord { kind := .linkDown, source := .link })).records.queue = [] := by decide
theorem test_ack_clears_dropped :
    (after (.ackAlert ad [2]) { up with records := { up.records with droppedFlag := true } }).flags.dropped = false := by decide
theorem test_inject_arms :
    (after (.inject ad [0xFF, 3, 0, 0, 1, 31, 99]) up).injection = some { address := 1023, kind := .one 31 } := by decide
theorem test_inject_beyond_visible : (after (.inject ad [0, 4, 0, 0, 3, 0, 0]) up).injection = none := by decide
theorem test_tick_expires_response :
    (match step (sent up { access .scrubRead 1 3 0 16 [] with elapsed := 99 }) with
      | .next t => t.port.abandoned
      | .fault _ => []
      | .refused _ => []) = [5] := by decide

/-! ## Witnesses: each statement's hypotheses are met -/

set_option maxRecDepth 20000

theorem witness_StepRunsFrontCommand :
    let s := sent { up with scrubber := { up.scrubber with timer := some 248 } }
      { access .scrubRead 1 3 0 16 [] with elapsed := 98 }
    s.pending = [] ∧ (∀ a ∈ s.port.outstanding, a.elapsed + 1 < s.settings.linkTimeout)
      ∧ ∀ time ∈ s.scrubber.timer, time + 1 < s.settings.scrubInterval := by decide

theorem witness_FrameRoundTrip :
    wellFormed (.writeConfig ad [0x05, 4, 0, 0, 0]) = true
      ∧ encodeFrame (.writeConfig ad [0x05, 4, 0, 0, 0]) = some (ad, [0x03, 0x05, 4, 0, 0, 0]) := by decide

theorem witness_FramesRefused :
    (encodeFrame (.readStatus 0x5C []) = some (0x5C, [0x01]) ∧ (0x5C : BusAddress) ≠ up.management.address)
      ∧ (0x61 : Byte) ∉ commandCodes
      ∧ (encodeFrame (.inject ad [0, 0, 0, 0, 3, 0]) = some (up.management.address, [0x60, 0, 0, 0, 0, 3, 0])
        ∧ (0x60 : Byte) ∈ commandCodes ∧ [(0 : Byte), 0, 0, 0, 3, 0].length ≠ argumentCount 0x60) := by decide

theorem witness_ReadFrameReturnsResponse : ad = up.management.address ∧ (0x5B : BusAddress) ≠ up.management.address := by
  decide

theorem witness_OutcomeClasses : (39 < 40 ∧ flipAt (cleanForm 7) 39 = flipAt (cleanForm 7) 39) ∧ 38 < 39 ∧ 39 < 40 := by decide

theorem witness_InjectionOutcomes : (0 < 32 ∧ 31 < 32) ∧ (0 : Nat) ≠ 31 := by decide

theorem witness_StoredFormsOfWrite :
    3 < 4 ∧ (15 : BitVec 4) = 15 ∧ (0 : BitVec 4) = 0 ∧ (14 : BitVec 4) ≠ 0 ∧ (14 : BitVec 4) ≠ 15 := by decide

theorem witness_AcceptanceTakesMark :
    let held (n : Nat) : State :=
      { up with
        upstream :=
          { held := List.replicate n { transaction := readTwo, mark := .serve }, progress := .fetch } }
    4 ≤ (held 4).upstream.held.length ∧ (1 ≤ (held 3).upstream.held.length ∧ (held 3).upstream.held.length < 4)
      ∧ (off.upstream.held = [] ∧ off.mode ≠ .online ∧ off.port.link = .up) := by decide

theorem witness_ServedTransactionChecks_state :
    up.mode = .online ∧ up.upstream.held = [] ∧ up.upstream.progress = .idle ∧ up.port.link = .up ∧ up.settledLaw := by decide

theorem witness_ServedTransactionChecks_shape :
    ¬ (1 ≤ statedLength (.read 255 2) ∧ statedLength (.read 255 2) ≤ 16
      ∧ firstAddress (.read 255 2) % 16 + statedLength (.read 255 2) ≤ 16
      ∧ ∀ a n words, Transaction.read 255 2 = .write a n words → words.length = n) := by
  rintro ⟨-, -, h, -⟩
  exact absurd h (by decide)

theorem witness_ServedTransactionChecks_range :
    (shapeOk (.read 1024 16) = true ∧ up.settings.visible * 256 ≤ firstAddress (.read 1024 16))
      ∧ shapeOk (.read 1023 1) = true ∧ firstAddress (.read 1023 1) < up.settings.visible * 256 := by decide

theorem witness_ServedTransactionChecks_words :
    let list (e : BitVec 4) : List WriteWord := [{ data := 1, enables := e }, { data := 2, enables := 0 }]
    let t (e : BitVec 4) : Transaction := .write 0 2 (list e)
    (shapeOk (t 0) = true ∧ ∀ w ∈ list 0, w.enables = 0)
      ∧ (shapeOk (t 14) = true ∧ ∃ w ∈ list 14, isPartial w = true)
      ∧ (shapeOk (t 15) = true ∧ (∃ w ∈ list 15, w.enables ≠ 0) ∧ ∀ w ∈ list 15, isPartial w = false) := by decide

theorem witness_LinkDownAnswersAtOnce :
    down.mode = .online ∧ down.upstream.held = [] ∧ down.port.link = .down ∧ down.port.outstanding = none
      ∧ (shapeOk readTwo = true ∧ inRange down.settings readTwo = true)
      ∧ (shapeOk writePart = true ∧ inRange down.settings writePart = true)
      ∧ ∃ w ∈ [({ data := 0xAABBCCDD, enables := 1 } : WriteWord)], w.enables ≠ 0 := by decide

/-- A state that answers, with transactions behind the one in progress. -/
def answering (rest : List Held) : State :=
  { up with
    upstream :=
      { held := { transaction := readTwo, mark := .serve } :: rest, progress := .answer (.read .okay []) } }

theorem witness_AnswerTakenLeavesQueue :
    let refused : Held := { transaction := readTwo, mark := .refuse }
    let served (t : Transaction) : Held := { transaction := t, mark := .serve }
    ((answering []).upstream.progress = .answer (.read .okay []) ∧ (answering []).settledLaw)
      ∧ (answering [refused]).settledLaw
      ∧ (∀ t ∈ [readTwo, writeOne, writePart, Transaction.read 255 2, Transaction.read 1024 1],
        (answering [served t]).settledLaw ∧ (answering [served t]).port.outstanding = none
          ∧ (let s := { answering [served t] with port := down.port }
            s.port.link = .down ∧ s.settledLaw ∧ s.port.outstanding = none)) := by decide

theorem witness_RoutesFollowEntry :
    (∀ j, j < 64 → (entryAt up.remap j).routed? ≠ some 1)
      ∧ (∀ j, j < 64 → j ≠ 63 → (entryAt (setEntry up.remap 63 (.active 1 .auto)) j).routed? ≠ some 1)
      ∧ (entryAt (setEntry up.remap 63 (.active 1 .auto)) 63 = .active 1 .auto)
      ∧ (∀ j, j < 64 → j ≠ 0 → (entryAt (copying work 15).remap j).routed? ≠ some 1)
      ∧ (entryAt (copying work 15).remap 0 = .copying 1 .source 15 .manual ∧ 14 < 15 ∧ 15 ≤ 15)
      ∧ (∀ j, j < 64 → j ≠ 0 → (entryAt (recopying work 1).remap j).routed? ≠ some 1)
      ∧ (entryAt (recopying work 1).remap 0 = .copying 1 (.leaving 1) 1 .manual ∧ 0 < 1 ∧ 1 ≤ 1) := by decide

theorem witness_TagSkipsAbandoned : ([0, 1, 2, 3, 4, 5, 6, 7] : List Tag).length ≤ 8 := by decide

/-- A bridge whose four requesters all wait, with pass-over counts for MIGRATION and SCRUB. -/
def contended (migration scrub : Nat) : State :=
  let s := serving (copying work 5) readTwo .fetch
  { s with
    port := { s.port with migrationPassed := migration, scrubPassed := scrub }
    scrubber := { s.scrubber with state := .due, timer := some 0 }
    settings := { s.settings with scrubEnable := true }
    writeBack := { s.writeBack with entries := [{ block := 0, line := 0, word := 3, data := 9 }] } }

theorem witness_ArbiterOrder :
    ((sent up (access .fetch 1 14 14 2 [])).port.outstanding ≠ none) ∧ down.port.link = .down
      ∧ ((contended 30 31).port.outstanding = none ∧ (∀ r ∈ [Requester.upstream, .writeBack, .migration, .scrub],
        (contended 30 31).waiting r = true) ∧ (contended 30 31).choose [] = some .upstream)
      ∧ ((contended 32 32).waiting .migration = true ∧ (contended 32 32).choose [] = some .migration)
      ∧ ((contended 31 32).waiting .scrub = true ∧ (contended 31 32).choose [] = some .scrub) := by decide

theorem witness_ArbiterOrder_none_waits : ∀ r, up.waiting r = false := by
  intro r
  cases r <;> decide

/-- A store of word address 256, block 1, line 0, with that line under a held attempt whose copy read has been granted or not; a dual
store whose spare access is pending goes on; the copy read waits at 32; and the three ends of a hold. The failures are those of
`witness_failsBy`. -/
theorem witness_ArbiterOrder_held :
    let held (holding : Bool) (attempt : Nat) : CopyWork :=
      { work with attempt := attempt, overtakes := 4, held := true, holding := holding, inFlight := holding }
    let s (holding : Bool) (attempt : Nat) := serving (copying (held holding attempt) 0) writeOne (.store storeOne)
    let late := { s false 1 with port := { (s false 1).port with migrationPassed := 32 } }
    let dual : StoreWork := { storeOne with dual := some { block := 4, forms := [cleanForm 1], fate := .inFlight } }
    (∀ b ∈ [true, false], (s b 1).port.link = .up ∧ (s b 1).upstream.progress = .store storeOne ∧ (s b 1).current = some writeOne
        ∧ (s b 1).awaiting .upstream = false ∧ storeOne.dual = none ∧ (s b 1).waiting .upstream = !b
        ∧ (s b 1).migration.engine = .copying (held b 1) ∧ (s b 1).migration.queue ≠ []
        ∧ entryAt (s b 1).remap 0 = .copying (blockOf (firstAddress writeOne)) .source (lineOf (firstAddress writeOne)) .manual)
      ∧ (serving (copying (held true 1) 0) writeOne (.store dual)).waiting .upstream = true
      ∧ (late.port.outstanding = none ∧ late.waiting .upstream = true ∧ late.choose [] = some .migration
        ∧ (held false 1).held = true ∧ (held false 1).phase = .reading)
      ∧ (let a := access .copyWrite 4 0 0 16 (List.replicate 16 0)
        (sent (s true 1) a).port.outstanding = some a ∧ a.discarded = false ∧ (s true 1).port.abandoned.length < 7)
      ∧ (let a := access .copyRead 1 0 0 16 []
        (sent (s true 3) a).port.outstanding = some a ∧ a.discarded = false ∧ 3 ≤ (held true 3).attempt) := by decide

theorem witness_GrantIssuesAccess_reads :
    (up.port.outstanding = none ∧ (serving up readTwo .fetch).choose [] = some .upstream
        ∧ (serving up readTwo .fetch).current = some readTwo)
      ∧ ((serving up writePart .mergeRead).choose [] = some .upstream
        ∧ (serving up writePart .mergeRead).current = some writePart ∧ 0 ≤ 0
        ∧ ∃ w, [({ data := 0xAABBCCDD, enables := 1 } : WriteWord)][0]? = some w ∧ isPartial w = true) := by
  refine ⟨by decide, by decide, by decide, by decide, _, rfl, by decide⟩

theorem witness_GrantIssuesAccess_span :
    ∀ (k : Nat) (w : WriteWord), [({ data := 0xAABBCCDD, enables := 1 } : WriteWord)][k]? = some w → isPartial w = true →
      0 ≤ k ∧ k ≤ 0 := by
  intro k w h _
  obtain ⟨hk, -⟩ := List.getElem?_eq_some_iff.mp h
  simp at hk
  omega

theorem witness_GrantIssuesAccess_others :
    (State.choose
        { up with writeBack := { entries := [{ block := 0, line := 0, word := 3, data := 9 }], dropped := 0 } } []
      = some .writeBack)
      ∧ (State.choose { up with scrubber := { up.scrubber with state := .due } } [] = some .scrub)
      ∧ ((copying work 5).choose [] = some .migration ∧ (copying work 5).migration.engine = .copying work
        ∧ entryAt (copying work 5).remap work.target = .copying 1 .source 5 .manual ∧ work.phase = .reading)
      ∧ (let writing : CopyWork := { work with phase := .writing (List.replicate 16 (cleanForm 1)), inFlight := true }
        (copying writing 15).choose [] = some .migration ∧ (copying writing 15).migration.engine = .copying writing
          ∧ entryAt (copying writing 15).remap writing.target = .copying 1 .source 15 .manual) := by decide

/-- One run at word address 256, block 1, line 0: the injection names the words before and after it; no copy, a copy of another block, a
copy of its block past its line, at it but not in flight, and a dual store's second access. -/
theorem witness_GrantIssuesStore :
    let s := serving up writeOne (.store storeOne)
    let base (b l first n address : Nat) : Prop := address < 256 * b + 16 * l + first ∨ 256 * b + 16 * l + first + n ≤ address
    (s.port.outstanding = none ∧ s.choose [] = some .upstream ∧ s.upstream.progress = .store storeOne
        ∧ s.current = some writeOne ∧ storeOne.runs = [{ first := 0, forms := [cleanForm 1] }] ∧ storeOne.dual = none
        ∧ 1 = blockOf (firstAddress writeOne) ∧ 0 = lineOf (firstAddress writeOne)
        ∧ (∀ i ∈ s.injection, base 1 0 0 1 i.address) ∧ base 1 0 0 1 255 ∧ base 1 0 0 1 257
        ∧ (∀ copy ∈ s.migration.engine.work?, copy.inFlight = true →
          ∀ c ∈ (entryAt s.remap copy.target).copy?, c.1 ≠ 1 ∨ c.2.2 ≠ 0)
        ∧ storeRoute s.settings.visible s.remap 1 0 = (1, none))
      ∧ (let o (w : CopyWork) (cursor : Nat) := serving (copying w cursor) writeOne (.store storeOne)
        let flying : CopyWork := { work with inFlight := true }
        ((o flying 5).choose [] = some .upstream ∧ (∀ copy ∈ (o flying 5).migration.engine.work?, copy.inFlight = true →
            ∀ c ∈ (entryAt (o flying 5).remap copy.target).copy?, c.1 ≠ 1 ∨ c.2.2 ≠ 0)
          ∧ storeRoute (o flying 5).settings.visible (o flying 5).remap 1 0 = (1, some 4))
        ∧ ((o work 0).choose [] = some .upstream
          ∧ (∀ copy ∈ (o work 0).migration.engine.work?, copy.inFlight = true →
            ∀ c ∈ (entryAt (o work 0).remap copy.target).copy?, c.1 ≠ 1 ∨ c.2.2 ≠ 0)
          ∧ storeRoute (o work 0).settings.visible (o work 0).remap 1 0 = (1, none)))
      ∧ (let p : StoreWork :=
          { storeOne with dual := some { block := 4, forms := [cleanForm 1], fate := .inFlight } }
        (serving up writeOne (.store p)).choose [] = some .upstream) := by decide

theorem witness_StoreOvertakesLine :
    let flying : CopyWork := { work with inFlight := true }
    let s (injection : Option Injection) :=
      { serving (copying flying 0) writeOne (.store storeOne) with injection := injection }
    let past := s (some { address := 257, kind := .poison })
    (past.port.outstanding = none ∧ past.choose [] = some .upstream ∧ past.upstream.progress = .store storeOne
      ∧ past.current = some writeOne ∧ storeOne.dual = none
      ∧ (∀ i ∈ past.injection, i.address < 256 * 1 + 16 * 0 + 0 ∨ 256 * 1 + 16 * 0 + 0 + 1 ≤ i.address)
      ∧ past.migration.engine = .copying flying ∧ entryAt past.remap flying.target = .copying 1 .source 0 .manual
      ∧ entryFor past.remap 1 = some flying.target ∧ blockOf (firstAddress writeOne) = 1
      ∧ lineOf (firstAddress writeOne) = 0 ∧ flying.inFlight = true)
      ∧ (s none).choose [] = some .upstream := by decide

theorem witness_InjectionArmedAndApplied_command :
    leValue [(0 : Byte), 4, 0, 0] = 1024 ∧ 256 * up.settings.visible ≤ 1024
      ∧ ((4 : Byte) ≠ 1 ∧ (4 : Byte) ≠ 2 ∧ (4 : Byte) ≠ 3) ∧ 32 ≤ (32 : Byte).toNat
      ∧ (leValue [(0xFF : Byte), 3, 0, 0] = 1023 ∧ 1023 < 256 * up.settings.visible)
      ∧ (31 : Byte).toNat < 32 ∧ (0 : Byte) ≠ 31 := by decide

theorem witness_InjectionArmedAndApplied_grant :
    let armed (s : State) (a : Nat) : State :=
      { serving s writeOne (.store storeOne) with injection := some { address := a, kind := .poison } }
    (∀ s ∈ [up, copying work 1], (armed s 256).port.outstanding = none ∧ (armed s 256).choose [] = some .upstream
        ∧ (armed s 256).upstream.progress = .store storeOne ∧ (armed s 256).current = some writeOne)
      ∧ storeRoute up.settings.visible up.remap (blockOf 256) (lineOf 256) = (1, none)
      ∧ storeRoute up.settings.visible (copying work 1).remap (blockOf 256) (lineOf 256) = (1, some 4)
      ∧ (256 = 256 * blockOf 256 + 16 * lineOf 256 + 0 ∧ 256 ≤ 256 ∧ 256 < 256 + 1)
      ∧ (armed up 255).choose [] = some .upstream ∧ (armed up 257).choose [] = some .upstream := by decide

theorem witness_StrayResponsesDiscarded :
    let s := sent { up with port := { up.port with abandoned := [7] } } (access .fetch 1 14 14 2 [])
    (∀ a ∈ s.port.outstanding, a.tag ≠ 7) ∧ 7 ∈ s.port.abandoned ∧ (∀ a ∈ s.port.outstanding, a.tag ≠ 12)
      ∧ 12 ∉ s.port.abandoned := by decide

/-- The words of the reads below are CLEAN: the clean form of 0, whose check field is 0x00 (R77). -/
theorem witness_clean_words (n : Nat) : ∀ w ∈ List.replicate n (0 : StoredWord), (classify w).1 = .clean := by
  intro w h
  rw [List.eq_of_mem_replicate h]
  decide

theorem witness_FetchAnswersWords :
    let a := access .fetch 1 14 14 2 []
    let s := sent (serving up readTwo .fetch) a
    s.port.link = .up ∧ s.port.outstanding = some a ∧ a.purpose = .fetch ∧ a.discarded = false
      ∧ s.upstream.progress = .fetch ∧ s.current = some readTwo ∧ (List.replicate 2 (0 : StoredWord)).length = a.count
      ∧ s.settledLaw := by decide

/-- The two failures of `State.failsBy`, which the statements on the ends of accesses name, come in every state: a FAULT response,
and an expiry that leaves the link UP. -/
theorem witness_failsBy (s : State) (a : Access) :
    (∃ u, s.failsBy a (.memoryResponse a.tag .fault [] false) u)
      ∧ (s.port.abandoned.length < 7 → ∃ u, s.failsBy a (.responseTimerExpiry false) u) :=
  ⟨⟨_, .linkFault, s.port.abandoned, .inl ⟨⟨[], rfl⟩, rfl, rfl⟩, rfl⟩,
    fun h => ⟨_, .linkTimeout, s.port.abandoned ++ [a.tag], .inr ⟨rfl, h, rfl, rfl⟩, rfl⟩⟩

/-- `State.abortsTo`, which the statements on aborts name, is met by the table of a first copy and by the table of a copy away from a
spare, whatever the abort leaves in the target. -/
theorem witness_abortsTo (s : State) (left : RemapEntry) :
    (s.remap = (copying work 5).remap → ∃ table, s.abortsTo work.target left table)
      ∧ (s.remap = (recopying work 5).remap → ∃ table, s.abortsTo work.target left table) :=
  ⟨fun h => ⟨_, 1, 5, .manual, .inl ⟨by rw [h]; decide, rfl⟩⟩,
    fun h => ⟨_, 1, 5, .manual, .inr ⟨1, 1, .auto, by rw [h]; decide, by rw [h]; decide, rfl⟩⟩⟩

theorem witness_FetchFails :
    let s := sent { serving up readTwo .fetch with port := { up.port with abandoned := [0, 1, 2, 3, 4, 6] } }
      (access .fetch 1 14 14 2 [])
    s.port.link = .up ∧ s.settledLaw ∧ s.upstream.progress = .fetch ∧ s.current = some readTwo
      ∧ s.port.abandoned.length < 7 := by decide

/-- The last clause's failures are those of `witness_failsBy`. -/
theorem witness_MergeReadEnds :
    let a := access .mergeRead 1 0 0 1 []
    let s := sent (serving up writePart .mergeRead) a
    s.port.link = .up ∧ s.settledLaw ∧ s.port.outstanding = some a ∧ a.purpose = .mergeRead ∧ a.discarded = false
      ∧ s.upstream.progress = .mergeRead ∧ s.current = some writePart ∧ a.count = 0 + 1 - 0
      ∧ (List.replicate 1 (0 : StoredWord)).length = a.count ∧ s.port.abandoned.length < 7 := by decide

/-- The bridge with 7 abandoned tags. -/
def almostDown (s : State) : State := { s with port := { s.port with abandoned := [8, 9, 10, 11, 12, 13, 14] } }

theorem witness_EighthTagTakesLinkDown :
    let a := access .fetch 1 14 14 2 []
    let s := sent (almostDown (serving up readTwo .fetch)) a
    (s.port.outstanding = some a ∧ s.port.abandoned.length = 7 ∧ s.calledFor a = true ∧ s.current = some readTwo)
      ∧ (let due := { s with scrubber := { s.scrubber with state := .due } }
        due.scrubber.state = .due ∧ a.purpose ≠ .scrubRead)
      ∧ (let d := { a with discarded := true }
        (sent (almostDown up) d).port.outstanding = some d ∧ d.discarded = true
          ∧ (sent (almostDown up) d).upstream.progress.needsAccess = false) := by decide

/-- Each other requester's access, and the first access of a dual store, at the expiry; the tables are those of `witness_abortsTo`. -/
theorem witness_EighthTagTakesLinkDown_purposes :
    (∀ purpose ∈ [Purpose.scrubRead, .writeBack, .copyRead, .copyWrite, .storeFirst], ∀ attempt ∈ [2, 3],
        let a := access purpose 1 0 0 16 []
        let copy : CopyWork := { work with attempt := attempt, inFlight := true }
        let s := sent (almostDown (serving (copying copy 5) writeOne (.store storeOne))) a
        s.port.outstanding = some a ∧ s.port.abandoned.length = 7 ∧ a.discarded = false
          ∧ s.migration = { queue := [request (.visible 1) false true], engine := .copying copy }
          ∧ s.remap = (copying work 5).remap ∧ s.scrubber.line ≤ 15 ∧ s.scrubber.block < s.settings.visible)
      ∧ (let a := access .storeSingle 1 0 0 1 [cleanForm 1]
        let s := sent (almostDown (serving up writeOne (.store storeOne))) a
        s.port.outstanding = some a ∧ s.calledFor a = true) := by decide

/-- What may wait when the link goes DOWN: a READ, a WRITE in MERGE_READ, a single store, and a spare access whose migration is in
flight, completed or aborted. -/
theorem witness_requestEnds :
    let dual (fate : MigrationFate) : DualWrite := { block := 4, forms := [cleanForm 1], fate := fate }
    let storing (fate : MigrationFate) : StoreWork := { storeOne with dual := some (dual fate) }
    ((serving down readTwo .fetch).current = some readTwo ∧ (serving down writePart .mergeRead).current = some writePart
        ∧ (serving down writeOne (.store storeOne)).current = some writeOne ∧ storeOne.dual = none)
      ∧ ∀ fate ∈ [MigrationFate.inFlight, .completed, .aborted],
        let s := serving (copying work 5) writeOne (.store (storing fate))
        s.current = some writeOne ∧ s.upstream.progress = .store (storing fate) ∧ (storing fate).dual = some (dual fate)
          ∧ (storing fate).runs = { first := 0, forms := [cleanForm 1] } :: []
          ∧ s.migration = { queue := request (.visible 1) false true :: [], engine := .copying work }
          ∧ s.remap = (copying work 5).remap := by decide

/-- The failures are those of `witness_failsBy`. -/
theorem witness_StoreRunEnds :
    let a (purpose : Purpose) := access purpose 1 0 0 1 [cleanForm 1]
    let work : StoreWork := { storeOne with dual := some { block := 4, forms := [cleanForm 1], fate := .inFlight } }
    let s := sent (serving up writeOne (.store storeOne)) (a .storeSingle)
    let d (purpose : Purpose) := sent (serving up writeOne (.store work)) (a purpose)
    (s.port.link = .up ∧ s.settledLaw ∧ s.port.outstanding = some (a .storeSingle) ∧ s.upstream.progress = .store storeOne
        ∧ s.current = some writeOne ∧ storeOne.runs = { first := 0, forms := [cleanForm 1] } :: []
        ∧ storeOne.dual = none ∧ s.port.abandoned.length < 7)
      ∧ ((d .storeFirst).port.link = .up ∧ (d .storeFirst).port.outstanding = some (a .storeFirst)
        ∧ (d .storeFirst).upstream.progress = .store work ∧ (d .storeFirst).current = some writeOne ∧ work.dual.isSome)
      ∧ ((d .storeSpare).port.outstanding = some (a .storeSpare)
        ∧ (d .storeSpare).upstream.progress = .store work) := by decide

theorem witness_StoreRunEnds_write_back :
    let a (d : Bool) := { access .writeBack 7 15 15 1 [cleanForm 9] with discarded := d }
    let s (d : Bool) := sent
      { up with writeBack := { entries := [{ block := 7, line := 15, word := 15, data := 9 }], dropped := 0 } } (a d)
    ∀ d, (s d).port.link = .up ∧ (s d).settledLaw ∧ (s d).port.outstanding = some (a d) ∧ (a d).purpose = .writeBack := by decide

/-- The failures are those of `witness_failsBy`, the tables those of `witness_abortsTo`. -/
theorem witness_SpareStoreFails :
    let dual (fate : MigrationFate) : DualWrite := { block := 4, forms := [cleanForm 1], fate := fate }
    let storing (fate : MigrationFate) : StoreWork := { storeOne with dual := some (dual fate) }
    let a := access .storeSpare 4 0 0 1 [cleanForm 1]
    let s (copy : State) (fate : MigrationFate) := sent (serving copy writeOne (.store (storing fate))) a
    (∀ copy ∈ [copying work 5, recopying work 5, retried (copying work 5)], ∀ fate ∈ [MigrationFate.inFlight, .completed, .aborted],
        (s copy fate).port.link = .up ∧ (s copy fate).port.outstanding = some a ∧ a.purpose = .storeSpare
          ∧ a.discarded = false ∧ (s copy fate).upstream.progress = .store (storing fate)
          ∧ (s copy fate).current = some writeOne
          ∧ (storing fate).runs = { first := 0, forms := [cleanForm 1] } :: [] ∧ (storing fate).dual = some (dual fate)
          ∧ (s copy fate).port.abandoned.length < 7)
      ∧ (s (copying work 5) .inFlight).migration = { queue := [request (.visible 1) false true], engine := .copying work }
      ∧ (s (copying work 5) .inFlight).remap = (copying work 5).remap
      ∧ (s (retried (copying work 5)) .inFlight).migration
        = { queue := [request (.visible 1) true true], engine := .copying work }
      ∧ (s (retried (copying work 5)) .inFlight).remap = (copying work 5).remap
      ∧ (s (recopying work 5) .inFlight).migration
        = { queue := [request (.spare 1) false true], engine := .copying work }
      ∧ (s (recopying work 5) .inFlight).remap = (recopying work 5).remap := by decide

/-- R51: with a copy access waiting and the next grant taken first, the spare access's FAULT still leaves no copy access outstanding,
and another requester's is granted. -/
theorem test_abort_withdraws_waiting_copy :
    let dual : DualWrite := { block := 4, forms := [cleanForm 1], fate := .inFlight }
    let s := sent (serving (copying work 5) writeOne (.store { storeOne with dual := some dual }))
      (access .storeSpare 4 0 0 1 [cleanForm 1])
    let due := { s with scrubber := { s.scrubber with state := .due } }
    s.waiting .migration = true ∧ (after (.memoryResponse 5 .fault [] true) s).port.outstanding = none
      ∧ (after (.memoryResponse 5 .fault [] true) due).port.outstanding.map (·.purpose) = some .scrubRead := by decide

theorem witness_ScrubExpiryMakesDue :
    up.scrubber.timer = none ∧ ({ up.scrubber with timer := some 249 }).timer = some 249 := by decide

/-- The failures are those of `witness_failsBy`. -/
theorem witness_ScrubReadMovesPosition :
    let a := access .scrubRead 3 15 0 16 []
    let words : List StoredWord := List.replicate 16 0
    let s := sent { up with scrubber := { up.scrubber with block := 3, line := 15, state := .pending } } a
    s.port.link = .up ∧ s.settledLaw ∧ s.port.outstanding = some a ∧ a.purpose = .scrubRead ∧ a.discarded = false
      ∧ a.count = 16 ∧ words.length = 16 ∧ s.scrubber.line ≤ 15
      ∧ s.scrubber.block < s.settings.visible ∧ s.port.abandoned.length < 7 := by decide

theorem witness_ScrubReadMovesPosition_offers :
    let e : WriteBack := { block := 1, line := 2, word := 3, data := 9 }
    let buffer (n : Nat) : List WriteBack := (List.range n).map fun k => { e with word := k + 3 }
    (∃ x ∈ buffer 1, x.block = e.block ∧ x.line = e.line ∧ x.word = e.word)
      ∧ (∀ x ∈ (buffer 3), x.block ≠ 1 ∨ x.line ≠ 2 ∨ x.word ≠ 2) ∧ (buffer 3).length < 4
      ∧ (∀ x ∈ (buffer 4), x.block ≠ 1 ∨ x.line ≠ 2 ∨ x.word ≠ 2) ∧ 4 ≤ (buffer 4).length := by decide

theorem witness_DecayHalvesCounts :
    let w := (watched up).watch
    let faint (flag : Bool) : WatchEntry := { entry (.visible 0) .tracking 0 with corrected := 1, uncorrectable := flag }
    w.entryIn 3 = none ∧ (w.entryIn 1 = some (entry (.visible 2) .waiting 1))
      ∧ (w.entryIn 0 = some (entry (.visible 0) .tracking 0) ∧ (entry (.visible 0) .tracking 0).corrected / 2 ≠ 0)
      ∧ ((w.setSlot 0 (some (faint false))).entryIn 0 = some (faint false) ∧ (faint false).corrected / 2 = 0)
      ∧ (w.setSlot 0 (some (faint true))).entryIn 0 = some (faint true) := by decide

/-- Words of the outcomes the statement speaks of. -/
theorem witness_UncorrectableFetchMakesCandidate_outcomes :
    (classify (poisonForm 7)).1 = .poisoned ∧ (classify (flipAt (cleanForm 1) 3)).1 = .corrected
      ∧ (classify (flipAt (flipAt (cleanForm 1) 0) 1)).1 = .uncorrectable := by decide

/-- A watch table whose 32 entries are all in one state, at locations 10 and up, slot 31's stamp the smallest. -/
def crowded (state : WatchState) : WatchTable :=
  { up.watch with
    slots := (Vector.range 32).map fun k => some (entry (.visible (k + 10)) state (BitVec.ofNat 32 (50 - k))) }

theorem witness_UncorrectableFetchMakesCandidate_full :
    ∀ slot, slot < 32 → ∃ e, (crowded .waiting).entryIn slot = some e ∧ e.location ≠ .visible 1 ∧ e.state ≠ .tracking := by
  intro slot h
  refine ⟨entry (.visible (slot + 10)) .waiting (BitVec.ofNat 32 (50 - slot)), ?_, ?_, nofun⟩
  · simp [crowded, WatchTable.entryIn, h]
  · exact fun e => absurd (Location.visible.inj e) (by omega)

/-- An UNCORRECTABLE, a CORRECTED and a POISONED word, with CLEAN ones behind them: three words of one read that are not CLEAN. -/
def threeWords (n : Nat) : List StoredWord :=
  [flipAt (flipAt (cleanForm 1) 0) 1, flipAt (cleanForm 1) 3, poisonForm 7] ++ List.replicate n 0

/-- In a table full of WAITING entries the three words bring something about from every place at block 1. -/
theorem three_words_taken (s : State) (place : ReadPlace) (n : Nat) (hs : s.watch = crowded .waiting)
    (hp : place.location = .visible 1) : ∃ v, s.wordsTaken place (threeWords n) false v := by
  have clean : ∀ (n : Nat) (s : State) (place : ReadPlace) (full : Bool), s.wordsTaken place (List.replicate n 0) full s := by
    intro n
    induction n with
    | zero => exact fun _ _ _ => rfl
    | succ n ih => exact fun s place full => ⟨s, full, .inl ⟨by decide, rfl, rfl⟩, ih s _ full⟩
  have crowd : ∀ t : State, t.watch.slots = (crowded .waiting).slots → ∀ slot, slot < 32 →
      ∃ e, t.watch.entryIn slot = some e ∧ e.location ≠ .visible 1 ∧ e.state ≠ .tracking := by
    intro t ht slot h
    obtain ⟨e, he, rest⟩ := witness_UncorrectableFetchMakesCandidate_full slot h
    exact ⟨e, by rw [← he]; unfold WatchTable.entryIn; rw [ht], rest⟩
  refine ⟨_, _, _, .inr (.inr ⟨true, _, by decide, rfl, .inl ⟨?_, rfl, rfl⟩⟩),
    _, _, .inr (.inr ⟨false, _, by decide, rfl, .inl ⟨?_, rfl, rfl⟩⟩),
    _, _, .inr (.inl ⟨by decide, rfl, rfl⟩), clean n _ _ _⟩
  · rw [hp]
    exact crowd s (by rw [hs])
  · rw [hp]
    exact crowd _ (by simp [hs])

/-- A fetch, a merge read, a scrub read and a copy read of block 1, line 0, each with three words that are not CLEAN. -/
theorem witness_UncorrectableFetchMakesCandidate :
    let s : State := { up with watch := crowded .waiting }
    let t : Transaction := .read 256 3
    let list : List WriteWord := [{ data := 1, enables := 1 }, { data := 2, enables := 15 }, { data := 3, enables := 1 }]
    let fetch := sent (serving s t .fetch) (access .fetch 1 0 0 3 [])
    let merge := sent (serving s (.write 256 3 list) .mergeRead) (access .mergeRead 1 0 0 3 [])
    let scrub := sent { s with scrubber := { up.scrubber with block := 1, state := .pending } } (access .scrubRead 1 0 0 16 [])
    let flying : CopyWork := { work with inFlight := true }
    let copy := sent { copying flying 0 with watch := crowded .waiting } (access .copyRead 1 0 0 16 [])
    let place (source : RecordSource) : ReadPlace := { source := source, location := .visible 1, offset := 0 }
    let asked (u : State) : State := { u with port := { u.port with outstanding := none } }
    (∀ u ∈ [fetch, merge, scrub, copy], u.port.link = .up)
      ∧ (fetch.upstream.progress = .fetch ∧ fetch.current = some t ∧ (threeWords 0).length = 3)
      ∧ (merge.upstream.progress = .mergeRead ∧ merge.current = some (.write 256 3 list)
        ∧ ∃ w, list[0]? = some w ∧ isPartial w = true)
      ∧ (scrub.scrubber.line ≤ 15 ∧ scrub.scrubber.block < scrub.settings.visible ∧ (threeWords 13).length = 16)
      ∧ copy.migration.engine = .copying flying
      ∧ locationOf up.settings 1 = .visible 1
      ∧ (∃ v, (asked fetch).wordsTaken (place .upstreamFetch) (threeWords 0) false v)
      ∧ (∃ v, (asked merge).wordsTaken (place .mergeRead) (threeWords 0) false v)
      ∧ (∃ v, (asked scrub).wordsTaken (place .scrub) (threeWords 13) false v)
      ∧ ∃ v, State.wordsTaken
        { asked copy with
          migration := { copy.migration with
            engine := .copying { flying with phase := .writing ((threeWords 13).map copyForm) } } }
        (place .copy) (threeWords 13) false v := by
  intro s t list fetch merge scrub flying copy place asked
  exact ⟨by decide, ⟨rfl, rfl, rfl⟩, ⟨rfl, rfl, _, rfl, by decide⟩, ⟨by decide, by decide, rfl⟩, rfl, by decide,
    three_words_taken _ _ _ rfl rfl, three_words_taken _ _ _ rfl rfl, three_words_taken _ _ _ rfl rfl,
    three_words_taken _ _ _ rfl rfl⟩

/-- The three places a count goes: the entry there is, an empty slot, and the slot of the oldest of equals. -/
theorem witness_UncorrectableFetchMakesCandidate_counts :
    (watched up).watch.countsIn (.visible 0) 0 (entry (.visible 0) .tracking 0) (watched up).watch
      ∧ (∃ before table, up.watch.countsIn (.visible 1) 0 before table)
      ∧ ∃ before table, (crowded .tracking).countsIn (.visible 1) 31 before table := by
  have crowd : ∀ i e, (crowded .tracking).entryIn i = some e →
      i < 32 ∧ e = entry (.visible (i + 10)) .tracking (BitVec.ofNat 32 (50 - i)) := by
    intro i e h
    by_cases hi : i < 32
    · simp [crowded, WatchTable.entryIn, hi] at h
      exact ⟨hi, h.symm⟩
    · simp [crowded, WatchTable.entryIn, hi] at h
  refine ⟨.inl ⟨by decide, rfl, rfl, fun i e h => absurd h (by omega)⟩, ⟨_, _, .inr ⟨?_, by decide, rfl, rfl, .inl ⟨by decide,
    fun i h => absurd h (by omega)⟩⟩⟩, ⟨_, _, .inr ⟨?_, by decide, rfl, rfl, .inr ⟨?_,
      entry (.visible 41) .tracking 19, by simp [crowded, WatchTable.entryIn], rfl, ?_⟩⟩⟩⟩
  · intro i e h
    rw [show up.watch.entryIn i = none by
      by_cases hi : i < 32
      · interval_cases i <;> decide
      · simp [WatchTable.entryIn, hi]] at h
    exact absurd h nofun
  · intro i e h
    obtain ⟨-, rfl⟩ := crowd i e h
    exact fun q => absurd (Location.visible.inj q) (by omega)
  · intro i hi
    simp [crowded, WatchTable.entryIn, hi]
  · intro i e hne h _
    obtain ⟨hi, rfl⟩ := crowd i e h
    refine .inr ⟨rfl, ?_⟩
    show 19 < (50 - i) % 2 ^ 32
    omega

/-- The cases of a candidate: not one, by its state and by its counts; one whose location a request names; one that waits, with
AUTO_SPARE off; one whose request joins behind a waiting engine; and one whose request starts a migration. -/
theorem witness_UncorrectableFetchMakesCandidate_candidates :
    let before (state : WatchState) : WatchEntry := { entry (.visible 1) state 0 with corrected := 0, offsets := [] }
    let auto : State := { up with settings := { up.settings with autoSpare := true } }
    ((before .waiting).counted true 0).state ≠ .tracking
      ∧ ¬ ((before .tracking).counted false 0).atLimit up.settings
      ∧ ((before .tracking).counted true 0).atLimit up.settings
      ∧ (∃ r ∈ (copying work 5).migration.queue, r.location = .visible 1)
      ∧ ((∀ r ∈ up.migration.queue, r.location ≠ .visible 1) ∧ up.settings.autoSpare = false)
      ∧ (auto.settings.autoSpare = true ∧ auto.migration.queue.length < 8 ∧ { auto with mode := .stopping }.mode ≠ .online)
      ∧ (auto.mode = .online ∧ auto.migration = { queue := [], engine := .idle } ∧ auto.dualPending = false
        ∧ 1 < auto.settings.visible ∧ (∀ i, i < 64 → (entryAt auto.remap i).routed? ≠ some 1)
        ∧ entryAt auto.remap 0 = .free ∧ ∀ j, j < 0 → entryAt auto.remap j ≠ .free) := by decide

/-- A request waiting in an idle engine. -/
def requested (s : State) (location : Location) : State :=
  { s with migration := { queue := [request location false false], engine := .idle } }

theorem witness_MigrationStarts :
    let s := requested { up with remap := setEntry up.remap 0 (.active 2 .auto) } (.visible 3)
    let j := requested s (.spare 0)
    (s.mode = .online ∧ s.migration.engine = .idle ∧ s.port.link = .up ∧ s.dualPending = false ∧ 1 < 64
        ∧ entryAt s.remap 1 = .free ∧ (∀ j, j < 1 → entryAt s.remap j ≠ .free) ∧ 3 < s.settings.visible
        ∧ ∀ i, i < 64 → (entryAt s.remap i).routed? ≠ some 3)
      ∧ (j.mode = .online ∧ j.migration.engine = .idle ∧ j.port.link = .up ∧ j.dualPending = false
        ∧ entryAt j.remap 1 = .free ∧ 0 < j.settings.spares ∧ entryAt j.remap 0 = .active 2 .auto) := by decide

theorem witness_TryWithoutStart :
    off.mode ≠ .online
      ∧ (let s := requested up (.visible 4)
        s.mode = .online ∧ s.migration.engine = .idle ∧ s.port.link = .up ∧ s.dualPending = false
          ∧ s.settings.autoSpare = false ∧ s.settings.visible ≤ 4)
      ∧ (let s := watched { up with settings := { up.settings with autoSpare := true } }
        let behind := { s with
          migration := { s.migration with queue := request (.visible 4) false false :: s.migration.queue } }
        behind.mode = .online ∧ behind.migration.engine = .idle ∧ behind.port.link = .up ∧ behind.dualPending = false
          ∧ behind.migration.queue = request (.visible 4) false false :: [request (.visible 3) false false]
          ∧ behind.settings.autoSpare = true ∧ behind.watchLaw ∧ behind.settings.visible ≤ 4)
      ∧ (let s := requested { up with remap := setEntry up.remap 0 (.active 1 .auto) } (.visible 1)
        0 < 64 ∧ (entryAt s.remap 0).routed? = some 1)
      ∧ (let s := requested up (.spare 3)
        (entryAt s.remap 3).isActive = false ∧ s.settings.spares ≤ 4)
      ∧ (let s := requested (exhausted up) (.visible 3)
        (∀ i, i < 64 → entryAt s.remap i ≠ .free) ∧ 3 < s.settings.visible
          ∧ ∀ i, i < 64 → (entryAt s.remap i).routed? ≠ some 3)
      ∧ (let s := requested { up with remap := setEntry (exhausted up).remap 0 (.active 1 .auto) } (.spare 0)
        (∀ i, i < 64 → entryAt s.remap i ≠ .free) ∧ 0 < s.settings.spares ∧ entryAt s.remap 0 = .active 1 .auto) := by
  decide

/-- The failures are those of `witness_failsBy`, the tables those of `witness_abortsTo`. -/
theorem witness_CopyReadEnds :
    let flying (attempt : Nat) : CopyWork := { work with attempt := attempt, inFlight := true }
    let a := access .copyRead 1 5 0 16 []
    let s (attempt : Nat) := sent (copying (flying attempt) 5) a
    let j := sent (recopying (flying 3) 5) a
    let words : List StoredWord := List.replicate 16 0
    (∀ n ∈ [2, 3], (s n).port.link = .up ∧ (s n).port.outstanding = some a ∧ (s n).migration.engine = .copying (flying n)
        ∧ (s n).port.abandoned.length < 7)
      ∧ a.purpose = .copyRead ∧ a.discarded = false ∧ a.count = 16 ∧ words.length = 16 ∧ (flying 2).attempt < 3
      ∧ (3 ≤ (flying 3).attempt ∧ (flying 3).target = work.target
        ∧ (s 3).migration.queue = [request (.visible 1) false true] ∧ (s 3).remap = (copying work 5).remap)
      ∧ (j.port.outstanding = some a ∧ j.migration.engine = .copying (flying 3)
        ∧ j.migration.queue = [request (.spare 1) false true] ∧ j.remap = (recopying work 5).remap) := by decide

theorem witness_CopyWriteEnds :
    let writing (o : Bool) : CopyWork :=
      { work with
        phase := .writing (List.replicate 16 (cleanForm 1)), inFlight := true, overtaken := o, overtakes := 3 }
    let a := access .copyWrite 4 14 0 16 (List.replicate 16 (cleanForm 1))
    let s (o : Bool) := sent (copying (writing o) 14) a
    (∀ o, (s o).port.link = .up ∧ (s o).port.outstanding = some a ∧ (s o).migration.engine = .copying (writing o)
        ∧ entryAt (s o).remap (writing o).target = .copying 1 .source 14 .manual)
      ∧ a.purpose = .copyWrite ∧ a.discarded = false ∧ a.line = 14 ∧ (writing true).overtaken = true
      ∧ (writing false).overtaken = false ∧ 14 < 15 := by decide

/-- A store of word 0 of line 0 of block 1 waits while the copy write of that line ends. -/
theorem witness_CopyWriteEnds_grant_first :
    let writing : CopyWork := { work with phase := .writing (List.replicate 16 (cleanForm 1)), inFlight := true }
    let a := access .copyWrite 4 0 0 16 (List.replicate 16 (cleanForm 1))
    let s := sent (serving (copying writing 0) writeOne (.store storeOne)) a
    let freed := { s with port := { s.port with outstanding := none } }
    (s.port.link = .up ∧ s.port.outstanding = some a ∧ a.purpose = .copyWrite ∧ a.discarded = false
        ∧ s.migration.engine = .copying writing ∧ entryAt s.remap writing.target = .copying 1 .source 0 .manual
        ∧ a.line = 0)
      ∧ freed.waiting .upstream = true ∧ freed.waiting .scrub = false ∧ s.upstream.progress = .store storeOne
      ∧ s.current = some writeOne ∧ storeOne.dual = none ∧ s.injection = none
      ∧ entryFor s.remap 1 = some writing.target ∧ blockOf (firstAddress writeOne) = 1
      ∧ lineOf (firstAddress writeOne) = 0 ∧ writing.inFlight = true := by decide

theorem witness_MigrationCompletes :
    let writing : CopyWork := { work with phase := .writing (List.replicate 16 (cleanForm 1)), inFlight := true }
    let a := access .copyWrite 4 15 0 16 (List.replicate 16 (cleanForm 1))
    let s := sent (copying writing 15) a
    let j := sent (recopying writing 15) a
    (s.port.link = .up ∧ s.port.outstanding = some a ∧ a.purpose = .copyWrite ∧ a.discarded = false ∧ a.line = 15
        ∧ s.migration = { queue := [request (.visible 1) false true], engine := .copying writing }
        ∧ writing.overtaken = false ∧ entryAt s.remap writing.target = .copying 1 .source 15 .manual)
      ∧ (j.migration = { queue := [request (.spare 1) false true], engine := .copying writing }
        ∧ entryAt j.remap writing.target = .copying 1 (.leaving 1) 15 .manual
        ∧ entryAt j.remap 1 = .leaving 1 .auto) := by decide

/-- The failures are those of `witness_failsBy`, the tables those of `witness_abortsTo`. -/
theorem witness_SecondFailureDropsRequest :
    let writing : CopyWork := { work with phase := .writing (List.replicate 16 (cleanForm 1)), inFlight := true }
    let a := access .copyWrite 4 5 0 16 (List.replicate 16 (cleanForm 1))
    let s := sent (copying writing 5) a
    let d := sent (retried (recopying writing 5)) a
    (s.port.link = .up ∧ s.port.outstanding = some a ∧ a.purpose = .copyWrite ∧ a.discarded = false
        ∧ s.migration = { queue := [request (.visible 1) false true], engine := .copying writing }
        ∧ writing.target = work.target ∧ s.remap = (copying work 5).remap ∧ s.port.abandoned.length < 7)
      ∧ (d.migration = { queue := [request (.spare 1) true true], engine := .copying writing }
        ∧ d.remap = (recopying work 5).remap) := by decide

/-- The tables are those of `witness_abortsTo`. -/
theorem witness_SystemResetKeepsRepairs :
    let blocked := { exhausted up with migration := { queue := [request (.visible 1) false false], engine := .blocked } }
    let c := copying work 5
    let j := recopying work 5
    (up.migration.engine = .idle ∧ up.migration.queue = []) ∧ blocked.migration.engine = .blocked
      ∧ (c.migration = { queue := [request (.visible 1) false true], engine := .copying work } ∧ c.port.link = .up
        ∧ { c with port := down.port }.port.link = .down)
      ∧ j.migration = { queue := [request (.spare 1) false true], engine := .copying work } := by decide

theorem witness_GoOnlineAndClearLink :
    let small := { off with settings := { off.settings with downstream := 7 } }
    let exact := { off with settings := { off.settings with downstream := 8 } }
    (small.mode = .offline
        ∧ ¬ (1 ≤ small.settings.visible
          ∧ small.settings.visible + small.settings.spares ≤ small.settings.downstream))
      ∧ up.mode = .online ∧ { up with mode := .stopping }.mode = .stopping
      ∧ (∀ s ∈ [exact, { exact with migration := { queue := [request (.visible 1) false false], engine := .idle } }],
        s.mode = .offline ∧ 1 ≤ s.settings.visible ∧ s.settings.visible + s.settings.spares ≤ s.settings.downstream
          ∧ s.scrubber.timer = none)
      ∧ exact.migration.queue = [] ∧ down.migration.queue = [] := by decide

/-- The tables are those of `witness_abortsTo`. -/
theorem witness_GoOfflineByMode :
    let flying : CopyWork := { work with inFlight := true }
    let a := access .copyRead 1 5 0 16 []
    off.mode ≠ .online ∧ (up.mode = .online ∧ up.migration.engine = .idle)
      ∧ ({ up with migration := { queue := [request (.visible 1) false false], engine := .blocked } }.migration.engine
        = .blocked)
      ∧ (let s := sent (copying flying 5) a
        s.mode = .online ∧ s.migration = { queue := [request (.visible 1) false true], engine := .copying flying }
          ∧ flying.target = work.target ∧ s.remap = (copying work 5).remap)
      ∧ (let j := sent (recopying flying 5) a
        j.mode = .online ∧ j.migration = { queue := [request (.spare 1) false true], engine := .copying flying }
          ∧ j.remap = (recopying work 5).remap) := by decide

theorem witness_StatusReportsState :
    (Mode.online, 1#8) ∈ [(Mode.offline, 0#8), (.online, 1#8), (.stopping, 2#8)] ∧ up.mode = .online
      ∧ up.migration.engine = .idle
      ∧ ({ up with migration := { queue := [request (.visible 1) false false], engine := .blocked } }.migration.engine
        = .blocked)
      ∧ ((copying work 15).migration.engine = .copying work
        ∧ entryAt (copying work 15).remap work.target = .copying 1 .source 15 .manual)
      ∧ { up.records with dropped := 65535 }.dropped ≤ 65535 ∧ { up.watch with untracked := 65535 }.untracked ≤ 65535
      ∧ { up.writeBack with dropped := 65535 }.dropped ≤ 65535
      ∧ { up.scrubber with block := 131071 }.block < 131072 := by decide

theorem witness_PolicyItemsReadAndWritten :
    ((0x04#8, up.settings.correctedLimit) ∈ [(0x04#8, up.settings.correctedLimit)] ∧ up.settings.correctedLimit < 2 ^ 32)
      ∧ ((0 : Byte).toNat = 0) ∧ 15 ≤ (15 : Byte).toNat ∧ leValue [(0xFF : Byte), 0, 0, 0] = 255 := by decide

theorem witness_GeometryWrites_refused :
    up.mode ≠ .offline ∧ off.mode = .offline ∧ (0 : Word).toNat = 0 ∧ 131072 < (131073 : Word).toNat
      ∧ (1 ≤ (131072 : Word).toNat ∧ (131072 : Word).toNat ≤ 131072)
      ∧ (∃ i, i < 64 ∧ ∃ b ∈ (entryAt (setEntry off.remap 0 (.active 3 .auto)) i).source?, (3 : Word).toNat ≤ b)
      ∧ 64 < (65 : Word).toNat
      ∧ ((3 : Word).toNat ≤ 3 ∧ 3 < off.settings.spares
        ∧ entryAt (setEntry off.remap 3 (.retired .restored)) 3 ≠ .free
        ∧ entryAt (setEntry off.remap 3 (.retired .restored)) 3 ≠ .unused) := by decide

/-- With AUTO_SPARE on too: a write of V = 3 removes the one request of the watched bridge, and frees its place. -/
theorem witness_GeometryWrites_accepted :
    (∀ i, i < 64 → ∀ b ∈ (entryAt (setEntry off.remap 0 (.active 2 .auto)) i).source?, b < (3 : Word).toNat)
      ∧ (let s := watched { off with settings := { off.settings with autoSpare := true } }
        let c := { s.settings with visible := (3 : Word).toNat }
        s.settings.autoSpare = true ∧ s.migration.queue.length = 1
          ∧ (s.migration.queue.filter fun r => locationExists c r.location) = []
          ∧ ∀ i, i < 64 → ∀ b ∈ (entryAt s.remap i).source?, b < (3 : Word).toNat)
      ∧ (64 : Word).toNat ≤ 64
      ∧ ∀ i, i < 64 → (2 : Word).toNat ≤ i → i < off.settings.spares →
          entryAt off.remap i = .free ∨ entryAt off.remap i = .unused := by decide

theorem witness_AutoSpareOffersWaiting :
    1 < (2 : Word).toNat ∧ (watched off).mode ≠ .online ∧ (watched off).watchLaw
      ∧ (off.settings.autoSpare = false)
      ∧ (let s := { watched off with settings := { off.settings with autoSpare := true } }
        let e := entry (.visible 2) .waiting 1
        s.settings.autoSpare = true ∧ s.migration.queue.length < 8 ∧ s.hasRequest e.location = false
          ∧ s.watch.entryIn 1 = some e ∧ e.state = .waiting) := by decide

/-- The watched bridge ONLINE, with an engine. -/
def watchedWith (engine : Engine) : State :=
  { watched up with migration := { (watched up).migration with engine := engine } }

/-- ONLINE with the engine COPYING, with it BLOCKED and with the link DOWN; with room and with a full queue. -/
theorem witness_AutoSpareOffersWaiting_online :
    (∀ engine ∈ [Engine.copying work, .blocked],
        (watchedWith engine).mode = .online ∧ (watchedWith engine).migration.engine ≠ .idle ∧ (watchedWith engine).watchLaw)
      ∧ ((watched down).mode = .online ∧ (watched down).port.link = .down ∧ (watched down).watchLaw)
      ∧ (watched up).migration.queue.length < 8 ∧ 8 ≤ (List.replicate 8 (request (.visible 3) false false)).length := by
  decide

/-- ONLINE with the engine IDLE, the queue empty and one WAITING entry: the request it makes may be tried at once. -/
theorem witness_AutoSpareOffersWaiting_idle :
    let s := { up with
      watch := { up.watch with slots := up.watch.slots.setIfInBounds 1 (some (entry (.visible 2) .waiting 1)) } }
    s.mode = .online ∧ s.migration = { queue := [], engine := .idle } ∧ s.port.link = .up ∧ s.dualPending = false
      ∧ s.watchLaw ∧ s.watch.entryIn 1 = some (entry (.visible 2) .waiting 1) := by decide

/-- The try that the statement names answers a next state, whatever it meets. -/
theorem witness_AutoSpareOffersWaiting_tried (s : State) : ∃ tried, exec .migrationStart s = .next tried := ⟨_, rfl⟩

/-- No other entry of that table names the location, and none but it is WAITING. -/
theorem witness_AutoSpareOffersWaiting_oldest : ∀ i f, i ≠ 1 → (watched off).watch.entryIn i = some f →
    f.location ≠ .visible 2 ∧ f.state ≠ .waiting := by
  intro i f hi h
  by_cases hs : i < 32
  · interval_cases i
    · rw [show (watched off).watch.entryIn 0 = some (entry (.visible 0) .tracking 0) by decide] at h
      cases h; decide
    · exact absurd rfl hi
    · rw [show (watched off).watch.entryIn 2 = some (entry (.visible 3) .queued 2) by decide] at h
      cases h; decide
    all_goals exact absurd h (by decide +revert)
  · simp [WatchTable.entryIn, hs] at h

theorem witness_AutoSpareOffersWaiting_none : ∀ slot e, up.watch.entryIn slot = some e → e.state ≠ .waiting := by
  intro slot e h
  have none_there : up.watch.entryIn slot = none := by
    by_cases hs : slot < 32
    · interval_cases slot <;> decide
    · simp [WatchTable.entryIn, hs]
  simp [none_there] at h

theorem witness_PacingAndAlertItems :
    1 < (2 : Word).toNat ∧ (0 : Word).toNat = 0 ∧ 65535 < (65536 : Word).toNat
      ∧ (1 ≤ (65535 : Word).toNat ∧ (65535 : Word).toNat ≤ 65535) ∧ (7 : Word).toNat < 8 ∧ 1023 < (1024 : Word).toNat
      ∧ (∀ a ∈ (sent up { access .scrubRead 1 3 0 16 [] with elapsed := 7 }).port.outstanding, a.elapsed < (8 : Word).toNat)
      ∧ (let a := { access .scrubRead 1 3 0 16 [] with elapsed := 1023 }
        8 ≤ (1023 : Word).toNat ∧ (1023 : Word).toNat ≤ 1023 ∧ (sent up a).port.outstanding = some a
          ∧ (1023 : Word).toNat ≤ a.elapsed) := by decide

theorem witness_TableReads_entries :
    64 ≤ (64 : Byte).toNat ∧ (63 : Byte).toNat < 64 ∧ entryAt up.remap 63 = .unused ∧ entryAt up.remap 0 = .free
      ∧ entryAt (exhausted up).remap 0 = .retired .writeFailed
      ∧ (RetireReason.writeFailed, 1#8) ∈ [(RetireReason.replaced, 0#8), (.writeFailed, 1#8), (.restored, 2#8)]
      ∧ (Origin.manual, 1#8) ∈ [(Origin.auto, 0#8), (.manual, 1#8), (.restored, 2#8)]
      ∧ leValue [(1 : Byte), 0, 0] = 1
      ∧ entryAt (setEntry up.remap 0 (.active 1 .manual)) 0 = .active 1 .manual
      ∧ entryAt (setEntry up.remap 0 (.leaving 1 .manual)) 0 = .leaving 1 .manual
      ∧ entryAt (copying work 5).remap 0 = .copying 1 .source 5 .manual
      ∧ entryAt (recopying work 5).remap 0 = .copying 1 (.leaving 1) 5 .manual := by decide

theorem witness_TableReads_queue_and_watch :
    8 ≤ (8 : Byte).toNat ∧ ((7 : Byte).toNat < 8 ∧ up.migration.queue[7]? = none) ∧ 32 ≤ (32 : Byte).toNat
      ∧ ((31 : Byte).toNat < 32 ∧ up.watch.entryIn 31 = none)
      ∧ (leValue [(3 : Byte), 0, 0] = 3
        ∧ (watched up).migration.queue[0]? = some (request (.visible 3) false false))
      ∧ ((watched up).watch.entryIn 2 = some (entry (.visible 3) .queued 2)
        ∧ (entry (.visible 3) .queued 2).offsets.length ≤ 4
        ∧ leValue [(2 : Byte), 0, 0, 0] = (entry (.visible 3) .queued 2).stamp.toNat
        ∧ (WatchState.queued, 2#8) ∈ [(WatchState.tracking, 0#8), (.waiting, 1#8), (.queued, 2#8)])
      ∧ (recopying work 5).migration.queue[0]? = some (request (.spare 1) false true) := by decide

theorem witness_RepairCommands_offline :
    up.mode ≠ .offline ∧ (off.mode = .offline ∧ off.settings.spares ≤ (4 : Byte).toNat)
      ∧ ((3 : Byte).toNat < off.settings.spares ∧ (4 : Byte) ≠ 3 ∧ (4 : Byte) ≠ 5)
      ∧ entryAt (exhausted off).remap 3 ≠ .free ∧ entryAt off.remap 3 = .free ∧ off.settings.visible ≤ 4
      ∧ 3 < off.settings.visible
      ∧ (∃ j, j < 64 ∧ (entryAt (setEntry off.remap 0 (.active 3 .auto)) j).source? = some 3)
      ∧ (∀ j, j < 64 → (entryAt off.remap j).source? ≠ some 3)
      ∧ entryAt (setEntry off.remap 0 (.active 3 .auto)) 0 = .active 3 .auto := by decide

theorem witness_RepairCommands_drop : ∀ source origin, entryAt off.remap 3 ≠ .active source origin := by
  intro source origin
  rw [show entryAt off.remap 3 = .free by decide]
  exact nofun

theorem witness_RepairCommands_release :
    up.settings.spares ≤ (4 : Byte).toNat ∧ (3 : Byte).toNat < up.settings.spares
      ∧ entryAt (exhausted up).remap 3 = .retired .writeFailed ∧ (exhausted up).migration.engine ≠ .blocked
      ∧ (let s := { exhausted up with migration := { queue := [request (.visible 1) false false], engine := .blocked } }
        s.mode = .online ∧ s.port.link = .up ∧ s.dualPending = false ∧ (∀ j, j < 64 → entryAt s.remap j ≠ .free)
          ∧ 1 < s.settings.visible ∧ ∀ j, j < 64 → (entryAt s.remap j).routed? ≠ some 1) := by decide

theorem witness_RepairCommands_release_conflict : ∀ reason, entryAt up.remap 3 ≠ .retired reason := by
  intro reason
  rw [show entryAt up.remap 3 = .free by decide]
  exact nofun

theorem witness_QueueAndWatchCommands_request :
    ((2 : Byte) ≠ 0 ∧ (2 : Byte) ≠ 1) ∧ (leValue [(4 : Byte), 0, 0] = 4 ∧ up.settings.visible ≤ 4 ∧ up.settings.spares ≤ 4)
      ∧ (leValue [(1 : Byte), 0, 0] = 1 ∧ 1 < up.settings.visible
        ∧ ∃ i, i < 64 ∧ (entryAt (copying work 5).remap i).routed? = some 1)
      ∧ ((∀ i, i < 64 → (entryAt (watched up).remap i).routed? ≠ some 3)
        ∧ ∃ r ∈ (watched up).migration.queue, r.location = .visible 3)
      ∧ ((∀ r ∈ (watched off).migration.queue, r.location ≠ .visible 2) ∧ (watched off).migration.queue.length < 8
        ∧ (watched off).mode ≠ .online)
      ∧ (let s := { up with
          migration := { up.migration with queue := (List.range 8).map fun k => request (.visible (k + 10)) false false } }
        (∀ r ∈ s.migration.queue, r.location ≠ .visible 2) ∧ 8 ≤ s.migration.queue.length)
      ∧ (entryAt (setEntry up.remap 1 (.active 1 .auto)) 1 = .active 1 .auto ∧ 1 < up.settings.spares) := by decide

/-- The tables are those of `witness_abortsTo`. -/
theorem witness_QueueAndWatchCommands_cancel :
    let behind (s : State) : State :=
      { s with migration := { s.migration with queue := s.migration.queue ++ [request (.visible 3) false false] } }
    let dual : DualWrite := { block := 4, forms := [cleanForm 1], fate := .inFlight }
    let pending := serving (behind (copying work 5)) writeOne (.store { storeOne with dual := some dual })
    (∀ r ∈ up.migration.queue, r.location ≠ .visible 1)
      ∧ ((∃ r ∈ (watched off).migration.queue, r.location = .visible 3) ∧ (watched off).migration.engine = .idle)
      ∧ ((∃ r ∈ (behind (copying work 5)).migration.queue, r.location = .visible 3)
        ∧ ∀ r ∈ (behind (copying work 5)).migration.queue.head?, r.location ≠ .visible 3)
      ∧ ((behind { up with migration := { queue := [request (.visible 1) false false], engine := .blocked } }).migration
        = { queue := [request (.visible 1) false false, request (.visible 3) false false], engine := .blocked })
      ∧ (pending.migration
          = { queue := [request (.visible 1) false true, request (.visible 3) false false], engine := .copying work }
        ∧ pending.dualPending = true ∧ pending.remap = (copying work 5).remap)
      ∧ ((behind (recopying work 5)).migration
        = { queue := [request (.spare 1) false true, request (.visible 3) false false], engine := .copying work }) := by
  decide

theorem witness_QueueAndWatchCommands_clear :
    32 ≤ (32 : Byte).toNat ∧ ((31 : Byte).toNat < 32 ∧ (watched up).watch.entryIn 31 = none)
      ∧ ((watched up).watch.entryIn 2 = some (entry (.visible 3) .queued 2))
      ∧ ((watched up).watch.entryIn 1 = some (entry (.visible 2) .waiting 1)
        ∧ (entry (.visible 2) .waiting 1).state ≠ .queued) := by decide

theorem witness_RecordCommands :
    let full : RecordUnit := { up.records with queue := List.replicate 16 { sequence := 0, body := { kind := .linkDown, source := .link } } }
    up.records.queue = [] ∧ up.records.queue.length < 16 ∧ 16 ≤ full.queue.length
      ∧ full.queue = { sequence := 0, body := { kind := .linkDown, source := .link } } :: full.queue.tail
      ∧ (∀ r ∈ full.queue, r.body.location = none ∧ r.body.detail = none) := by decide

/-- A bridge with traffic, a copy, a scrub and a command waiting. -/
def busy : State :=
  let flying : CopyWork := { work with inFlight := true }
  let s := serving (copying flying 5) readTwo .fetch
  let s := sent s (access .copyRead 1 5 0 16 [])
  { s with
    scrubber := { s.scrubber with state := .due, timer := some 3 }
    settings := { s.settings with scrubEnable := true }
    writeBack := { s.writeBack with entries := [{ block := 7, line := 15, word := 15, data := 9 }] }
    pending := [.memoryResponse 5 .ok (List.replicate 16 (cleanForm 1)) true] }

theorem witness_BoundsInvariant :
    busy.recordLaw ∧ busy.writeBackLaw ∧ busy.queueLaw ∧ busy.linkLaw ∧ busy.passOverLaw ∧ busy.countLaw ∧ busy.workLaw
      ∧ ∃ t, step busy = .next t :=
  ⟨by decide, by decide, by decide, by decide, by decide, by decide, by decide, _, rfl⟩

theorem witness_TableInvariant : busy.tableLaw ∧ ∃ t, step busy = .next t :=
  ⟨⟨by decide, by decide, by decide, by decide, by decide⟩, _, rfl⟩

theorem witness_WatchInvariant : (watched up).watchLaw ∧ (watched up).queueLaw ∧ ∃ t, step (watched up) = .next t :=
  ⟨by decide, by decide, _, rfl⟩

theorem witness_AccessInvariant : busy.trafficLaw ∧ ∃ t, step busy = .next t :=
  ⟨⟨by decide, by decide, by decide, by decide, by decide⟩, _, rfl⟩

theorem witness_SettledInvariant :
    busy.settledLaw ∧ busy.watchLaw ∧ busy.queueLaw ∧ ∃ t, step busy = .next t := ⟨by decide, by decide, by decide, _, rfl⟩

theorem witness_PlaceInvariant : busy.placeLaw ∧ busy.tableLaw ∧ busy.trafficLaw ∧ ∃ t, step busy = .next t :=
  ⟨by decide, witness_TableInvariant.1, witness_AccessInvariant.1, _, rfl⟩

end Sys2Proof.Tests
end

/-! Places: what keeps no place that was not kept before, and that every step keeps the places in the two areas (O59). -/

namespace Sys2Proof.Machine

/-! ## Keeping no place that was not kept before -/

/-- Of one access two views: the same run, and taken by its requester only if it was before. -/
def Access.Within (a b : Access) : Prop :=
  a.purpose = b.purpose ∧ a.block = b.block ∧ a.line = b.line ∧ a.first = b.first ∧ a.count = b.count ∧ a.words = b.words
    ∧ (a.discarded = false → b.discarded = false)

/-- The runs left to store are among those there were, and a pending dual spare write is the one there was. -/
def StoreWork.Within (w v : StoreWork) : Prop :=
  (∀ run ∈ w.runs, run ∈ v.runs)
    ∧ ∀ d ∈ w.dual, w.runs = v.runs ∧ ∃ e ∈ v.dual, d.block = e.block ∧ d.forms = e.forms

/-- A phase that asks for no access that another does not. -/
def Progress.Within (p q : Progress) : Prop :=
  (p.needsAccess = true → q.needsAccess = true) ∧ ∀ w ∈ p.store?, ∃ v ∈ q.store?, w.Within v

/-- A line buffer held is one that was held. -/
def Engine.Within (e f : Engine) : Prop :=
  ∀ w ∈ e.work?, ∀ buffer ∈ w.phase.buffer?, ∃ v ∈ f.work?, buffer ∈ v.phase.buffer?

/-- `t` has the areas of `s`, and keeps no place for an access that `s` does not keep. -/
structure State.Within (t s : State) : Prop where
  visible : t.settings.visible = s.settings.visible
  spares : t.settings.spares = s.settings.spares
  entries : ∀ e ∈ t.writeBack.entries, e ∈ s.writeBack.entries
  held : t.upstream.held = s.upstream.held
  progress : t.upstream.progress.Within s.upstream.progress
  outstanding : ∀ a ∈ t.port.outstanding, ∃ b ∈ s.port.outstanding, a.Within b
  engine : t.migration.engine.Within s.migration.engine

@[refl] theorem Access.Within.refl (a : Access) : a.Within a := ⟨rfl, rfl, rfl, rfl, rfl, rfl, id⟩

theorem Access.Within.trans {a b c : Access} (h : a.Within b) (k : b.Within c) : a.Within c := by
  obtain ⟨hp, hb, hl, hf, hc, hw, hd⟩ := h
  obtain ⟨kp, kb, kl, kf, kc, kw, kd⟩ := k
  exact ⟨hp.trans kp, hb.trans kb, hl.trans kl, hf.trans kf, hc.trans kc, hw.trans kw, kd ∘ hd⟩

@[refl] theorem StoreWork.Within.refl (w : StoreWork) : w.Within w :=
  ⟨fun _ h => h, fun d hd => ⟨rfl, d, hd, rfl, rfl⟩⟩

theorem StoreWork.Within.trans {u v w : StoreWork} (h : u.Within v) (k : v.Within w) : u.Within w := by
  refine ⟨fun run hr => k.1 run (h.1 run hr), fun d hd => ?_⟩
  obtain ⟨same, e, he, hb, hf⟩ := h.2 d hd
  obtain ⟨same', f, hf', kb, kf⟩ := k.2 e he
  exact ⟨same.trans same', f, hf', hb.trans kb, hf.trans kf⟩

@[refl] theorem Progress.Within.refl (p : Progress) : p.Within p := ⟨id, fun w hw => ⟨w, hw, .refl w⟩⟩

theorem Progress.Within.trans {p q r : Progress} (h : p.Within q) (k : q.Within r) : p.Within r := by
  refine ⟨k.1 ∘ h.1, fun u hu => ?_⟩
  obtain ⟨v, hv, uv⟩ := h.2 u hu
  obtain ⟨w, hw, vw⟩ := k.2 v hv
  exact ⟨w, hw, uv.trans vw⟩

@[refl] theorem Engine.Within.refl (e : Engine) : e.Within e := fun w hw _ hb => ⟨w, hw, hb⟩

theorem Engine.Within.trans {e f g : Engine} (h : e.Within f) (k : f.Within g) : e.Within g := by
  intro w hw buffer hb
  obtain ⟨v, hv, hb'⟩ := h w hw buffer hb
  exact k v hv buffer hb'

theorem Engine.Within.of_eq {e f : Engine} (h : e = f) : e.Within f := h ▸ .refl e

/-- An engine that is not COPYING, or that reads a line, holds no line buffer. -/
theorem Engine.Within.of_empty {e : Engine} (f : Engine) (h : ∀ w ∈ e.work?, w.phase = .reading) : e.Within f := by
  intro w hw buffer hb
  simp [h w hw, LinePhase.buffer?] at hb

theorem Engine.Within.idle (f : Engine) : Engine.idle.Within f := .of_empty f (by simp [Engine.work?])

theorem Engine.Within.blocked (f : Engine) : Engine.blocked.Within f := .of_empty f (by simp [Engine.work?])

theorem Engine.Within.attemptAt (target overtakes : Nat) (f : Engine) :
    (Engine.copying (CopyWork.attemptAt target overtakes)).Within f :=
  .of_empty f (by simp [Engine.work?, CopyWork.attemptAt])

/-- A change of the working items that leaves the line phase alone. -/
theorem Engine.Within.copying {w v : CopyWork} (h : w.phase = v.phase) : (Engine.copying w).Within (.copying v) := by
  simp [Engine.Within, Engine.work?, h]

/-- A phase that asks for no access keeps no place. -/
theorem Progress.Within.of_quiet {p : Progress} (q : Progress) (h : p.needsAccess = false) : p.Within q := by
  cases p <;> simp_all [Progress.Within, Progress.needsAccess, Progress.store?]

theorem Progress.Within.store {w v : StoreWork} (h : w.Within v) : (Progress.store w).Within (.store v) := by
  simp [Progress.Within, Progress.needsAccess, Progress.store?, h]

theorem Progress.Within.withFate (p : Progress) (fate : MigrationFate) : (p.withFate fate).Within p := by
  cases p with
  | store work =>
    refine .store ⟨fun _ h => h, fun d hd => ⟨rfl, ?_⟩⟩
    obtain ⟨e, he, rfl⟩ := Option.map_eq_some_iff.mp hd
    exact ⟨e, he, rfl, rfl⟩
  | idle | fetch | mergeRead | answer _ => exact .refl _

namespace State.Within

@[refl] theorem refl (s : State) : s.Within s :=
  ⟨rfl, rfl, fun _ h => h, rfl, .refl _, fun a h => ⟨a, h, .refl a⟩, .refl _⟩

theorem trans {u t s : State} (h : u.Within t) (k : t.Within s) : u.Within s where
  visible := h.visible.trans k.visible
  spares := h.spares.trans k.spares
  entries e he := k.entries e (h.entries e he)
  held := h.held.trans k.held
  progress := h.progress.trans k.progress
  outstanding a ha := by
    obtain ⟨b, hb, ab⟩ := h.outstanding a ha
    obtain ⟨c, hc, bc⟩ := k.outstanding b hb
    exact ⟨c, hc, ab.trans bc⟩
  engine := h.engine.trans k.engine

/-- A change outside the write-back buffer, the two ports and the engine. -/
theorem of_same {t s : State} (visible : t.settings.visible = s.settings.visible)
    (spares : t.settings.spares = s.settings.spares) (writeBack : t.writeBack = s.writeBack)
    (upstream : t.upstream = s.upstream) (outstanding : t.port.outstanding = s.port.outstanding)
    (engine : t.migration.engine = s.migration.engine) : t.Within s where
  visible := visible
  spares := spares
  entries _ he := writeBack ▸ he
  held := by rw [upstream]
  progress := by rw [upstream]
  outstanding a ha := ⟨a, outstanding ▸ ha, .refl a⟩
  engine := by rw [engine]

/-- A change of the engine, and of nothing else that keeps a place. -/
theorem of_engine {t s : State} (settings : t.settings = s.settings) (writeBack : t.writeBack = s.writeBack)
    (upstream : t.upstream = s.upstream) (port : t.port = s.port)
    (engine : t.migration.engine.Within s.migration.engine) : t.Within s where
  visible := by rw [settings]
  spares := by rw [settings]
  entries _ he := writeBack ▸ he
  held := by rw [upstream]
  progress := by rw [upstream]
  outstanding a ha := ⟨a, port ▸ ha, .refl a⟩
  engine := engine

end State.Within

/-- The law of the places is kept by every change that keeps no new place (R5, R107). -/
theorem State.placeLaw_of_within {t s : State} (w : t.Within s) (h : s.placeLaw) : t.placeLaw := by
  obtain ⟨entries, work, access, range, copy, fetch, buffer, spares⟩ := h
  have current : t.current = s.current := by rw [State.current, State.current, w.held]
  refine ⟨fun e he => ?_, fun v hv => ?_, fun a ha taken => ?_, fun needs => ?_, fun a ha hp => ?_,
    fun a ha taken hp x hx => ?_, fun v hv b hb => ?_, ?_⟩
  · simpa only [runFits, w.visible, w.spares] using entries e (w.entries e he)
  · obtain ⟨v', hv', runs, dual⟩ := w.progress.2 v hv
    obtain ⟨fits, kept⟩ := work v' hv'
    refine ⟨fun run hr => fits run (runs run hr), fun d hd => ?_⟩
    obtain ⟨same, e, he, block, forms⟩ := dual d hd
    rw [w.visible, w.spares, same, block, forms]
    exact kept e he
  · obtain ⟨b, hb, p, bl, li, fi, co, wo, di⟩ := w.outstanding a ha
    simp only [runFits, w.visible, w.spares, p, bl, li, fi, co, wo]
    exact access b hb (di taken)
  · obtain ⟨x, hx, inside⟩ := range (w.progress.1 needs)
    exact ⟨x, current ▸ hx, by simpa only [inRange, w.visible] using inside⟩
  · obtain ⟨b, hb, p, bl, li, fi, co, wo, di⟩ := w.outstanding a ha
    rw [co]
    exact copy b hb (p ▸ hp)
  · obtain ⟨b, hb, p, bl, li, fi, co, wo, di⟩ := w.outstanding a ha
    rw [co]
    exact fetch b hb (di taken) (p ▸ hp) x (current ▸ hx)
  · obtain ⟨v', hv', hb'⟩ := w.engine v hv b hb
    exact buffer v' hv' b hb'
  · rw [w.spares]; exact spares

/-! ## The engine keeps no new place -/

@[simp] theorem State.joinQueue_engine (s : State) (l : Location) (o : RequestOrigin) :
    (s.joinQueue l o).migration.engine = s.migration.engine := rfl

@[simp] theorem State.offerWaiting_engine (s : State) : s.offerWaiting.migration.engine = s.migration.engine := by
  unfold State.offerWaiting
  split
  · rfl
  · split
    · rfl
    · split <;> rfl

@[simp] theorem State.placeFreed_engine (s : State) : s.placeFreed.migration.engine = s.migration.engine := by
  unfold State.placeFreed
  split <;> simp

@[simp] theorem State.placesFreed_engine (n : Nat) (s : State) :
    (State.placesFreed n s).migration.engine = s.migration.engine := by
  induction n generalizing s with
  | zero => rfl
  | succ n ih => simp [State.placesFreed, ih]

@[simp] theorem State.dropStale_engine (s : State) (l : Location) (rest : List Request) :
    (s.dropStale l rest).migration.engine = s.migration.engine := by
  simp [State.dropStale]

@[simp] theorem State.pruneTables_engine (s : State) : s.pruneTables.migration.engine = s.migration.engine := by
  simp [State.pruneTables]

@[simp] theorem State.failRequest_engine (s : State) (r : Request) (rest : List Request) (target : Nat) :
    (s.failRequest r rest target).migration.engine = s.migration.engine := by
  unfold State.failRequest
  split <;> simp

@[simp] theorem State.disposeRequest_engine (s : State) (cause : AbortCause) (r : Request) (rest : List Request)
    (target : Nat) : (s.disposeRequest cause r rest target).migration.engine = s.migration.engine := by
  cases cause <;> simp [State.disposeRequest]

@[simp] theorem State.removeRequest_engine (s : State) (l : Location) :
    (s.removeRequest l).migration.engine = s.migration.engine := by
  simp [State.removeRequest]

/-- A try leaves the engine as it was, BLOCKED, or at the start of a line. -/
theorem State.tryLoop_engine (n : Nat) (s : State) :
    (State.tryLoop n s).migration.engine.Within s.migration.engine := by
  induction n generalizing s with
  | zero => exact .refl _
  | succ n ih =>
    unfold State.tryLoop
    split
    · split
      · exact .refl _
      · rename_i r rest _
        split
        · split
          · exact .blocked _
          · exact .attemptAt _ _ _
        · exact (ih _).trans (.of_eq (s.dropStale_engine r.location rest))
    · exact .refl _

theorem State.tryStart_engine (s : State) : s.tryStart.migration.engine.Within s.migration.engine :=
  State.tryLoop_engine _ s

theorem State.tryStart_within (s : State) : s.tryStart.Within s :=
  .of_engine (by simp) (by simp) (by simp) (by simp) s.tryStart_engine

theorem State.settleFate_within (s : State) (fate : MigrationFate) : (s.settleFate fate).Within s := by
  rw [State.settleFate_eq]
  exact ⟨rfl, rfl, fun _ h => h, rfl, .withFate _ _, fun a h => ⟨a, h, .refl a⟩, .refl _⟩

theorem State.discardOutstanding_within (s : State) (r : Requester) : (s.discardOutstanding r).Within s := by
  refine ⟨by simp, by simp, by simp, by simp, by simpa using .refl _, fun a ha => ?_, by simpa using .refl _⟩
  unfold State.discardOutstanding at ha
  split at ha
  · rename_i b hb
    split at ha
    · cases ha
      exact ⟨b, hb, rfl, rfl, rfl, rfl, rfl, rfl, by simp⟩
    · exact ⟨a, ha, .refl a⟩
  · exact ⟨a, ha, .refl a⟩

theorem State.makeRecord_within (s : State) (b : RecordBody) : (s.makeRecord b).Within s := .of_same rfl rfl rfl rfl rfl rfl

theorem State.completeMigration_within (s : State) (work : CopyWork) : (s.completeMigration work).Within s := by
  unfold State.completeMigration
  split
  · exact .refl s
  · rename_i r rest _
    refine .trans (t := State.settleFate { s with
        remap := completeEntries s.remap work.target
        migration := { queue := rest, engine := .idle }
        watch := s.watch.remove r.location } .completed)
      (.of_same (by simp) (by simp) (by simp) (by simp) (by simp) (by simp)) ?_
    exact (State.settleFate_within _ _).trans (.of_engine rfl rfl rfl rfl (.idle _))

theorem State.abortMigration_within (s : State) (cause : AbortCause) : (s.abortMigration cause).Within s := by
  unfold State.abortMigration
  split
  · rename_i work r rest _ _
    refine .trans (t := State.settleFate (State.discardOutstanding { s with
        remap := abortEntries s.remap work.target (cause == .targetFailed)
        migration := { s.migration with engine := .idle }
        port := { s.port with migrationPassed := 0 } } .migration) .aborted)
      (.of_same (by simp) (by simp) (by simp) (by simp) (by simp) (by simp)) ?_
    refine (State.settleFate_within _ _).trans ((State.discardOutstanding_within _ _).trans ?_)
    exact ⟨rfl, rfl, fun _ h => h, rfl, .refl _, fun a h => ⟨a, h, .refl a⟩, .idle _⟩
  all_goals exact .refl s

theorem State.stopEngine_within (s : State) (cause : AbortCause) : (s.stopEngine cause).Within s := by
  unfold State.stopEngine
  split
  · exact s.abortMigration_within cause
  · exact .of_engine rfl rfl rfl rfl (.idle _)
  · exact .refl s

/-! ## The upstream port: failed and finished accesses -/

/-- A phase that asks for no access, taken over from any other. -/
theorem State.setProgress_within {s : State} {p : Progress} (h : p.Within s.upstream.progress) :
    (s.setProgress p).Within s :=
  ⟨rfl, rfl, fun _ h => h, rfl, h, fun a h => ⟨a, h, .refl a⟩, .refl _⟩

theorem State.answer_within (s : State) (given : Answer) : (s.setProgress (.answer given)).Within s :=
  State.setProgress_within (.of_quiet _ rfl)

theorem State.failRun_within (s : State) (t : Transaction) (work : StoreWork) : (s.failRun t work).Within s :=
  s.answer_within _

theorem State.finishRun_within {s : State} {v work : StoreWork} (hp : s.upstream.progress = .store v)
    (hr : work.runs = v.runs) : (s.finishRun work).Within s := by
  unfold State.finishRun
  split
  · exact s.answer_within _
  · refine State.setProgress_within ?_
    rw [hp]
    exact .store ⟨fun run h => hr ▸ List.mem_of_mem_tail h, by simp⟩

theorem State.endSpareStore_within {s : State} {v work : StoreWork} (hp : s.upstream.progress = .store v)
    (hr : work.runs = v.runs) (t : Transaction) (dual : DualWrite) (ending : Ending) :
    (s.endSpareStore t work dual ending).Within s := by
  have finished := State.finishRun_within hp hr
  unfold State.endSpareStore
  split
  · exact finished
  · exact (State.abortMigration_within _ _).trans finished
  · exact s.failRun_within t work
  · exact finished

/-- The end of a store access, however it ended, leaves no run and no spare write that was not there. -/
theorem State.endStore_within {s : State} {work : StoreWork} (hp : s.upstream.progress = .store work) (t : Transaction)
    (spare : Bool) (ending : Ending) : (s.endStore t work spare ending).Within s := by
  unfold State.endStore
  split
  · exact State.endSpareStore_within hp rfl t _ ending
  · exact .refl s
  · split
    · exact s.failRun_within t _
    · exact State.finishRun_within hp rfl
    · exact .refl s

/-- A failed access of the upstream port leaves an answer, or what `State.endStore_within` says. -/
theorem State.endUpstream_failed_within (s : State) (spare : Bool) (block : Nat) :
    (s.endUpstream spare block .failed).Within s := by
  unfold State.endUpstream
  split
  · exact s.answer_within _
  · exact s.answer_within _
  · rename_i work t hp _
    exact State.endStore_within hp t spare .failed
  · exact .refl s

theorem State.endWithoutIssue_within (s : State) : s.endWithoutIssue.Within s := by
  unfold State.endWithoutIssue
  split
  · exact s.endUpstream_failed_within _ _
  · exact .refl s

theorem State.settle_within (s : State) : s.settle.Within s :=
  (State.tryStart_within _).trans ((State.endWithoutIssue_within _).trans s.endWithoutIssue_within)

/-! ## The scrubber, the write-back buffer and the engine: ended accesses -/

theorem State.expireInterval_within (s : State) : s.expireInterval.Within s :=
  .of_same (by simp) (by simp) (by simp) (by simp) (by simp) (by simp)

theorem State.checkIntervalTimer_within (s : State) : s.checkIntervalTimer.Within s :=
  .of_same (by simp) (by simp) (by simp) (by simp) (by simp) (by simp)

theorem State.advanceScrub_within (s : State) : s.advanceScrub.Within s :=
  .of_same (by simp) (by simp) (by simp) (by simp) (by simp) (by simp)

theorem State.emptyWriteBack_within (s : State) : s.emptyWriteBack.Within s :=
  .trans (t := s.discardOutstanding .writeBack)
    ⟨rfl, rfl, by simp [State.emptyWriteBack], rfl, .refl _, fun a h => ⟨a, h, .refl a⟩, .refl _⟩
    (s.discardOutstanding_within .writeBack)

theorem State.withdrawScrub_within (s : State) : s.withdrawScrub.Within s := by
  unfold State.withdrawScrub
  dsimp only
  split
  · exact .trans (t := s.discardOutstanding .scrub) (.of_same rfl rfl rfl rfl rfl rfl) (s.discardOutstanding_within .scrub)
  all_goals exact .of_same rfl rfl rfl rfl rfl rfl

theorem State.endWriteBack_within (s : State) (a : Access) : (s.endWriteBack a).Within s :=
  ⟨rfl, rfl, fun _ h => (List.mem_filter.mp h).1, rfl, .refl _, fun a h => ⟨a, h, .refl a⟩, .refl _⟩

theorem State.endCopyWrite_within (s : State) (line : Nat) (ending : Ending) : (s.endCopyWrite line ending).Within s := by
  unfold State.endCopyWrite
  split
  · split
    · exact .of_engine rfl rfl rfl rfl (.attemptAt _ _ _)
    · split
      · exact .of_engine rfl rfl rfl rfl (.attemptAt _ _ _)
      · exact s.completeMigration_within _
  · exact s.abortMigration_within _
  all_goals exact .refl s

theorem State.endCopyRead_failed_within (s : State) (block line : Nat) : (s.endCopyRead block line .failed).Within s := by
  unfold State.endCopyRead
  split
  · contradiction
  · rename_i work hw _
    split
    · exact .of_engine rfl rfl rfl rfl (by rw [hw]; exact .copying rfl)
    · exact s.abortMigration_within _
  all_goals exact .refl s

theorem State.endScrub_failed_within (s : State) (block line : Nat) : (s.endScrub block line .failed).Within s :=
  .trans (t := s.advanceScrub) (.of_same rfl rfl rfl rfl rfl rfl) s.advanceScrub_within

/-- A failed access, of whatever requester, leaves no place that was not kept. -/
theorem State.hand_failed_within (s : State) (a : Access) : (s.hand a .failed).Within s := by
  unfold State.hand
  split
  · exact .refl s
  · split
    iterate 5 exact s.endUpstream_failed_within _ _
    · exact s.endCopyRead_failed_within _ _
    · exact s.endCopyWrite_within _ _
    · exact s.endScrub_failed_within _ _
    · exact s.endWriteBack_within a

/-! ## The words of a read -/

/-- The offers of a read name the line it went to and the words it brought. -/
theorem WriteBackBuffer.mem_offer {b : WriteBackBuffer} {e x : WriteBack} (h : x ∈ (b.offer e).entries) :
    x ∈ b.entries ∨ x = e := by
  unfold WriteBackBuffer.offer at h
  split at h
  · exact .inl h
  · split at h
    · simpa using h
    · exact .inl h

theorem State.becomeCandidate_engine (s : State) (source : RecordSource) (l : Location) (o : Nat) :
    (s.becomeCandidate source l o).migration.engine.Within s.migration.engine := by
  unfold State.becomeCandidate
  dsimp only
  split
  · exact .refl _
  · split
    · exact State.tryStart_engine _
    · exact .refl _

theorem State.countOutcome_engine (s : State) (source : RecordSource) (l : Location) (o : Nat) (bad full : Bool) :
    (s.countOutcome source l o bad full).1.migration.engine.Within s.migration.engine := by
  unfold State.countOutcome
  dsimp only
  split
  · split <;> exact .refl _
  · split
    · exact .refl _
    · split
      · exact State.becomeCandidate_engine _ source l o
      · exact .refl _

theorem State.takeWord_engine (s : State) (use : ReadUse) (word : Nat) (w : StoredWord) (full : Bool) :
    (s.takeWord use word w full).1.migration.engine.Within s.migration.engine := by
  unfold State.takeWord
  dsimp only
  split
  · exact .refl _
  · have counted := fun t : State => t.countOutcome_engine use.source (locationOf s.settings use.block) (16 * use.line + word) false full
    split <;> split <;> exact counted _
  · exact State.countOutcome_engine _ _ _ _ _ _
  · split <;> exact .refl _

theorem State.takeWord_entries {s : State} {use : ReadUse} {word : Nat} {w : StoredWord} {full : Bool} {e : WriteBack}
    (h : e ∈ (s.takeWord use word w full).1.writeBack.entries) :
    e ∈ s.writeBack.entries ∨ use.offers = true ∧ e.block = use.block ∧ e.line = use.line ∧ e.word = word := by
  unfold State.takeWord at h
  dsimp only at h
  split at h
  · exact .inl h
  · rw [apply_ite Prod.fst, apply_ite State.writeBack] at h
    simp only [State.countOutcome_writeBack, apply_ite State.writeBack, State.makeRecord_writeBack, ite_self] at h
    split at h
    · rename_i offers
      rcases WriteBackBuffer.mem_offer h with old | rfl
      · exact .inl old
      · exact .inr ⟨offers, rfl, rfl, rfl⟩
    · exact .inl h
  · simp at h; exact .inl h
  · split at h <;> exact .inl h

theorem State.takeWords_engine (s : State) (use : ReadUse) (word : Nat) (ws : List StoredWord) (full : Bool) :
    (s.takeWords use word ws full).migration.engine.Within s.migration.engine := by
  induction ws generalizing s word full with
  | nil => exact .refl _
  | cons w ws ih => exact (ih _ _ _).trans (s.takeWord_engine use word w full)

theorem State.takeWords_entries {s : State} {use : ReadUse} {word : Nat} {ws : List StoredWord} {full : Bool}
    {e : WriteBack} (h : e ∈ (s.takeWords use word ws full).writeBack.entries) :
    e ∈ s.writeBack.entries
      ∨ use.offers = true ∧ e.block = use.block ∧ e.line = use.line ∧ e.word < word + ws.length := by
  induction ws generalizing s word full with
  | nil => exact .inl h
  | cons w ws ih =>
    rcases ih h with old | ⟨offers, block, line, lt⟩
    · rcases State.takeWord_entries old with old | ⟨offers, block, line, rfl⟩
      · exact .inl old
      · exact .inr ⟨offers, block, line, by simp⟩
    · exact .inr ⟨offers, block, line, by simp only [List.length_cons]; omega⟩

/-- A read that offers no words keeps no place for them. -/
theorem State.takeWords_within {use : ReadUse} (quiet : use.offers = false) (s : State) (word : Nat)
    (ws : List StoredWord) (full : Bool) : (s.takeWords use word ws full).Within s where
  visible := by simp
  spares := by simp
  entries e he := by
    rcases State.takeWords_entries he with old | ⟨offers, -⟩
    · exact old
    · simp [quiet] at offers
  held := by simp
  progress := by simp only [State.takeWords_upstream]; exact .refl _
  outstanding a ha := ⟨a, by simpa using ha, .refl a⟩
  engine := s.takeWords_engine use word ws full

/-- The words of a read of one line in the two areas are offered for places there (R97, R118, R127). -/
theorem State.takeWords_placeLaw {s : State} (h : s.placeLaw) {use : ReadUse} {word : Nat} {ws : List StoredWord}
    (block : use.block < s.settings.visible + s.settings.spares) (line : use.line ≤ 15) (fits : word + ws.length ≤ 16)
    (full : Bool) : (s.takeWords use word ws full).placeLaw := by
  obtain ⟨entries, rest⟩ := h
  have others : State.placeLaw { s.takeWords use word ws full with writeBack := s.writeBack } :=
    State.placeLaw_of_within (s := s)
      ⟨by simp, by simp, fun _ h => h, by simp, by simp only [State.takeWords_upstream]; exact .refl _,
        fun a ha => ⟨a, by simpa using ha, .refl a⟩, s.takeWords_engine use word ws full⟩ ⟨entries, rest⟩
  refine ⟨fun e he => ?_, others.2⟩
  rw [State.takeWords_settings]
  rcases State.takeWords_entries he with old | ⟨-, hb, hl, lt⟩
  · exact entries e old
  · rw [hb, hl]
    exact ⟨block, line, le_rfl, by omega⟩

/-! ## Routes stay in the two areas -/

/-- The entries that route a block govern spares that exist, and the entries under copy come from a place in the two areas, their
cursor a line (R5, R13, R15). -/
def tableFits (c : Settings) (table : RemapTable) : Prop :=
  (∀ i, (entryAt table i).routed?.isSome = true → i < c.spares)
    ∧ ∀ i, ∀ k ∈ (entryAt table i).copy?, fromBlock c.visible k.1 k.2.1 < c.visible + c.spares ∧ k.2.2 ≤ 15

theorem State.tableFits_of_tableLaw {s : State} (h : s.tableLaw) : tableFits s.settings s.remap := by
  obtain ⟨⟨-, sources⟩, ⟨targets, -, copies, -⟩, -, -, used⟩ := h
  have below : ∀ i, i < 64 → entryAt s.remap i ≠ .unused → i < s.settings.spares := fun i hi ne =>
    Nat.lt_of_not_le fun le => ne ((used i hi).mpr le)
  have inside : ∀ i, entryAt s.remap i ≠ .unused → i < 64 := fun i ne =>
    Nat.lt_of_not_le fun le => ne (entryAt_of_le _ le)
  refine ⟨fun i hr => ?_, fun i k hk => ?_⟩
  · have ne : entryAt s.remap i ≠ .unused := by rintro e; simp [e, RemapEntry.routed?] at hr
    exact below i (inside i ne) ne
  · cases he : entryAt s.remap i with
    | copying source copyFrom cursor origin =>
      obtain rfl : (source, copyFrom, cursor) = k := by simpa [he, RemapEntry.copy?] using hk
      have hi := inside i (by simp [he])
      obtain ⟨work, hw, rfl⟩ := (targets i hi).mp (by simp [he, RemapEntry.isCopying])
      obtain ⟨-, k', hk', line, partners⟩ := copies work hw
      obtain rfl : (source, copyFrom, cursor) = k' := by simpa [he, RemapEntry.copy?] using hk'
      refine ⟨?_, line⟩
      cases copyFrom with
      | source =>
        have := sources _ hi source (by simp [he, RemapEntry.source?])
        simp only [fromBlock]
        omega
      | leaving j =>
        obtain ⟨hj, leaving, -⟩ := partners j rfl
        have := below j hj (by rintro e; simp [e, RemapEntry.isLeaving] at leaving)
        simp only [fromBlock]
        omega
    | unused | free | active _ _ | leaving _ _ | retired _ => simp [he, RemapEntry.copy?] at hk

section
variable {c : Settings} {table : RemapTable}

theorem tableFits.active (h : tableFits c table) {i source : Nat} {origin : Origin}
    (he : entryAt table i = .active source origin) : c.visible + i < c.visible + c.spares :=
  Nat.add_lt_add_left (h.1 i (by simp [he, RemapEntry.routed?])) _

theorem tableFits.copying (h : tableFits c table) {i source cursor : Nat} {copyFrom : CopyFrom} {origin : Origin}
    (he : entryAt table i = .copying source copyFrom cursor origin) :
    fromBlock c.visible source copyFrom < c.visible + c.spares ∧ c.visible + i < c.visible + c.spares ∧ cursor ≤ 15 := by
  obtain ⟨from_fits, line⟩ := h.2 i (source, copyFrom, cursor) (by simp [he, RemapEntry.copy?])
  exact ⟨from_fits, Nat.add_lt_add_left (h.1 i (by simp [he, RemapEntry.routed?])) _, line⟩

/-- A read of a visible block goes to a block of the two areas (R5, R20). -/
theorem tableFits.readRoute_lt (h : tableFits c table) {b : Nat} (hb : b < c.visible) (l : Nat) :
    readRoute c.visible table b l < c.visible + c.spares := by
  unfold readRoute
  split
  · omega
  · split
    · rename_i he
      split
      · exact (h.copying he).2.1
      · exact (h.copying he).1
    · rename_i he
      exact h.active he
    all_goals omega

/-- Both accesses of a store to a visible block go to blocks of the two areas (R5, R21). -/
theorem tableFits.storeRoute_lt (h : tableFits c table) {b : Nat} (hb : b < c.visible) (l : Nat) :
    (storeRoute c.visible table b l).1 < c.visible + c.spares
      ∧ ∀ target ∈ (storeRoute c.visible table b l).2, target < c.visible + c.spares := by
  unfold storeRoute
  split
  · exact ⟨by dsimp only; omega, by simp⟩
  · split
    · rename_i he
      obtain ⟨from_fits, target_fits, -⟩ := h.copying he
      split
      · exact ⟨from_fits, by simpa using target_fits⟩
      · exact ⟨from_fits, by simp⟩
    · rename_i he
      exact ⟨h.active he, by simp⟩
    all_goals exact ⟨by dsimp only; omega, by simp⟩

end

/-! ## The words a transaction and its runs name -/

theorem partialSpan_some {words : List WriteWord} {first last : Nat} (h : partialSpan words = some (first, last)) :
    first ≤ last ∧ last < words.length := by
  unfold partialSpan at h
  split at h
  · rename_i i back hi hback
    obtain ⟨rfl, rfl⟩ : i = first ∧ words.length - 1 - back = last := by simpa using h
    obtain ⟨hlt, -, before⟩ := List.findIdx?_eq_some_iff_getElem.mp hi
    obtain ⟨hb, found, -⟩ := List.findIdx?_eq_some_iff_getElem.mp hback
    rw [List.length_reverse] at hb
    rw [List.getElem_reverse] at found
    refine ⟨Nat.le_of_not_lt fun lt => ?_, by omega⟩
    exact before _ lt found
  · simp at h

/-- The runs of a line's words lie among them (R84). -/
theorem storeRuns_mem {first : Nat} {words : List (Option StoredWord)} {run : StoreRun} (h : run ∈ storeRuns first words) :
    1 ≤ run.forms.length ∧ first ≤ run.first ∧ run.first + run.forms.length ≤ first + words.length := by
  induction words generalizing first run with
  | nil => simp [storeRuns] at h
  | cons word rest ih =>
    cases word with
    | none =>
      have := ih (show run ∈ storeRuns (first + 1) rest from h)
      simp only [List.length_cons]
      omega
    | some form =>
      have behind : ∀ r ∈ storeRuns (first + 1) rest, 1 ≤ r.forms.length ∧ first ≤ r.first
          ∧ r.first + r.forms.length ≤ first + (some form :: rest).length := by
        intro r hr
        have := ih hr
        simp only [List.length_cons]
        omega
      unfold storeRuns at h
      split at h
      · rename_i run' _ he
        rcases List.mem_cons.mp h with rfl | hr
        · have := behind run' (by simp [he])
          have := ih (first := first + 1) (run := run') (by simp [he])
          simp only [List.length_cons] at *
          omega
        · exact behind run (by simp [he, hr])
      · rcases List.mem_cons.mp h with rfl | hr
        · simp
        · exact behind run hr

/-- A transaction of a fitting shape names at least one word, and words of one line (R9). -/
theorem shapeOk_iff {t : Transaction} : shapeOk t = true ↔
    1 ≤ statedLength t ∧ statedLength t ≤ 16 ∧ firstAddress t % 16 + statedLength t ≤ 16
      ∧ ∀ a n words, t = .write a n words → words.length = n := by
  simp only [shapeOk, Bool.and_eq_true, decide_eq_true_eq, and_assoc]
  cases t <;> simp [listMatches, wordOf]

theorem blockOf_lt_of_inRange {c : Settings} {t : Transaction} (h : inRange c t = true) :
    blockOf (firstAddress t) < c.visible := by
  have : firstAddress t < c.visible * 256 := by simpa [inRange] using h
  unfold blockOf
  omega

theorem lineOf_le (a : Nat) : lineOf a ≤ 15 := by unfold lineOf; omega

/-! ## The grant -/

/-- The transaction of a phase that needs an access has a fitting shape (R9). -/
def State.shapesFit (s : State) : Prop :=
  s.upstream.progress.needsAccess = true → ∀ t ∈ s.current, shapeOk t = true

/-- The upstream port's and the scrubber's requests are for lines that exist (R9, R123). -/
def State.requestsFit (s : State) : Prop :=
  s.shapesFit ∧ (s.scrubber.state = .due → s.scrubber.block < s.settings.visible ∧ s.scrubber.line ≤ 15)

/-- Every place kept is in the two areas, and so is every place a request or a route names. -/
structure State.Placed (s : State) : Prop where
  places : s.placeLaw
  table : tableFits s.settings s.remap
  requests : s.requestsFit

theorem State.requestsFit_of_trafficLaw {s : State} (h : s.trafficLaw) : s.requestsFit := by
  obtain ⟨⟨-, -, -, -, serves⟩, -, -, -, -, due, -, -, line, block, visible⟩ := h
  refine ⟨fun needs t ht => ?_, fun hd => ⟨?_, line⟩⟩
  · obtain ⟨held, hh, -, shape⟩ := serves needs
    have : held.transaction = t := by simpa [State.current, Option.mem_def.mp hh] using ht
    exact this ▸ shape
  · have online : s.mode = .online := by
      have := due hd
      simp only [State.timerMayRun, Bool.and_eq_true, beq_iff_eq] at this
      obtain ⟨⟨online, -⟩, -⟩ := this
      exact online
    have := visible (by simp [online])
    omega

theorem State.Placed.of_laws {s : State} (places : s.placeLaw) (table : s.tableLaw) (traffic : s.trafficLaw) : s.Placed :=
  ⟨places, State.tableFits_of_tableLaw table, State.requestsFit_of_trafficLaw traffic⟩

/-- An access issued for a fitting run keeps the law of the places. -/
theorem State.issue_placeLaw {s : State} (h : s.placeLaw) {p : Purpose} {block line first count : Nat}
    {ws : List StoredWord} (fits : runFits s.settings block line first count)
    (words : p.isWrite = true → ws.length = count) (copy : p = .copyRead → count = 16)
    (fetch : p = .fetch → ∀ t ∈ s.current, count = statedLength t) :
    (s.issue p block line first count ws).placeLaw := by
  obtain ⟨entries, work, -, range, -, -, buffer, spares⟩ := h
  have kept : ∀ e ∈ (s.issue p block line first count ws).writeBack.entries, e ∈ s.writeBack.entries := by
    intro e he
    unfold State.issue at he
    dsimp only at he
    split at he
    · exact (List.mem_filter.mp he).1
    · exact he
  have issued : ∀ a ∈ (s.issue p block line first count ws).port.outstanding,
      a.purpose = p ∧ a.block = block ∧ a.line = line ∧ a.first = first ∧ a.count = count ∧ a.words = ws := by
    intro a ha
    unfold State.issue at ha
    dsimp only at ha
    split at ha <;> cases ha <;> simp
  have current : (s.issue p block line first count ws).current = s.current := by simp [State.current]
  refine ⟨?_, ?_, ?_, ?_, ?_, ?_, ?_, ?_⟩
  · simpa using fun e he => entries e (kept e he)
  · simpa using work
  · intro a ha _
    obtain ⟨rfl, rfl, rfl, rfl, rfl, rfl⟩ := issued a ha
    simpa using ⟨fits, words⟩
  · simpa [current] using range
  · intro a ha hp
    obtain ⟨rfl, -, -, -, rfl, -⟩ := issued a ha
    exact copy hp
  · intro a ha _ hp
    obtain ⟨rfl, -, -, -, rfl, -⟩ := issued a ha
    simpa [current] using fetch hp
  · simpa using buffer
  · simpa using spares

theorem State.applyInjection_length (s : State) (a : Nat) (forms : List StoredWord) :
    (s.applyInjection a forms).2.length = forms.length := by
  unfold State.applyInjection
  split
  · rfl
  · split <;> simp [injectRun]

theorem State.applyInjection_within (s : State) (a : Nat) (forms : List StoredWord) :
    (s.applyInjection a forms).1.Within s :=
  .of_same (by simp) (by simp) (by simp) (by simp) (by simp) (by simp)

theorem State.markOvertaken_within (s : State) (block line : Nat) : (s.markOvertaken block line).Within s := by
  unfold State.markOvertaken
  split
  · rename_i work hw
    split
    · split
      · exact .of_engine rfl rfl rfl rfl (by rw [hw]; exact .copying rfl)
      · exact .refl s
    all_goals exact .refl s
  all_goals exact .refl s

theorem State.countPassOver_within (s : State) (busy : List Requester) (r : Requester) :
    (s.countPassOver busy r).Within s := .of_same rfl rfl rfl rfl rfl rfl

/-- A pending dual spare write to a spare that exists, for the run at hand, is a place in the two areas (R22). -/
theorem State.setDual_placeLaw {s : State} (h : s.placeLaw) {work : StoreWork} {run : StoreRun} {rest : List StoreRun}
    (hp : s.upstream.progress = .store work) (hr : work.runs = run :: rest) {dual : DualWrite}
    (block : dual.block < s.settings.visible + s.settings.spares) (forms : dual.forms.length = run.forms.length) :
    (s.setProgress (.store { work with dual := some dual })).placeLaw := by
  obtain ⟨entries, kept, access, range, copy, fetch, buffer, spares⟩ := h
  obtain ⟨runs, -⟩ := kept work (by simp [hp, Progress.store?])
  refine ⟨entries, fun w hw => ?_, access, fun _ => range (by simp [hp, Progress.needsAccess]), copy, fetch, buffer, spares⟩
  obtain rfl : { work with dual := some dual } = w := by simpa [Progress.store?] using hw
  refine ⟨runs, fun d hd => ?_⟩
  obtain rfl : dual = d := by simpa using hd
  exact ⟨block, run, by simp [hr], forms⟩

section
variable {s : State}

/-- The place of the access that stores the present run, or of the first of its two (R21, R22, R99). -/
theorem State.Placed.grantRun (h : s.Placed) {t : Transaction} {work : StoreWork} {run : StoreRun} {rest : List StoreRun}
    (hp : s.upstream.progress = .store work) (hc : s.current = some t) (hr : work.runs = run :: rest) :
    (s.grantRun (firstAddress t) work run).placeLaw := by
  obtain ⟨-, kept, -, range, -⟩ := h.places
  obtain ⟨x, hx, inside⟩ := range (by simp [hp, Progress.needsAccess])
  obtain rfl : t = x := by simpa [hc] using hx
  obtain ⟨runs, -⟩ := kept work (by simp [hp, Progress.store?])
  obtain ⟨filled, one_line⟩ := runs run (by simp [hr])
  obtain ⟨first_fits, target_fits⟩ := h.table.storeRoute_lt (blockOf_lt_of_inRange inside) (lineOf (firstAddress t))
  have length := s.applyInjection_length (256 * blockOf (firstAddress t) + 16 * lineOf (firstAddress t) + run.first) run.forms
  have marked : ∀ u : State, u.Within s → (u.markOvertaken (blockOf (firstAddress t)) (lineOf (firstAddress t))).placeLaw :=
    fun u w => State.placeLaw_of_within ((State.markOvertaken_within _ _ _).trans w) h.places
  have place := marked _ (s.applyInjection_within (256 * blockOf (firstAddress t) + 16 * lineOf (firstAddress t) + run.first) run.forms)
  have line := lineOf_le (firstAddress t)
  unfold State.grantRun
  dsimp only
  split
  · refine State.issue_placeLaw place ?_ (fun _ => rfl) (by simp) (by simp)
    simp only [State.markOvertaken_settings, State.applyInjection_settings, length]
    exact ⟨first_fits, line, filled, one_line⟩
  · rename_i target ht
    refine State.issue_placeLaw (State.setDual_placeLaw place (by simpa using hp) hr ?_ length) ?_ (fun _ => rfl) (by simp)
      (by simp)
    · simpa using target_fits target ht
    · simp only [State.setProgress_settings, State.markOvertaken_settings, State.applyInjection_settings, length]
      exact ⟨first_fits, line, filled, one_line⟩

theorem State.Placed.grantUpstream (h : s.Placed) : s.grantUpstream.placeLaw := by
  obtain ⟨-, kept, -, range, -⟩ := h.places
  have fits : ∀ t, s.upstream.progress.needsAccess = true → s.current = some t →
      shapeOk t = true ∧ blockOf (firstAddress t) < s.settings.visible := by
    intro t needs hc
    obtain ⟨x, hx, inside⟩ := range needs
    obtain rfl : t = x := by simpa [hc] using hx
    exact ⟨h.requests.1 needs t hc, blockOf_lt_of_inRange inside⟩
  unfold State.grantUpstream
  split
  · rename_i t hp hc
    obtain ⟨shape, block⟩ := fits t (by simp [hp, Progress.needsAccess]) hc
    obtain ⟨filled, -, one_line, -⟩ := shapeOk_iff.mp shape
    refine State.issue_placeLaw h.places ⟨h.table.readRoute_lt block _, lineOf_le _, filled, one_line⟩ (by simp [Purpose.isWrite])
      (by simp) fun _ x hx => ?_
    obtain rfl : t = x := by simpa [hc] using hx
    rfl
  · rename_i a n words hp hc
    obtain ⟨shape, block⟩ := fits _ (by simp [hp, Progress.needsAccess]) hc
    obtain ⟨-, -, one_line, list⟩ := shapeOk_iff.mp shape
    have := list a n words rfl
    simp only [firstAddress, statedLength] at one_line block
    split
    · rename_i first last span
      obtain ⟨order, inside⟩ := partialSpan_some span
      refine State.issue_placeLaw h.places ⟨h.table.readRoute_lt block _, lineOf_le _, by omega, ?_⟩ (by simp [Purpose.isWrite])
        (by simp) (by simp)
      unfold wordOf
      omega
    · exact h.places
  · rename_i work t hp hc
    obtain ⟨runs, duals⟩ := kept work (by simp [hp, Progress.store?])
    split
    · rename_i run rest hr _
      exact h.grantRun hp hc hr
    · rename_i run rest dual hr hd
      obtain ⟨block, run', hr', length⟩ := duals dual hd
      obtain rfl : run = run' := by simpa [hr] using hr'
      obtain ⟨filled, one_line⟩ := runs run (by simp [hr])
      exact State.issue_placeLaw h.places ⟨block, lineOf_le _, by omega, by omega⟩ (fun _ => rfl) (by simp) (by simp)
    · exact h.places
  · exact h.places

theorem State.Placed.grantWriteBack (h : s.Placed) : s.grantWriteBack.placeLaw := by
  unfold State.grantWriteBack
  split
  · exact h.places
  · rename_i e rest he
    exact State.issue_placeLaw h.places (h.places.1 e (by simp [he])) (fun _ => rfl) (by simp) (by simp)

theorem State.Placed.grantMigration (h : s.Placed) : s.grantMigration.placeLaw := by
  unfold State.grantMigration
  split
  · rename_i work hw
    unfold State.grantCopy
    split
    · rename_i he
      obtain ⟨from_fits, target_fits, line⟩ := h.table.copying he
      split
      · rename_i hphase
        refine State.issue_placeLaw (State.placeLaw_of_within (s := s) ?_ h.places) ⟨from_fits, line, by omega, by omega⟩
          (by simp [Purpose.isWrite]) (fun _ => rfl) (by simp)
        exact .of_engine rfl rfl rfl rfl (by rw [hw]; exact .copying rfl)
      · rename_i buffer hphase
        obtain ⟨-, -, -, -, -, -, full, -⟩ := h.places
        exact State.issue_placeLaw h.places ⟨target_fits, line, by omega, by omega⟩
          (fun _ => full work (by simp [hw, Engine.work?]) buffer (by simp [hphase, LinePhase.buffer?])) (by simp) (by simp)
    all_goals exact h.places
  all_goals exact h.places

theorem State.Placed.grantScrub (h : s.Placed) (due : s.scrubber.state = .due) : s.grantScrub.placeLaw := by
  obtain ⟨block, line⟩ := h.requests.2 due
  have pending : State.placeLaw { s with scrubber := { s.scrubber with state := .pending } } :=
    State.placeLaw_of_within (s := s) (.of_same rfl rfl rfl rfl rfl rfl) h.places
  exact State.issue_placeLaw pending ⟨h.table.readRoute_lt block _, line, by omega, by omega⟩ (by simp [Purpose.isWrite])
    (by simp) (by simp)

/-- Every grant issues its access to a place in the two areas (R5, R107). -/
theorem State.Placed.grant (h : s.Placed) (busy : List Requester) : (s.grant busy).placeLaw := by
  unfold State.grant
  split
  · rename_i r _ chosen
    have counted : (s.countPassOver busy r).Placed :=
      ⟨State.placeLaw_of_within (s.countPassOver_within busy r) h.places, by simpa using h.table,
        by simpa [State.requestsFit, State.shapesFit, State.current] using h.requests⟩
    cases r with
    | upstream => exact counted.grantUpstream
    | writeBack => exact counted.grantWriteBack
    | migration => exact counted.grantMigration
    | scrub =>
      have due : s.scrubber.state = .due := by
        have := (State.choose_some chosen).2
        simp only [State.waiting, Bool.and_eq_true, beq_iff_eq] at this
        exact this.2
      exact counted.grantScrub (by simpa using due)
  · exact h.places

end

/-! ## The end of an access that ended OK -/

/-- A phase entered with fitting runs, no spare write pending, and a transaction in range if it needs an access. -/
theorem State.setProgress_placeLaw {s : State} (h : s.placeLaw) {p : Progress}
    (work : ∀ w ∈ p.store?, w.dual = none ∧ ∀ run ∈ w.runs, 1 ≤ run.forms.length ∧ run.first + run.forms.length ≤ 16)
    (range : p.needsAccess = true → ∃ t ∈ s.current, inRange s.settings t = true) : (s.setProgress p).placeLaw := by
  obtain ⟨entries, -, access, -, copy, fetch, buffer, spares⟩ := h
  refine ⟨entries, fun w hw => ?_, access, range, copy, fetch, buffer, spares⟩
  obtain ⟨single, runs⟩ := work w hw
  exact ⟨runs, by simp [single]⟩

/-- The STORE phase of a WRITE of fitting shape holds runs of one line (R9, R84). -/
theorem State.enterStore_placeLaw {s : State} (h : s.placeLaw) {a n : Nat} {words : List WriteWord}
    (hc : s.current = some (.write a n words)) (shape : shapeOk (.write a n words) = true)
    (inside : inRange s.settings (.write a n words) = true) (start : Nat) (fetched : List StoredWord) :
    (s.enterStore a start fetched words).placeLaw := by
  refine State.setProgress_placeLaw h (fun w hw => ?_) fun _ => ⟨_, hc, inside⟩
  obtain rfl := Option.some.inj hw
  refine ⟨rfl, fun run hr => ?_⟩
  obtain ⟨filled, -, last⟩ := storeRuns_mem hr
  obtain ⟨-, -, one_line, list⟩ := shapeOk_iff.mp shape
  have length : words.length = n := list a n words rfl
  simp only [List.length_map, planWords, List.length_zipIdx, length] at last
  simp only [firstAddress, statedLength] at one_line
  simp only [wordOf] at last
  exact ⟨filled, by omega⟩

/-- The end OK of an access of the upstream port: a fetch offers words of its line, a merge read leaves the runs of its WRITE (R95
to R98). -/
theorem State.endUpstream_ok_placeLaw {s : State} (h : s.placeLaw) (shapes : s.shapesFit) {block : Nat}
    (hb : block < s.settings.visible + s.settings.spares) {words : List StoredWord}
    (fetched : s.upstream.progress = .fetch → ∀ t ∈ s.current, words.length ≤ statedLength t) (spare : Bool) :
    (s.endUpstream spare block (.ok words)).placeLaw := by
  have ⟨_, _, _, range, _⟩ := h
  unfold State.endUpstream
  split
  · rename_i t hp hc
    obtain ⟨-, -, one_line, -⟩ := shapeOk_iff.mp (shapes (by simp [hp, Progress.needsAccess]) t hc)
    have short := fetched hp t hc
    refine State.placeLaw_of_within (State.answer_within _ _) (State.takeWords_placeLaw h hb (lineOf_le _) ?_ false)
    unfold wordOf
    omega
  · rename_i a n list hp hc
    have needs : s.upstream.progress.needsAccess = true := by simp [hp, Progress.needsAccess]
    obtain ⟨t, ht, inside⟩ := range needs
    obtain rfl : .write a n list = t := by simpa [hc] using ht
    exact State.enterStore_placeLaw (State.placeLaw_of_within (State.takeWords_within rfl s _ _ _) h)
      (by simpa [State.current] using hc) (shapes needs _ hc) (by simpa using inside) _ _
  · rename_i work t hp _
    exact State.placeLaw_of_within (State.endStore_within hp t spare _) h
  · exact h

/-- The end OK of a copy read fills the line buffer (R42, R43). -/
theorem State.endCopyRead_ok_placeLaw {s : State} (h : s.placeLaw) {words : List StoredWord} (full : words.length = 16)
    (block line : Nat) : (s.endCopyRead block line (.ok words)).placeLaw := by
  have ⟨entries, work, access, range, copy, fetch, _, spares⟩ := h
  unfold State.endCopyRead
  split
  · rename_i same
    obtain rfl := Ending.ok.inj same
    refine State.placeLaw_of_within (State.takeWords_within rfl _ _ _ _)
      ⟨entries, work, access, range, copy, fetch, fun w hw buffer hb => ?_, spares⟩
    cases hw
    cases hb
    simpa using full
  · contradiction
  all_goals exact h

/-- What the end OK of an access takes: the words of its run, unless it is a WRITE_RUN's. -/
structure State.Takes (s : State) (a : Access) (words : List StoredWord) : Prop where
  block : a.block < s.settings.visible + s.settings.spares
  line : a.line ≤ 15
  fetched : a.purpose.requester = .upstream → s.upstream.progress = .fetch → ∀ t ∈ s.current, words.length ≤ statedLength t
  copied : a.purpose = .copyRead → words.length = 16
  scrubbed : a.purpose = .scrubRead → words.length ≤ 16

theorem State.hand_ok_placeLaw {s : State} (h : s.placeLaw) (shapes : s.shapesFit) {a : Access} {words : List StoredWord}
    (takes : a.discarded = false → s.Takes a words) : (s.hand a (.ok words)).placeLaw := by
  unfold State.hand
  split
  · exact h
  · rename_i taken
    obtain ⟨block, line, fetched, copied, scrubbed⟩ := takes (by simpa using taken)
    split
    iterate 5
      rename_i hp
      exact State.endUpstream_ok_placeLaw h shapes block (fetched (by rw [hp]; rfl)) _
    · rename_i hp
      exact State.endCopyRead_ok_placeLaw h (copied hp) _ _
    · exact State.placeLaw_of_within (State.endCopyWrite_within _ _ _) h
    · rename_i hp
      have := scrubbed hp
      refine State.placeLaw_of_within (State.Within.trans (t := State.advanceScrub _) (.of_same rfl rfl rfl rfl rfl rfl)
        (State.advanceScrub_within _)) (State.takeWords_placeLaw h block line ?_ false)
      omega
    · exact State.placeLaw_of_within (State.endWriteBack_within _ _) h

/-- A grant leaves the phase of the upstream port, but for the pending spare write of a STORE phase. -/
theorem State.grant_progress (s : State) (busy : List Requester) :
    (s.grant busy).upstream.held = s.upstream.held
      ∧ ((s.grant busy).upstream.progress = s.upstream.progress
        ∨ ∃ v w, s.upstream.progress = .store v ∧ (s.grant busy).upstream.progress = .store w) := by
  have same : ∀ t : State, t.upstream = s.upstream → t.upstream.held = s.upstream.held
      ∧ (t.upstream.progress = s.upstream.progress
        ∨ ∃ v w, s.upstream.progress = .store v ∧ t.upstream.progress = .store w) := fun t h => by simp [h]
  unfold State.grant
  split
  · rename_i r _ _
    cases r with
    | upstream =>
      dsimp only
      unfold State.grantUpstream
      split
      · exact same _ (by simp)
      · split <;> exact same _ (by simp)
      · rename_i work t hp _
        split
        · unfold State.grantRun
          dsimp only
          split
          · exact same _ (by simp)
          · exact ⟨by simp, .inr ⟨work, _, by simpa using hp, by simp; rfl⟩⟩
        · exact same _ (by simp)
        · exact same _ (by simp)
      · exact same _ (by simp)
    | writeBack => exact same _ (by simp)
    | migration => exact same _ (by simp)
    | scrub => exact same _ (by simp)
  · exact same s rfl

theorem State.grantIfFirst_progress (s : State) (first : Bool) (a : Access) (failed : Bool) :
    (s.grantIfFirst first a failed).upstream.held = s.upstream.held
      ∧ ((s.grantIfFirst first a failed).upstream.progress = s.upstream.progress
        ∨ ∃ v w, s.upstream.progress = .store v ∧ (s.grantIfFirst first a failed).upstream.progress = .store w) := by
  unfold State.grantIfFirst
  split
  · exact s.grant_progress _
  · exact ⟨rfl, .inl rfl⟩

theorem State.Placed.grantIfFirst {s : State} (h : s.Placed) (first : Bool) (a : Access) (failed : Bool) :
    (s.grantIfFirst first a failed).placeLaw := by
  unfold State.grantIfFirst
  split
  · exact h.grant _
  · exact h.places

theorem State.shapesFit_grantIfFirst {s : State} (h : s.shapesFit) (first : Bool) (a : Access) (failed : Bool) :
    (s.grantIfFirst first a failed).shapesFit := by
  obtain ⟨held, progress⟩ := s.grantIfFirst_progress first a failed
  intro needs t ht
  rw [State.current, held] at ht
  refine h ?_ t ht
  rcases progress with same | ⟨v, w, hv, -⟩
  · rwa [same] at needs
  · simp [hv, Progress.needsAccess]

/-- A response OK hands the requester as many words as its run has (R107, R111). -/
theorem State.receive_length (s : State) (a : Access) (words : List StoredWord) :
    (s.receive a words).2.length = a.count := by
  simp only [State.receive, List.length_append, List.length_take, List.length_map, List.length_range]
  omega

/-! ## The accesses a state calls for -/

theorem Progress.needsAccess_of_store? {p : Progress} {f : StoreWork → Bool} (h : p.store?.any f = true) :
    p.needsAccess = true := by
  cases p with
  | store work => rfl
  | idle | fetch | mergeRead | answer _ => simp [Progress.store?] at h

section
variable {s : State} {a : Access} (called : s.calledFor a = true)
include called

/-- An access of the upstream port is called for by a phase that needs one. -/
theorem State.needsAccess_of_calledFor (hr : a.purpose.requester = .upstream) : s.upstream.progress.needsAccess = true := by
  unfold State.calledFor at called
  cases hp : a.purpose with
  | fetch | mergeRead =>
    rw [hp] at called
    rw [eq_of_beq called]
    rfl
  | storeSingle | storeFirst | storeSpare =>
    rw [hp] at called
    exact Progress.needsAccess_of_store? called
  | copyRead | copyWrite | scrubRead | writeBack => simp [hp, Purpose.requester] at hr

/-- In FETCH the upstream port's access is the fetch. -/
theorem State.fetch_of_calledFor (hr : a.purpose.requester = .upstream) (fetch : s.upstream.progress = .fetch) :
    a.purpose = .fetch := by
  unfold State.calledFor at called
  cases hp : a.purpose with
  | fetch => rfl
  | mergeRead | storeSingle | storeFirst | storeSpare => simp [hp, fetch, Progress.store?] at called
  | copyRead | copyWrite | scrubRead | writeBack => simp [hp, Purpose.requester] at hr

/-- A copy access is called for by an engine that is COPYING. -/
theorem State.copying_of_calledFor (hr : a.purpose.requester = .migration) : s.migration.engine ≠ .idle := by
  intro idle
  unfold State.calledFor at called
  cases hp : a.purpose with
  | copyRead | copyWrite => simp [hp, idle, Engine.work?] at called
  | fetch | mergeRead | storeSingle | storeFirst | storeSpare | scrubRead | writeBack => simp [hp, Purpose.requester] at hr

/-- A scrub read is called for by a PENDING scrub. -/
theorem State.pending_of_calledFor (hr : a.purpose.requester = .scrub) : s.scrubber.state = .pending := by
  unfold State.calledFor at called
  cases hp : a.purpose with
  | scrubRead =>
    rw [hp] at called
    exact eq_of_beq called
  | fetch | mergeRead | storeSingle | storeFirst | storeSpare | copyRead | copyWrite | writeBack =>
    simp [hp, Purpose.requester] at hr

end

/-! ## Responses and expiries -/

theorem State.freeSlot_within (s : State) : s.freeSlot.Within s :=
  ⟨rfl, rfl, fun _ h => h, rfl, .refl _, by simp [State.freeSlot], .refl _⟩

/-- A change outside the table, the phases and the scrubber leaves routes and requests as they were. -/
theorem State.Placed.of_within {t s : State} (h : s.Placed) (w : t.Within s) (settings : t.settings = s.settings)
    (remap : t.remap = s.remap) (upstream : t.upstream = s.upstream)
    (scrubber : t.scrubber.state = .due → t.scrubber = s.scrubber) : t.Placed where
  places := State.placeLaw_of_within w h.places
  table := by rw [settings, remap]; exact h.table
  requests := by
    obtain ⟨shapes, due⟩ := h.requests
    refine ⟨by rw [State.shapesFit, State.current, upstream]; exact shapes, fun hd => ?_⟩
    rw [settings, scrubber hd]
    exact due (scrubber hd ▸ hd)

/-- The end of an access by a response leaves every kept place in the two areas. -/
theorem State.Placed.answerAccess {s : State} (h : s.Placed) (access : s.accessLaw) {a : Access}
    (ha : s.port.outstanding = some a) (result : MemResult) (words : List StoredWord) (first : Bool) :
    (s.answerAccess a result words first).placeLaw := by
  have freed : s.freeSlot.Placed := h.of_within s.freeSlot_within rfl rfl rfl fun _ => rfl
  unfold State.answerAccess
  split
  · refine State.placeLaw_of_within (State.settle_within _) ?_
    have granted := freed.grantIfFirst first a false
    have shapes := State.shapesFit_grantIfFirst freed.requests.1 first a false
    obtain ⟨held, progress⟩ := s.freeSlot.grantIfFirst_progress first a false
    have settings : (s.freeSlot.grantIfFirst first a false).settings = s.settings := by simp
    obtain ⟨-, -, runs, -, copies, fetches, -⟩ := h.places
    generalize s.freeSlot.grantIfFirst first a false = u at *
    unfold State.handOk
    split
    · rename_i quiet
      refine State.hand_ok_placeLaw granted shapes fun taken => ?_
      obtain ⟨⟨block, line, -⟩, -⟩ := runs a ha taken
      rw [← settings] at block
      have write : a.purpose.isWrite = true := by simpa [taken] using quiet
      refine ⟨block, line, by simp, fun hp => ?_, by simp⟩
      simp [hp, Purpose.isWrite] at write
    · have received : (u.receive a words).1.placeLaw :=
        State.placeLaw_of_within (s := u) (.of_same rfl rfl rfl rfl rfl rfl) granted
      refine State.hand_ok_placeLaw received shapes fun taken => ?_
      obtain ⟨⟨block, line, -, one_line⟩, -⟩ := runs a ha taken
      rw [← settings] at block
      have length := u.receive_length a words
      refine ⟨by simpa using block, line, fun hr hp t ht => ?_, fun hp => by rw [length]; exact copies a ha hp, fun _ => by omega⟩
      have before : s.upstream.progress = .fetch := by
        rcases progress with same | ⟨v, w, -, hw⟩
        · exact same.symm.trans hp
        · simp [hw] at hp
      have fetch : a.purpose = .fetch := State.fetch_of_calledFor (access a ha taken) hr before
      rw [length]
      exact (fetches a ha taken fetch t (by simpa [State.current, held] using ht)).le
  · have recorded : (s.freeSlot.makeRecord (linkRecord s.settings .linkFault a)).Placed :=
      freed.of_within (State.makeRecord_within _ _) rfl rfl rfl fun _ => rfl
    exact State.placeLaw_of_within ((State.settle_within _).trans (State.hand_failed_within _ a))
      (recorded.grantIfFirst first a true)

theorem State.linkGoesDown_within (s : State) : s.linkGoesDown.Within s := .of_same rfl rfl rfl rfl rfl rfl

theorem State.linkGoesDown_notDue (s : State) : s.linkGoesDown.scrubber.state ≠ .due := by
  cases h : s.scrubber.state <;> simp [State.linkGoesDown, h]

theorem State.Placed.expireResponse {s : State} (h : s.Placed) (first : Bool) : (s.expireResponse first).placeLaw := by
  unfold State.expireResponse
  split
  · exact h.places
  · rename_i a _
    dsimp only
    refine State.placeLaw_of_within ((State.settle_within _).trans (State.hand_failed_within _ a)) ?_
    have abandoned : State.Placed (State.makeRecord
        { s.freeSlot with port := { s.freeSlot.port with abandoned := s.freeSlot.port.abandoned ++ [a.tag] } }
        (linkRecord s.settings .linkTimeout a)) :=
      h.of_within (.trans (t := s.freeSlot) (.of_same rfl rfl rfl rfl rfl rfl) s.freeSlot_within) rfl rfl rfl fun _ => rfl
    refine State.Placed.grantIfFirst ?_ first a true
    split
    · exact abandoned.of_within (State.linkGoesDown_within _) rfl rfl rfl fun due => absurd due (State.linkGoesDown_notDue _)
    · exact abandoned

theorem State.strayResponse_within (s : State) (tag : Tag) : (s.strayResponse tag).Within s := by
  unfold State.strayResponse
  split
  · exact .of_same rfl rfl rfl rfl rfl rfl
  · exact s.makeRecord_within _

theorem State.Placed.takeResponse {s : State} (h : s.Placed) (access : s.accessLaw) (tag : Tag) (result : MemResult)
    (words : List StoredWord) (first : Bool) : (s.takeResponse tag result words first).placeLaw := by
  unfold State.takeResponse
  split
  · rename_i a ha
    split
    · exact h.answerAccess access ha result words first
    · exact State.placeLaw_of_within (s.strayResponse_within tag) h.places
  · exact State.placeLaw_of_within (s.strayResponse_within tag) h.places

theorem State.Placed.checkResponseTimer {s : State} (h : s.Placed) : s.checkResponseTimer.placeLaw := by
  unfold State.checkResponseTimer
  split
  · split
    · exact h.expireResponse false
    · exact h.places
  · exact h.places

theorem State.passMicrosecond_within (s : State) : s.passMicrosecond.Within s := by
  refine ⟨rfl, rfl, fun _ h => h, rfl, .refl _, fun a ha => ?_, .refl _⟩
  obtain ⟨b, hb, rfl⟩ := Option.map_eq_some_iff.mp ha
  exact ⟨b, hb, rfl, rfl, rfl, rfl, rfl, rfl, id⟩

theorem State.Placed.tick {s : State} (h : s.Placed) : s.tick.placeLaw := by
  have passed : s.passMicrosecond.Placed := by
    refine ⟨State.placeLaw_of_within s.passMicrosecond_within h.places, h.table, h.requests⟩
  exact State.placeLaw_of_within (State.checkIntervalTimer_within _) passed.checkResponseTimer

/-! ## The head of the acceptance queue -/

/-- With no phase that needs an access, the acceptance queue may change: no fetch is outstanding whose result will be taken. -/
theorem State.requeue_placeLaw {s : State} (h : s.placeLaw) (access : s.accessLaw)
    (quiet : s.upstream.progress.needsAccess = false) (held : List Held) :
    State.placeLaw { s with upstream := { s.upstream with held := held } } := by
  obtain ⟨entries, work, runs, -, copy, -, buffer, spares⟩ := h
  refine ⟨entries, work, runs, fun needs => ?_, copy, fun a ha taken hp => ?_, buffer, spares⟩
  · exact absurd needs (by simp [quiet])
  · have needs := State.needsAccess_of_calledFor (access a ha taken) (by rw [hp]; rfl)
    simp [quiet] at needs

/-- R94's checks: a transaction that enters a phase with an access has a fitting shape and is in range. -/
theorem State.beginServed_placeLaw {s : State} (h : s.placeLaw) {t : Transaction} (hc : s.current = some t) :
    (s.beginServed t).placeLaw := by
  have answered : ∀ given, (s.setProgress (.answer given)).placeLaw := fun given =>
    State.placeLaw_of_within (s.answer_within given) h
  unfold State.beginServed
  split
  · exact answered _
  · rename_i shape
    split
    · exact answered _
    · rename_i inside
      rw [Bool.not_eq_false] at shape inside
      split
      · exact State.setProgress_placeLaw h (by simp [Progress.store?]) fun _ => ⟨_, hc, inside⟩
      · split
        · exact answered _
        · split
          · exact State.setProgress_placeLaw h (by simp [Progress.store?]) fun _ => ⟨_, hc, inside⟩
          · exact State.enterStore_placeLaw h hc shape inside _ _

theorem State.beginHead_placeLaw {s : State} (h : s.placeLaw) : s.beginHead.placeLaw := by
  unfold State.beginHead
  split
  · exact State.placeLaw_of_within (State.setProgress_within (.of_quiet _ rfl)) h
  · rename_i head rest hh
    split
    · exact State.placeLaw_of_within (s.answer_within _) h
    · exact State.beginServed_placeLaw h (by simp [State.current, hh])

theorem State.endStopping_within (s : State) : s.endStopping.Within s :=
  .of_same (by simp) (by simp) (by simp) (by simp) (by simp) (by simp)

/-- The laws that a step starts from. -/
structure State.Lawful (s : State) : Prop where
  places : s.placeLaw
  table : s.tableLaw
  traffic : s.trafficLaw

section
variable {s : State}

theorem State.Lawful.placed (h : s.Lawful) : s.Placed := .of_laws h.places h.table h.traffic

theorem State.Lawful.access (h : s.Lawful) : s.accessLaw := by
  obtain ⟨-, -, access, -⟩ := h.traffic
  exact access

/-- The port is idle while it holds no transaction (R92). -/
theorem State.Lawful.idle_of_empty (h : s.Lawful) (empty : s.upstream.held = []) : s.upstream.progress = .idle := by
  obtain ⟨⟨-, idle, -⟩, -⟩ := h.traffic
  exact idle.mpr empty

theorem State.Lawful.accept (h : s.Lawful) (t : Transaction) : (s.accept t).placeLaw := by
  unfold State.accept
  dsimp only
  split
  · rename_i empty
    have idle : s.upstream.progress = .idle := h.idle_of_empty (by simpa using empty)
    exact State.placeLaw_of_within (State.settle_within _)
      (State.beginHead_placeLaw (State.requeue_placeLaw h.places h.access (by simp [idle, Progress.needsAccess]) _))
  · rename_i filled
    have ⟨entries, work, runs, range, copy, fetch, buffer, spares⟩ := h.places
    have current : State.current
        { s with upstream := { s.upstream with
            held := s.upstream.held ++ [{ transaction := t, mark := admissionMark s.mode }] } } = s.current := by
      cases hh : s.upstream.held with
      | nil => simp [hh] at filled
      | cons _ _ => simp [State.current, hh]
    exact ⟨entries, work, runs, by rw [current]; exact range, copy, by rw [current]; exact fetch, buffer, spares⟩

theorem State.Lawful.leaveQueue (h : s.Lawful) (quiet : s.upstream.progress.needsAccess = false) :
    s.leaveQueue.placeLaw :=
  State.placeLaw_of_within (State.settle_within _)
    (State.beginHead_placeLaw (State.placeLaw_of_within (State.endStopping_within _)
      (State.requeue_placeLaw h.places h.access quiet _)))

end

/-! ## Resets -/

theorem State.startOver_placeLaw (s : State) (straps : BitVec 2) : (s.startOver straps).placeLaw := by
  simp [State.placeLaw, State.startOver, State.poweredOn, Progress.store?, Progress.needsAccess, Engine.work?,
    Settings.initial]

theorem State.dropTransactions_placeLaw {s : State} (h : s.placeLaw) : s.dropTransactions.placeLaw := by
  obtain ⟨entries, -, runs, -, copy, -, buffer, spares⟩ :=
    State.placeLaw_of_within (s.discardOutstanding_within .upstream) h
  exact ⟨entries, by simp [State.dropTransactions, Progress.store?], runs,
    by simp [State.dropTransactions, Progress.needsAccess], copy, by simp [State.dropTransactions, State.current], buffer, spares⟩

theorem State.systemReset_within (s : State) : s.systemReset.Within s.dropTransactions := by
  have stopped := State.stopEngine_within s.dropTransactions .reset
  have emptied := (State.emptyWriteBack_within _).trans stopped
  have withdrawn := (State.withdrawScrub_within _).trans ((State.discardOutstanding_within _ .migration).trans emptied)
  refine .trans ?_ ((State.discardOutstanding_within _ .scrub).trans withdrawn)
  exact .of_same rfl rfl rfl rfl rfl rfl

/-! ## The geometry -/

/-- In OFFLINE no place is kept but the write-backs' (R5, R121, R149). -/
theorem State.Lawful.offline {s : State} (h : s.Lawful) (offline : s.mode = .offline) :
    s.upstream.progress.needsAccess = false ∧ s.migration.engine = .idle
      ∧ ∀ a ∈ s.port.outstanding, a.discarded = false → a.purpose = .writeBack := by
  obtain ⟨-, -, -, ⟨online, -⟩, -⟩ := h.table
  obtain ⟨⟨-, -, none_serves, -, serves⟩, -, access, -, -, -, -, pending, -⟩ := h.traffic
  have quiet : s.upstream.progress.needsAccess = false := by
    by_contra needs
    obtain ⟨held, hh, mark, -⟩ := serves (by simpa using needs)
    have : s.holdsServe = true := List.any_eq_true.mpr ⟨held, List.mem_of_mem_head? hh, by simp [mark]⟩
    simp [none_serves offline] at this
  have idle : s.migration.engine = .idle := by
    by_contra active
    simp [offline] at online
    exact active online
  refine ⟨quiet, idle, fun a ha taken => ?_⟩
  have called := access a ha taken
  cases hr : a.purpose.requester with
  | upstream => simp [State.needsAccess_of_calledFor called hr] at quiet
  | migration => exact absurd idle (State.copying_of_calledFor called hr)
  | scrub => simp [pending (State.pending_of_calledFor called hr)] at offline
  | writeBack => cases hp : a.purpose <;> simp_all [Purpose.requester]

theorem State.discardOutstanding_mem {s : State} {r : Requester} {a : Access}
    (h : a ∈ (s.discardOutstanding r).port.outstanding) :
    ∃ b ∈ s.port.outstanding, a.purpose = b.purpose ∧ a.count = b.count
      ∧ (a.discarded = false → b.discarded = false ∧ b.purpose.requester ≠ r) := by
  unfold State.discardOutstanding at h
  split at h
  · rename_i b hb
    split at h
    · cases h
      exact ⟨b, hb, rfl, rfl, by simp⟩
    · rename_i other
      obtain rfl : b = a := by simpa [hb] using h
      exact ⟨b, hb, rfl, rfl, fun taken => ⟨taken, other⟩⟩
  · rename_i empty
    simp [empty] at h

/-- New areas, with the write-back buffer emptied, while nothing else is kept (R121, R151). -/
theorem State.Lawful.resized {s : State} (h : s.Lawful) (offline : s.mode = .offline) (table : RemapTable)
    {c : Settings} (spares : c.spares ≤ 64) : (State.emptyWriteBack { s with remap := table, settings := c }).placeLaw := by
  obtain ⟨quiet, idle, kept⟩ := h.offline offline
  obtain ⟨-, -, -, -, copy, -⟩ := h.places
  have none_taken : ∀ a ∈ (State.emptyWriteBack { s with remap := table, settings := c }).port.outstanding,
      a.discarded = true := by
    intro a ha
    obtain ⟨b, hb, -, -, taken⟩ := State.discardOutstanding_mem ha
    by_contra alive
    obtain ⟨alive', other⟩ := taken (by simpa using alive)
    exact other (by rw [kept b hb alive']; rfl)
  have no_work : ∀ w, s.upstream.progress.store? ≠ some w := by
    intro w hw
    cases hp : s.upstream.progress <;> simp_all [Progress.store?, Progress.needsAccess]
  refine ⟨by simp [State.emptyWriteBack], fun w hw => ?_, fun a ha taken => ?_, fun needs => ?_, fun a ha hp => ?_,
    fun a ha taken => ?_, fun w hw => ?_, by simpa using spares⟩
  · exact absurd (by simpa using hw) (no_work w)
  · simp [none_taken a ha] at taken
  · simp [quiet] at needs
  · obtain ⟨b, hb, purpose, count, -⟩ := State.discardOutstanding_mem ha
    rw [count]
    exact copy b hb (purpose ▸ hp)
  · simp [none_taken a ha] at taken
  · simp [idle, Engine.work?] at hw

theorem State.pruneTables_within (s : State) : s.pruneTables.Within s :=
  .of_same (by simp) (by simp) (by simp) (by simp) (by simp) (by simp)

theorem State.respond_within (s : State) (status : Status) (payload : List Byte) : (s.respond status payload).Within s :=
  .of_same rfl rfl rfl rfl rfl rfl

theorem State.answerStatus_within (s : State) (status : Status) : (s.answerStatus status).Within s :=
  s.respond_within status []

/-- A geometry item is refused outside OFFLINE. -/
theorem State.offlineOnly_of {P : State → Prop} {s : State} {effect : State → State}
    (refused : P (s.answerStatus .wrongMode)) (taken : s.mode = .offline → P (effect s)) : P (s.offlineOnly effect) := by
  unfold State.offlineOnly
  split
  · exact taken ‹_›
  · exact refused

/-- A value out of range is refused. -/
theorem State.ranged_of {P : State → Prop} {s : State} {low high value : Nat} {effect : State → State}
    (refused : P (s.answerStatus .badArgument)) (taken : low ≤ value → value ≤ high → P (effect s)) :
    P (s.ranged low high value effect) := by
  unfold State.ranged
  split
  · rename_i range
    exact taken range.1 range.2
  · exact refused

section
variable {s : State}

theorem State.Lawful.refused (h : s.Lawful) (status : Status) : (s.answerStatus status).placeLaw :=
  State.placeLaw_of_within (s.answerStatus_within status) h.places

theorem State.Lawful.writeVisible (h : s.Lawful) (value : Nat) : (s.writeVisible value).placeLaw := by
  refine State.offlineOnly_of (P := State.placeLaw) (h.refused _) fun offline =>
    State.ranged_of (P := State.placeLaw) (h.refused _) fun _ _ => ?_
  split
  · exact h.refused _
  · obtain ⟨-, -, -, -, -, -, -, spares⟩ := h.places
    refine State.placeLaw_of_within (State.Within.trans ?_ (State.pruneTables_within _))
      (h.resized offline s.remap (c := { s.settings with visible := value }) spares)
    exact .of_same rfl rfl rfl rfl rfl rfl

theorem State.Lawful.writeSpares (h : s.Lawful) (value : Nat) : (s.writeSpares value).placeLaw := by
  refine State.offlineOnly_of (P := State.placeLaw) (h.refused _) fun offline =>
    State.ranged_of (P := State.placeLaw) (h.refused _) fun _ most => ?_
  split
  · exact h.refused _
  · exact State.placeLaw_of_within ((State.answerStatus_within _ _).trans (State.pruneTables_within _))
      (h.resized offline _ (c := { s.settings with spares := value }) most)

theorem State.Lawful.writeLinkTimeout (h : s.Lawful) (value : Nat) : (s.writeLinkTimeout value).placeLaw := by
  refine State.ranged_of (P := State.placeLaw) (h.refused _) fun _ _ => ?_
  have placed := h.placed
  have timed : State.Placed { s with settings := { s.settings with linkTimeout := value } } :=
    ⟨placed.places, placed.table, placed.requests⟩
  exact State.placeLaw_of_within (State.answerStatus_within _ _) timed.checkResponseTimer

end

/-! ## Commands that keep no new place -/

theorem State.onBus_within (s : State) (acknowledged : Bool) (returned : List Byte) :
    (s.onBus acknowledged returned).Within s := .of_same rfl rfl rfl rfl rfl rfl

theorem State.readItem_within (s : State) (item : Byte) : (s.readItem item).Within s := by
  unfold State.readItem
  split
  · exact s.respond_within _ _
  · exact s.answerStatus_within _

theorem State.followTimer_within (s : State) : s.followTimer.Within s := .of_same rfl rfl rfl rfl rfl rfl

/-- A write that sets items other than V and S, and nothing else. -/
theorem State.ranged_settings_within (s : State) (low high value : Nat) {c : Settings → Settings}
    (visible : (c s.settings).visible = s.settings.visible) (spares : (c s.settings).spares = s.settings.spares) :
    (s.ranged low high value fun u => State.answerStatus { u with settings := c u.settings } .ok).Within s :=
  State.ranged_of (P := (State.Within · s)) (s.answerStatus_within _) fun _ _ =>
    .of_same visible spares rfl rfl rfl rfl

theorem State.offerWaiting_within (s : State) : s.offerWaiting.Within s :=
  .of_same (by simp) (by simp) (by simp) (by simp) (by simp) (by simp)

theorem State.offerAll_within (n : Nat) (s : State) : (State.offerAll n s).Within s := by
  induction n generalizing s with
  | zero => exact .refl s
  | succ n ih =>
    unfold State.offerAll
    split
    · exact (ih _).trans ((State.tryStart_within _).trans s.offerWaiting_within)
    · exact .refl s

theorem State.writeDownstream_within (s : State) (value : Nat) : (s.writeDownstream value).Within s :=
  State.offlineOnly_of (P := (State.Within · s)) (s.answerStatus_within _) fun _ =>
    s.ranged_settings_within 1 131072 value (c := fun c => { c with downstream := value }) rfl rfl

theorem State.writeAutoSpare_within (s : State) (value : Nat) : (s.writeAutoSpare value).Within s := by
  refine State.ranged_of (P := (State.Within · s)) (s.answerStatus_within _) fun _ _ => ?_
  refine (State.answerStatus_within _ _).trans ?_
  have set : State.Within { s with settings := { s.settings with autoSpare := value == 1 } } s :=
    .of_same rfl rfl rfl rfl rfl rfl
  split
  · exact (State.offerAll_within _ _).trans set
  · exact set

theorem State.writeScrubEnable_within (s : State) (value : Nat) : (s.writeScrubEnable value).Within s := by
  refine State.ranged_of (P := (State.Within · s)) (s.answerStatus_within _) fun _ _ => ?_
  refine (State.answerStatus_within _ _).trans ((State.followTimer_within _).trans ?_)
  have set : State.Within { s with settings := { s.settings with scrubEnable := value == 1 } } s :=
    .of_same rfl rfl rfl rfl rfl rfl
  split
  · exact set
  · exact (State.withdrawScrub_within _).trans set

theorem State.writeScrubInterval_within (s : State) (value : Nat) : (s.writeScrubInterval value).Within s := by
  refine State.ranged_of (P := (State.Within · s)) (s.answerStatus_within _) fun _ _ => ?_
  refine (State.answerStatus_within _ _).trans ((State.checkIntervalTimer_within _).trans ?_)
  exact .of_same rfl rfl rfl rfl rfl rfl

theorem State.writeAlertEnables_within (s : State) (value : Nat) : (s.writeAlertEnables value).Within s :=
  s.ranged_settings_within 0 31 value (c := fun c => { c with alertEnables := flagsOfNat value }) rfl rfl

theorem State.writeAlertDepth_within (s : State) (value : Nat) : (s.writeAlertDepth value).Within s :=
  s.ranged_settings_within 1 16 value (c := fun c => { c with alertDepth := value }) rfl rfl

theorem State.writeSpareLowMark_within (s : State) (value : Nat) : (s.writeSpareLowMark value).Within s :=
  s.ranged_settings_within 0 64 value (c := fun c => { c with spareLowMark := value }) rfl rfl

/-- A write of any item keeps every place in the two areas. -/
theorem State.Lawful.writeItem {s : State} (h : s.Lawful) (item : Byte) (value : Nat) : (s.writeItem item value).placeLaw := by
  have within : ∀ {t : State}, t.Within s → t.placeLaw := fun w => State.placeLaw_of_within w h.places
  unfold State.writeItem
  split
  · exact h.writeVisible value
  · exact within (s.writeDownstream_within value)
  · exact h.writeSpares value
  · exact within (s.ranged_settings_within 1 255 value (c := fun c => { c with correctedLimit := value }) rfl rfl)
  · exact within (s.ranged_settings_within 1 4 value (c := fun c => { c with wordLimit := value }) rfl rfl)
  · exact within (s.writeAutoSpare_within value)
  · exact within (s.ranged_settings_within 0 1 value (c := fun c => { c with repairOnRead := value == 1 }) rfl rfl)
  · exact within (s.writeScrubEnable_within value)
  · exact within (s.writeScrubInterval_within value)
  · exact h.writeLinkTimeout value
  · exact within (s.ranged_settings_within 0 1 value (c := fun c => { c with recordCorrected := value == 1 }) rfl rfl)
  · exact within (s.writeAlertEnables_within value)
  · exact within (s.writeAlertDepth_within value)
  · exact within (s.writeSpareLowMark_within value)
  · exact h.refused _

theorem State.goOnline_within (s : State) : s.goOnline.Within s := by
  unfold State.goOnline
  split
  · split
    · refine (State.answerStatus_within _ _).trans ((State.tryStart_within _).trans ((State.followTimer_within _).trans ?_))
      exact .of_same rfl rfl rfl rfl rfl rfl
    · exact s.answerStatus_within _
  all_goals exact s.answerStatus_within _

theorem State.leaveOnline_within (s : State) : s.leaveOnline.Within s := by
  refine (State.endStopping_within _).trans ((State.emptyWriteBack_within _).trans ((State.followTimer_within _).trans
    ((State.withdrawScrub_within _).trans ((State.stopEngine_within _ _).trans ?_))))
  exact .of_same rfl rfl rfl rfl rfl rfl

theorem State.goOffline_within (s : State) : s.goOffline.Within s := by
  unfold State.goOffline
  split
  · exact (State.answerStatus_within _ _).trans s.leaveOnline_within
  all_goals exact s.answerStatus_within _

theorem State.clearLink_within (s : State) : s.clearLink.Within s := by
  refine (State.tryStart_within _).trans ((State.followTimer_within _).trans ?_)
  exact .of_same rfl rfl rfl rfl rfl rfl

theorem State.unblock_within (s : State) : s.unblock.Within s := by
  unfold State.unblock
  split
  · refine (State.tryStart_within _).trans ?_
    exact .of_engine rfl rfl rfl rfl (.idle _)
  all_goals exact .refl s

theorem State.readRemap_within (s : State) (i : Byte) : (s.readRemap i).Within s := by
  unfold State.readRemap
  split
  · exact s.respond_within _ _
  · exact s.answerStatus_within _

theorem State.restoreRemap_within (s : State) (i : Nat) (state : Option RestoreState) (source : Nat) :
    (s.restoreRemap i state source).Within s := by
  unfold State.restoreRemap
  (repeat' split) <;> exact .of_same rfl rfl rfl rfl rfl rfl

theorem State.dropRemap_within (s : State) (i : Nat) : (s.dropRemap i).Within s := by
  unfold State.dropRemap
  (repeat' split) <;> exact .of_same rfl rfl rfl rfl rfl rfl

theorem State.releaseSpare_within (s : State) (i : Nat) : (s.releaseSpare i).Within s := by
  unfold State.releaseSpare
  split
  · exact s.answerStatus_within _
  · split
    · exact s.answerStatus_within _
    · refine (State.answerStatus_within _ _).trans ((State.unblock_within _).trans ?_)
      exact .of_same rfl rfl rfl rfl rfl rfl

theorem State.requestSpare_within (s : State) (location : Location) : (s.requestSpare location).Within s := by
  unfold State.requestSpare
  split
  · exact s.answerStatus_within _
  · refine (State.answerStatus_within _ _).trans ((State.tryStart_within _).trans ?_)
    exact .of_same rfl rfl rfl rfl rfl rfl

theorem State.removeRequest_within (s : State) (location : Location) : (s.removeRequest location).Within s :=
  .of_same (by simp) (by simp) (by simp) (by simp) (by simp) (by simp)

theorem State.cancelRequest_within (s : State) (location : Location) : (s.cancelRequest location).Within s := by
  unfold State.cancelRequest
  split
  · split
    · exact s.abortMigration_within _
    · exact s.removeRequest_within _
  · split
    · refine (State.removeRequest_within _ _).trans ?_
      exact .of_engine rfl rfl rfl rfl (.idle _)
    · exact s.removeRequest_within _
  · exact s.removeRequest_within _

theorem State.withLocation_within (s : State) (args : List Byte) {effect : State → Location → State}
    (h : ∀ location, (effect s location).Within s) : (s.withLocation args effect).Within s := by
  unfold State.withLocation
  split
  · exact h _
  · exact s.answerStatus_within _

theorem State.readQueue_within (s : State) (position : Byte) : (s.readQueue position).Within s := by
  unfold State.readQueue
  (repeat' split) <;> exact .of_same rfl rfl rfl rfl rfl rfl

theorem State.readWatch_within (s : State) (slot : Byte) : (s.readWatch slot).Within s := by
  unfold State.readWatch
  (repeat' split) <;> exact .of_same rfl rfl rfl rfl rfl rfl

theorem State.clearWatch_within (s : State) (slot : Nat) : (s.clearWatch slot).Within s := by
  unfold State.clearWatch
  (repeat' split) <;> exact .of_same rfl rfl rfl rfl rfl rfl

theorem State.peekRecord_within (s : State) : s.peekRecord.Within s := by
  unfold State.peekRecord
  split <;> exact .of_same rfl rfl rfl rfl rfl rfl

theorem State.popRecord_within (s : State) : s.popRecord.Within s := by
  unfold State.popRecord
  split <;> exact .of_same rfl rfl rfl rfl rfl rfl

theorem State.inject_within (s : State) (address : Nat) (kind : Option InjectKind) : (s.inject address kind).Within s := by
  unfold State.inject
  (repeat' split) <;> exact .of_same rfl rfl rfl rfl rfl rfl

/-! ## Frames -/

theorem State.Lawful.onBus {s : State} (h : s.Lawful) (acknowledged : Bool) (returned : List Byte) :
    (s.onBus acknowledged returned).Lawful := ⟨h.places, h.table, h.traffic⟩

theorem State.Lawful.takeFrame {s : State} (h : s.Lawful) (address : BusAddress) {effect : State → State}
    (keeps : ∀ u : State, u.Lawful → (effect u).placeLaw) : (s.takeFrame address effect).placeLaw := by
  unfold State.takeFrame
  split
  · exact keeps _ (h.onBus _ _)
  · exact State.placeLaw_of_within (s.onBus_within _ _) h.places

theorem State.Lawful.takeCommand {s : State} (h : s.Lawful) (address : BusAddress) (args : List Byte) (count : Nat)
    {effect : State → State} (keeps : ∀ u : State, u.Lawful → (effect u).placeLaw) :
    (s.takeCommand address args count effect).placeLaw := by
  refine h.takeFrame address fun u hu => ?_
  split
  · exact keeps u hu
  · exact hu.refused _

/-- A command whose effect keeps no new place. -/
theorem State.Lawful.takeCommand_within {s : State} (h : s.Lawful) (address : BusAddress) (args : List Byte) (count : Nat)
    {effect : State → State} (within : ∀ u : State, (effect u).Within u) :
    (s.takeCommand address args count effect).placeLaw :=
  h.takeCommand address args count fun u hu => State.placeLaw_of_within (within u) hu.places

theorem State.Lawful.takeFrame_within {s : State} (h : s.Lawful) (address : BusAddress)
    {effect : State → State} (within : ∀ u : State, (effect u).Within u) : (s.takeFrame address effect).placeLaw :=
  h.takeFrame address fun u hu => State.placeLaw_of_within (within u) hu.places

/-- An UNKNOWN_COMMAND's frame: one of no command, or the frame of another row, whose effect it then has (R156). -/
theorem execUnknownCommand_cases (address : BusAddress) (frame : List Byte) (s : State) :
    (∃ (a : BusAddress) (bytes : List Byte), execUnknownCommand address frame s
        = .next (s.takeFrame a fun s => if bytes.isEmpty then s else s.answerStatus .unknownCommand))
      ∨ execUnknownCommand address frame s = .next s
      ∨ ∃ i, (∀ a bytes, i ≠ .unknownCommand a bytes) ∧ execUnknownCommand address frame s = exec i s := by
  cases hi : decodeFrame address frame with
  | unknownCommand a bytes => exact .inl ⟨a, bytes, by simp only [execUnknownCommand, hi]⟩
  | powerOn | systemReset | transactionAccepted | answerTaken | arbiterGrant | memoryResponse | responseTimerExpiry
  | scrubIntervalExpiry | migrationStart | readFrame => exact .inr (.inl (by simp only [execUnknownCommand, hi]))
  | _ => exact .inr (.inr ⟨decodeFrame address frame, by simp [hi], by simp only [execUnknownCommand, hi]; rfl⟩)

/-- Every command but an UNKNOWN_COMMAND's frame keeps the places in the two areas. -/
theorem State.Lawful.exec_known {s t : State} (h : s.Lawful) {i : Instr} (known : ∀ a bytes, i ≠ .unknownCommand a bytes)
    (e : exec i s = .next t) : t.placeLaw := by
  have within : ∀ {u : State}, u.Within s → u.placeLaw := fun w => State.placeLaw_of_within w h.places
  have frame := fun address effect => h.takeFrame_within address (effect := effect)
  have command := fun address args count effect => h.takeCommand_within address args count (effect := effect)
  cases i
  case unknownCommand a bytes => exact absurd rfl (known a bytes)
  all_goals cases e
  case powerOn straps => exact s.startOver_placeLaw straps
  case systemReset =>
    exact State.placeLaw_of_within ((State.tryStart_within _).trans s.systemReset_within) (State.dropTransactions_placeLaw h.places)
  case transactionAccepted t =>
    split
    · exact h.accept t
    · exact h.places
  case answerTaken =>
    split
    · rename_i given hp
      exact h.leaveQueue (by simp [hp, Progress.needsAccess])
    all_goals exact h.places
  case arbiterGrant => exact h.placed.grant []
  case memoryResponse tag result words first => exact h.placed.takeResponse h.access tag result words first
  case responseTimerExpiry first => exact h.placed.expireResponse first
  case scrubIntervalExpiry => exact within s.expireInterval_within
  case migrationStart => exact within s.tryStart_within
  case readFrame =>
    split <;> exact within (s.onBus_within _ _)
  case readStatus a args => exact command a args 0 _ fun u => u.respond_within _ _
  case readConfig a args => exact command a args 1 _ fun u => u.readItem_within _
  case writeConfig a args => exact h.takeCommand a args 5 fun u hu => hu.writeItem _ _
  case downstreamBlocks a value => exact frame a _ fun u => u.writeDownstream_within _
  case visibleBlocks a value => exact h.takeFrame a fun u hu => hu.writeVisible _
  case spareCount a value => exact h.takeFrame a fun u hu => hu.writeSpares _
  case autoSpare a value => exact frame a _ fun u => u.writeAutoSpare_within _
  case scrubEnable a value => exact frame a _ fun u => u.writeScrubEnable_within _
  case scrubInterval a value => exact frame a _ fun u => u.writeScrubInterval_within _
  case linkTimeout a value => exact h.takeFrame a fun u hu => hu.writeLinkTimeout _
  case alertEnables a value => exact frame a _ fun u => u.writeAlertEnables_within _
  case alertDepth a value => exact frame a _ fun u => u.writeAlertDepth_within _
  case spareLowMark a value => exact frame a _ fun u => u.writeSpareLowMark_within _
  case goOnline a args => exact command a args 0 _ State.goOnline_within
  case goOffline a args => exact command a args 0 _ State.goOffline_within
  case resetPart a args =>
    exact h.takeCommand a args 0 fun u _ =>
      State.placeLaw_of_within (State.onBus_within _ _ _) (u.startOver_placeLaw u.management.straps)
  case clearLink a args => exact command a args 0 _ fun u => (State.answerStatus_within _ _).trans u.clearLink_within
  case readRemap a args => exact command a args 1 _ fun u => u.readRemap_within _
  case restoreRemap a args => exact command a args 5 _ fun u => u.restoreRemap_within _ _ _
  case dropRemap a args => exact command a args 1 _ fun u => u.dropRemap_within _
  case releaseSpare a args => exact command a args 1 _ fun u => u.releaseSpare_within _
  case requestSpare a args => exact command a args 4 _ fun u => u.withLocation_within args u.requestSpare_within
  case cancelRequest a args =>
    refine command a args 4 _ fun u => u.withLocation_within args fun location => ?_
    split
    · exact (State.answerStatus_within _ _).trans ((State.tryStart_within _).trans (u.cancelRequest_within location))
    · exact u.answerStatus_within _
  case readQueue a args => exact command a args 1 _ fun u => u.readQueue_within _
  case readWatch a args => exact command a args 1 _ fun u => u.readWatch_within _
  case clearWatch a args => exact command a args 1 _ fun u => u.clearWatch_within _
  case peekRecord a args => exact command a args 0 _ State.peekRecord_within
  case popRecord a args => exact command a args 0 _ State.popRecord_within
  case ackAlert a args => exact command a args 1 _ fun u => .of_same rfl rfl rfl rfl rfl rfl
  case inject a args => exact command a args 7 _ fun u => u.inject_within _ _

/-- Every command keeps the places in the two areas. -/
theorem State.Lawful.exec {s t : State} (h : s.Lawful) {i : Instr} (e : exec i s = .next t) : t.placeLaw := by
  by_cases unknown : ∃ a bytes, i = .unknownCommand a bytes
  · obtain ⟨a, bytes, rfl⟩ := unknown
    rcases execUnknownCommand_cases a bytes s with ⟨b, left, he⟩ | he | ⟨j, known, he⟩
    · obtain rfl : _ = t := Host.Outcome.next.inj (he.symm.trans e)
      refine h.takeFrame_within b fun u => ?_
      split
      · exact .refl u
      · exact u.answerStatus_within _
    · obtain rfl : s = t := Host.Outcome.next.inj (he.symm.trans e)
      exact h.places
    · exact h.exec_known known (he.symm.trans e)
  · exact h.exec_known (fun a bytes hi => unknown ⟨a, bytes, hi⟩) e

/-- Settles O59: a step is a microsecond or a command, and each keeps the places in the two areas (`State.Placed.tick`,
`State.Lawful.exec`). -/
theorem placeInvariant : Obligations.PlaceInvariant := by
  intro s t places table traffic e
  unfold step at e
  split at e
  · obtain rfl := Host.Outcome.next.inj e
    exact (State.Placed.of_laws places table traffic).tick
  · rename_i rest _
    exact State.Lawful.exec (s := { s with pending := rest }) ⟨places, table, traffic⟩ e

/-! ## Addresses, and the checks of a transaction -/

/-- Settles O12: the three parts are the quotients and remainders by 16 and 256 (R7). -/
theorem addressSplit : Obligations.AddressSplit := by
  intro a
  unfold blockOf lineOf wordOf
  refine ⟨rfl, rfl, rfl, ?_, ?_, ?_, ?_⟩ <;> omega

theorem partialSpan_isSome {words : List WriteWord} (h : ∃ w ∈ words, isPartial w = true) :
    (partialSpan words).isSome = true := by
  obtain ⟨w, hw, hp⟩ := h
  have found : ∀ l : List WriteWord, w ∈ l → ∃ i, l.findIdx? isPartial = some i := fun l hl =>
    Option.isSome_iff_exists.mp (by rw [List.findIdx?_isSome]; exact List.any_eq_true.mpr ⟨w, hl, hp⟩)
  obtain ⟨i, hi⟩ := found words hw
  obtain ⟨j, hj⟩ := found words.reverse (by simpa using hw)
  simp [partialSpan, hi, hj]

theorem partialSpan_eq_none {words : List WriteWord} (h : ∀ w ∈ words, isPartial w = false) : partialSpan words = none := by
  have : words.findIdx? isPartial = none := List.findIdx?_eq_none_iff.mpr h
  simp [partialSpan, this]

/-- A word with no byte or every byte enabled is planned without the word stored there (R82). -/
theorem planWord_of_whole {w : WriteWord} (h : isPartial w = false) (fetched : StoredWord) :
    planWord w fetched = (if w.enables = 0 then none else some (cleanForm w.data), .good) := by
  by_cases none_enabled : w.enables = 0
  · simp [planWord, none_enabled]
  · have all_enabled : w.enables = 15 := by
      rw [isPartial, bne_iff_ne.mpr none_enabled] at h
      simpa using h
    simp [planWord, all_enabled]

theorem planWords_of_whole {words : List WriteWord} (h : ∀ w ∈ words, isPartial w = false) (start : Nat)
    (fetched : List StoredWord) : planWords start fetched words
      = words.map fun w => (if w.enables = 0 then none else some (cleanForm w.data), .good) := by
  have planned : planWords start fetched words = words.zipIdx.map
      ((fun w : WriteWord => (if w.enables = 0 then none else some (cleanForm w.data), WriteStatus.good)) ∘ Prod.fst) :=
    List.map_congr_left fun x hx => planWord_of_whole (h x.1 (List.fst_mem_of_mem_zipIdx hx)) _
  rw [planned, ← List.map_map, List.zipIdx_map_fst]

/-- The STORE phase of a WRITE with no partial word (R82, R84). -/
theorem State.enterStore_of_whole (s : State) (a start : Nat) (fetched : List StoredWord) {words : List WriteWord}
    (h : ∀ w ∈ words, isPartial w = false) : s.enterStore a start fetched words
      = s.setProgress (.store
          { runs := storeRuns (a % 16) (words.map fun w => if w.enables = 0 then none else some (cleanForm w.data)),
            statuses := words.map fun _ => .good, dual := none }) := by
  simp only [State.enterStore, planWords_of_whole h, List.map_map]
  rfl

/-- The phase in which a transaction marked SERVE begins (R94, R95, R98). -/
def servedPhase (s : State) (t : Transaction) : Progress := (s.beginServed t).upstream.progress

theorem State.beginServed_eq (s : State) (t : Transaction) : s.beginServed t = s.setProgress (servedPhase s t) := by
  unfold servedPhase State.beginServed
  (repeat' split) <;> rfl

/-- Only the STORE phase could hold a pending spare write, and it begins with none. -/
theorem State.beginServed_dualPending (s : State) (t : Transaction) : (s.beginServed t).dualPending = false := by
  unfold State.beginServed
  (repeat' split) <;> rfl

section
variable {s : State}

theorem servedPhase_badShape {t : Transaction} (h : shapeOk t = false) :
    servedPhase s t = .answer (bareAnswer t .badRequest) := by
  simp [servedPhase, State.beginServed, h]

theorem servedPhase_outOfRange {t : Transaction} (shape : shapeOk t = true)
    (h : s.settings.visible * 256 ≤ firstAddress t) : servedPhase s t = .answer (bareAnswer t .outOfRange) := by
  have outside : inRange s.settings t = false := by simpa [inRange] using h
  simp [servedPhase, State.beginServed, shape, outside]

theorem servedPhase_read {a n : Nat} (shape : shapeOk (.read a n) = true)
    (inside : inRange s.settings (.read a n) = true) : servedPhase s (.read a n) = .fetch := by
  simp [servedPhase, State.beginServed, shape, inside]

variable {a n : Nat} {words : List WriteWord}

theorem servedPhase_noBytes (shape : shapeOk (.write a n words) = true)
    (inside : inRange s.settings (.write a n words) = true) (h : ∀ w ∈ words, w.enables = 0) :
    servedPhase s (.write a n words) = .answer (.write .okay (words.map fun _ => .good)) := by
  have all : words.all (fun w => w.enables == 0) = true := List.all_eq_true.mpr fun w hw => by simp [h w hw]
  simp only [servedPhase, State.beginServed, shape, inside, Bool.true_eq_false, if_false, all, if_true]
  rfl

/-- A WRITE with a byte enabled that passes the checks of shape and range is merged or stored (R83, R98). -/
theorem servedPhase_enabled (shape : shapeOk (.write a n words) = true)
    (inside : inRange s.settings (.write a n words) = true) (h : ∃ w ∈ words, w.enables ≠ 0) :
    servedPhase s (.write a n words) =
      if (partialSpan words).isSome then .mergeRead else (s.enterStore a 0 [] words).upstream.progress := by
  obtain ⟨w, hw, enabled⟩ := h
  have not_all : ¬ words.all (fun w => w.enables == 0) = true := fun all =>
    enabled (by simpa using List.all_eq_true.mp all w hw)
  simp only [servedPhase, State.beginServed, shape, inside, Bool.true_eq_false, if_false, not_all]
  cases partialSpan words <;> rfl

theorem servedPhase_partial (shape : shapeOk (.write a n words) = true)
    (inside : inRange s.settings (.write a n words) = true) (h : ∃ w ∈ words, isPartial w = true) :
    servedPhase s (.write a n words) = .mergeRead := by
  have enabled : ∃ w ∈ words, w.enables ≠ 0 := by
    obtain ⟨w, hw, hp⟩ := h
    refine ⟨w, hw, fun e => ?_⟩
    simp [isPartial, e] at hp
  rw [servedPhase_enabled shape inside enabled, if_pos (partialSpan_isSome h)]

theorem servedPhase_whole (shape : shapeOk (.write a n words) = true)
    (inside : inRange s.settings (.write a n words) = true) (enabled : ∃ w ∈ words, w.enables ≠ 0)
    (whole : ∀ w ∈ words, isPartial w = false) :
    servedPhase s (.write a n words) = .store
      { runs := storeRuns (a % 16) (words.map fun w => if w.enables = 0 then none else some (cleanForm w.data)),
        statuses := words.map fun _ => .good, dual := none } := by
  rw [servedPhase_enabled shape inside enabled, partialSpan_eq_none whole, State.enterStore_of_whole s a 0 [] whole]
  rfl

/-- While the link is UP a transaction marked SERVE begins in the phase that R94's checks give it. -/
theorem servedPhase_firstPhase (s : State) (t : Transaction) : firstPhase s.settings .up t (servedPhase s t) := by
  refine ⟨servedPhase_badShape, servedPhase_outOfRange, fun shape lt => ?_⟩
  have inside : inRange s.settings t = true := decide_eq_true lt
  refine ⟨?_, ?_⟩
  · rintro a n rfl
    exact servedPhase_read shape inside
  · rintro a n words rfl
    exact ⟨servedPhase_noBytes shape inside, fun _ => servedPhase_partial shape inside,
      fun _ => servedPhase_whole shape inside, by simp⟩

end

/-- A transaction accepted ONLINE into an empty queue begins at once, and no try follows: none was due before, and no spare write is
pending. -/
theorem exec_accepted_online {s u : State} {t : Transaction} (online : s.mode = .online) (empty : s.upstream.held = [])
    (idle : s.upstream.progress = .idle) (up : s.port.link = .up) (settled : s.settledLaw)
    (hu : u = { s with upstream := { s.upstream with held := [{ transaction := t, mark := .serve }] } }) :
    exec (.transactionAccepted t) s = .next (u.setProgress (servedPhase u t)) := by
  have rests : (u.beginServed t).mayTry = false := by
    have still : s.mayTry = false := settled
    have single : s.dualPending = false := by simp [State.dualPending, idle]
    rw [State.mayTry, single] at still
    rw [State.mayTry, State.beginServed_dualPending]
    simpa [hu] using still
  have begun : (u.beginServed t).settle = u.setProgress (servedPhase u t) := by
    rw [State.settle_of_settled (by simpa [hu] using up) rests, State.beginServed_eq]
  rw [← begun, hu]
  simp [exec, execTransactionAccepted, State.accept, empty, online, admissionMark, State.beginHead]

/-- Settles O14: the phase begun is `servedPhase`, which `servedPhase_firstPhase` describes. -/
theorem servedTransactionChecks : Obligations.ServedTransactionChecks := by
  intro t s online empty idle up settled
  obtain ⟨u, hu⟩ : ∃ u : State,
      u = { s with upstream := { s.upstream with held := [{ transaction := t, mark := .serve }] } } := ⟨_, rfl⟩
  obtain ⟨bad, outside, inside⟩ := servedPhase_firstPhase u t
  refine ⟨servedPhase u t, ?_, fun unfit => bad ?_, fun shape far => outside shape (by simpa [hu] using far),
    fun shape near => ?_⟩
  · rw [exec_accepted_online online empty idle up settled hu, hu]
    rfl
  · rw [← shapeOk_iff] at unfit
    simpa using unfit
  · obtain ⟨reads, writes⟩ := inside shape (by simpa [hu] using near)
    refine ⟨fun a n words ht none_enabled => ?_, reads, fun a n words ht merged => ?_,
      fun a n words ht enabled whole => ?_⟩
    all_goals obtain ⟨answered, merges, stores, -⟩ := writes a n words ht
    · exact answered none_enabled
    · exact merges rfl merged
    · exact stores rfl enabled whole

/-! ## Commands executed, in the words of `State.answered` -/

/-- A command taken, of the right length: its frame acknowledged, and what `effect` makes of the state (R155, R156). -/
theorem State.takeCommand_own (s : State) (args : List Byte) (effect : State → State) :
    s.takeCommand s.management.address args args.length effect = effect (s.onBus true []) :=
  State.takeCommand_ours rfl rfl effect

theorem State.onBus_answerStatus (s : State) (status : Status) :
    (s.onBus true []).answerStatus status = s.answered status [] := rfl

/-- With no request waiting there is nothing to try. -/
theorem State.mayTry_of_empty {s : State} (h : s.migration.queue = []) : s.mayTry = false := by simp [State.mayTry, h]

/-- The engine's try does not see the response a command leaves. -/
theorem State.tryStart_answerStatus (s : State) (status : Status) :
    (s.onBus true []).tryStart.answerStatus status = (s.answered status []).tryStart := by
  have onBus := s.tryStart_with { s.management with acknowledged := true, returned := [] } s.writeBack
  have answered := s.tryStart_with (s.answered status []).management s.writeBack
  have acknowledged : (s.onBus true []).tryStart
      = { s.tryStart with
          management := { s.management with acknowledged := true, returned := [] }, writeBack := s.writeBack } := onBus
  rw [acknowledged]
  exact answered.symm

theorem exec_migrationStart (s : State) : exec .migrationStart s = .next s.tryStart := rfl

theorem geometryOk_iff {c : Settings} :
    geometryOk c = true ↔ 1 ≤ c.visible ∧ c.visible + c.spares ≤ c.downstream := by
  simp [geometryOk]

theorem exec_goOnline (s : State) :
    exec (.goOnline s.management.address []) s = .next (s.onBus true []).goOnline :=
  congrArg Host.Outcome.next (s.takeCommand_own [] State.goOnline)

theorem exec_clearLink (s : State) :
    exec (.clearLink s.management.address []) s = .next ((s.onBus true []).clearLink.answerStatus .ok) :=
  congrArg Host.Outcome.next (s.takeCommand_own [] fun s => s.clearLink.answerStatus .ok)

/-- The timer where its three conditions hold, and stopped where one does not (R124). -/
theorem State.followTimer_eq (s : State) : s.followTimer = { s with
    scrubber := { s.scrubber with
      timer :=
        if s.mode = .online ∧ s.settings.scrubEnable = true ∧ s.port.link = .up then some (s.scrubber.timer.getD 0)
        else none } } := by
  simp [State.followTimer, State.timerMayRun, and_assoc]

/-- A command that ends in a try of `u` ends as the try of `u` with the command's response. -/
theorem next_tryStart {s t u : State} {status : Status} (h : s = u.onBus true []) (ht : t = u.answered status []) :
    Host.Outcome.next (s.tryStart.answerStatus status) = exec .migrationStart t := by
  rw [h, State.tryStart_answerStatus, ← ht]
  rfl

theorem exec_migrationStart_of_empty {s : State} (h : s.migration.queue = []) : exec .migrationStart s = .next s := by
  rw [exec_migrationStart, State.tryStart_of_settled (State.mayTry_of_empty h)]

/-- Settles O43: both commands set their fields, let the timer follow, and make the engine's try, which a response does not change. -/
theorem goOnlineAndClearLink : Obligations.GoOnlineAndClearLink := by
  intro s
  rw [exec_goOnline, exec_clearLink]
  refine ⟨fun offline unfit => ?_, fun online => ?_, fun stopping => ?_, fun offline visible fits stopped online ho => ?_,
    fun cleared hc => ?_⟩
  · have bad : geometryOk s.settings = false := by
      rw [← geometryOk_iff] at unfit
      simpa using unfit
    simp [State.goOnline, offline, bad, State.onBus_answerStatus]
  · simp [State.goOnline, online, State.onBus_answerStatus]
  · simp [State.goOnline, stopping, State.onBus_answerStatus]
  · have good : geometryOk s.settings = true := geometryOk_iff.mpr ⟨visible, fits⟩
    have entered : (s.onBus true []).goOnline = (s.onBus true []).enterOnline.answerStatus .ok := by
      simp [State.goOnline, offline, good]
    have tried := next_tryStart (s := State.followTimer { s.onBus true [] with mode := .online })
      (by rw [State.followTimer_eq]; simp only [stopped, Option.getD_none, State.onBus]; simp) ho
    rw [entered]
    exact ⟨tried, fun empty => tried.trans (exec_migrationStart_of_empty (by rw [ho]; exact empty))⟩
  · have tried := next_tryStart (s := State.followTimer
        { s.onBus true [] with port := { s.port with abandoned := [], link := .up } })
      (by rw [State.followTimer_eq]; simp; rfl) hc
    exact ⟨tried, fun empty => tried.trans (exec_migrationStart_of_empty (by rw [hc]; exact empty))⟩

/-! ## The table's guards, and the tables after a change of the geometry -/

theorem mem_toList_iff {t : RemapTable} {e : RemapEntry} : e ∈ t.toList ↔ ∃ i, i < 64 ∧ entryAt t i = e := by
  rw [List.mem_iff_getElem]
  constructor
  · rintro ⟨i, hi, rfl⟩
    have hi' : i < 64 := by simpa using hi
    exact ⟨i, hi', (toList_getElem t hi').symm⟩
  · rintro ⟨i, hi, rfl⟩
    exact ⟨i, by simpa using hi, toList_getElem t hi⟩

/-- The guard of VISIBLE_BLOCKS: a source at or above the new V (R16). -/
theorem sourceAtOrAbove_iff {t : RemapTable} {v : Nat} :
    sourceAtOrAbove t v = true ↔ ∃ i, i < 64 ∧ ∃ b ∈ (entryAt t i).source?, v ≤ b := by
  unfold sourceAtOrAbove
  rw [List.any_eq_true]
  constructor
  · rintro ⟨e, he, h⟩
    obtain ⟨i, hi, rfl⟩ := mem_toList_iff.mp he
    split at h
    · rename_i b hb
      exact ⟨i, hi, b, hb, of_decide_eq_true h⟩
    · simp at h
  · rintro ⟨i, hi, b, hb, le⟩
    refine ⟨entryAt t i, mem_toList_iff.mpr ⟨i, hi, rfl⟩, ?_⟩
    rw [Option.mem_def.mp hb]
    exact decide_eq_true le

/-- The guard of SPARE_COUNT: an entry in use among those that would go (R15). -/
theorem loweringBlocked_iff {t : RemapTable} {old new : Nat} : loweringBlocked t old new = true ↔
    ∃ i, new ≤ i ∧ i < old ∧ entryAt t i ≠ .free ∧ entryAt t i ≠ .unused := by
  unfold loweringBlocked
  rw [List.any_eq_true]
  constructor
  · rintro ⟨⟨e, i⟩, hm, h⟩
    have at_i := List.mem_zipIdx_iff_getElem?.mp hm
    obtain ⟨hi, he⟩ := List.getElem?_eq_some_iff.mp at_i
    have hi' : i < 64 := by simpa using hi
    rw [toList_getElem t hi'] at he
    subst he
    simp only [Bool.and_eq_true, decide_eq_true_eq, Bool.not_eq_true', Bool.or_eq_false_iff, beq_eq_false_iff_ne] at h
    obtain ⟨⟨least, most⟩, not_free, used⟩ := h
    exact ⟨i, least, most, not_free, used⟩
  · rintro ⟨i, least, most, not_free, used⟩
    have hi : i < 64 := Nat.lt_of_not_le fun le => used (entryAt_of_le t le)
    refine ⟨(entryAt t i, i), List.mem_zipIdx_iff_getElem?.mpr ?_, by simp [least, most, not_free, used]⟩
    rw [List.getElem?_eq_getElem (by simpa using hi), toList_getElem t hi]

theorem entryAt_resizeEntries (t : RemapTable) (old new : Nat) {i : Nat} (hi : i < 64) :
    entryAt (resizeEntries t old new) i =
      if old ≤ i ∧ i < new then .free else if new ≤ i ∧ i < old then .unused else entryAt t i := by
  simp [entryAt, resizeEntries, hi]

/-- The entries whose locations still exist stay in their slots (R152). -/
theorem WatchTable.entryIn_prune (w : WatchTable) (c : Settings) (slot : Nat) :
    (w.prune c).entryIn slot = (w.entryIn slot).filter fun e => locationExists c e.location := by
  by_cases hs : slot < 32
  · simp only [WatchTable.entryIn, WatchTable.prune, hs, Vector.getElem?_eq_getElem, Vector.getElem_map, Option.join_some]
    cases w.slots[slot] with
    | none => rfl
    | some e => by_cases h : locationExists c e.location = true <;> simp [h, Option.filter]
  · simp [WatchTable.entryIn, Vector.getElem?_eq_none (Nat.le_of_not_lt hs)]

theorem State.emptyWriteBack_eq (s : State) : s.emptyWriteBack = { s with
    writeBack := { s.writeBack with entries := [] }
    port := { s.port with
      outstanding := s.port.outstanding.map fun a => { a with discarded := a.discarded || a.purpose == .writeBack } } } := by
  unfold State.emptyWriteBack State.discardOutstanding
  obtain ⟨_, _, _, _, _, _, _, ⟨outstanding, _, _, _, _, _⟩, _, _, _, _, _, _⟩ := s
  cases outstanding with
  | none => rfl
  | some a =>
    obtain ⟨purpose, _, _, _, _, _, _, _, _⟩ := a
    cases purpose <;> simp [Purpose.requester, BEq.beq]

/-- The offer of a place neither reads nor changes the scrubber. -/
theorem State.offerWaiting_scrubber_with (s : State) (c : Scrubber) :
    State.offerWaiting { s with scrubber := c } = { s.offerWaiting with scrubber := c } := by
  unfold State.offerWaiting
  dsimp only [State.hasRequest]
  cases s.watch.oldestWaiting with
  | none => rfl
  | some oldest =>
    by_cases named : (s.migration.queue.any fun r => r.location == oldest.2.location) = true
    · simp [named, State.queueEntry]
    · by_cases room : s.migration.queue.length < 8 <;>
        simp [named, room, State.queueEntry, State.joinQueue, State.setQueue]

theorem State.placesFreed_scrubber_with (n : Nat) (s : State) (c : Scrubber) :
    State.placesFreed n { s with scrubber := c } = { State.placesFreed n s with scrubber := c } := by
  induction n generalizing s with
  | zero => rfl
  | succ n ih =>
    have freed : State.placeFreed { s with scrubber := c } = { s.placeFreed with scrubber := c } := by
      unfold State.placeFreed
      split
      · exact s.offerWaiting_scrubber_with c
      · rfl
    rw [State.placesFreed, freed, ih, State.placesFreed]

/-- The scrub position put to 0/0 before or after the places that free (R131). -/
theorem State.placesFreed_scrubStart (n : Nat) (s : State) :
    { State.placesFreed n s with scrubber := { (State.placesFreed n s).scrubber with block := 0, line := 0 } }
      = State.placesFreed n { s with scrubber := { s.scrubber with block := 0, line := 0 } } := by
  rw [State.placesFreed_scrubber_with n s { s.scrubber with block := 0, line := 0 }]
  simp

/-- The places that free do not see the response a command leaves. -/
theorem State.placesFreed_answerStatus (n : Nat) (s : State) (status : Status) :
    (State.placesFreed n (s.onBus true [])).answerStatus status = (State.placesFreed n s).answered status [] := by
  have managed := s.placesFreed_with n { s.management with acknowledged := true, returned := [] } s.writeBack
  have acknowledged : State.placesFreed n (s.onBus true [])
      = { State.placesFreed n s with
          management := { s.management with acknowledged := true, returned := [] }, writeBack := s.writeBack } := managed
  rw [acknowledged]
  simp [State.answerStatus, State.respond, State.answered]

/-! ## The geometry -/

theorem exec_downstreamBlocks (s : State) (v : Word) : exec (.downstreamBlocks s.management.address v) s
    = .next ((s.onBus true []).writeDownstream v.toNat) :=
  congrArg Host.Outcome.next (State.takeFrame_ours rfl _)

theorem exec_visibleBlocks (s : State) (v : Word) : exec (.visibleBlocks s.management.address v) s
    = .next ((s.onBus true []).writeVisible v.toNat) :=
  congrArg Host.Outcome.next (State.takeFrame_ours rfl _)

theorem exec_spareCount (s : State) (v : Word) : exec (.spareCount s.management.address v) s
    = .next ((s.onBus true []).writeSpares v.toNat) :=
  congrArg Host.Outcome.next (State.takeFrame_ours rfl _)

section
variable {s : State} {value : Nat}

theorem State.offlineOnly_offline (h : s.mode = .offline) (effect : State → State) : s.offlineOnly effect = effect s :=
  if_pos h

theorem State.offlineOnly_other (h : s.mode ≠ .offline) (effect : State → State) :
    s.offlineOnly effect = s.answerStatus .wrongMode := if_neg h

theorem State.ranged_inside {low high : Nat} (least : low ≤ value) (most : value ≤ high) (effect : State → State) :
    s.ranged low high value effect = effect s := if_pos ⟨least, most⟩

theorem State.ranged_outside {low high : Nat} (h : value < low ∨ high < value) (effect : State → State) :
    s.ranged low high value effect = s.answerStatus .badArgument := if_neg (by omega)

end

/-- New areas and a new table, with the write-back buffer empty, and of requests and watch entries those whose locations exist
(R121, R152). -/
def State.resized (s : State) (c : Settings) (table : RemapTable) (kept : List Request) : State :=
  { s with
    settings := c
    remap := table
    migration := { s.migration with queue := kept }
    watch := s.watch.prune c
    writeBack := { s.writeBack with entries := [] }
    port := { s.port with
      outstanding := s.port.outstanding.map fun a => { a with discarded := a.discarded || a.purpose == .writeBack } } }

/-- The tables pruned for new areas: each request that goes frees a place (R121, R152). -/
theorem State.pruneTables_resized (s : State) (c : Settings) (table : RemapTable) {kept : List Request}
    (hk : kept = s.migration.queue.filter fun r => locationExists c r.location) :
    (State.emptyWriteBack { s with settings := c, remap := table }).pruneTables
      = State.placesFreed (s.migration.queue.length - kept.length) (s.resized c table kept) := by
  subst hk
  rw [State.emptyWriteBack_eq]
  rfl

/-- Settles O47: each guard is met as the statement says it, and an accepted write of V or S is `State.resized` with the places that
its requests leave. -/
theorem geometryWrites : Obligations.GeometryWrites := by
  intro s v
  rw [exec_downstreamBlocks, exec_visibleBlocks, exec_spareCount]
  refine ⟨fun online => ?_, fun offline => ⟨fun outside => ?_, fun least most => ?_, fun least most used => ?_,
    fun least most below c kept hc hk => ⟨s.watch.prune c, ?_, rfl, rfl, s.watch.entryIn_prune c⟩, fun outside => ?_,
    fun most used => ?_, fun most unused c kept hc hk =>
      ⟨s.watch.prune c, resizeEntries s.remap s.settings.spares v.toNat, ?_, rfl, rfl, s.watch.entryIn_prune c,
        fun i hi => entryAt_resizeEntries _ _ _ hi⟩⟩⟩
  · simp only [State.writeDownstream, State.writeVisible, State.writeSpares,
      State.offlineOnly_other (s := s.onBus true []) online]
    exact ⟨rfl, rfl, rfl⟩
  all_goals
    simp only [State.writeDownstream, State.writeVisible, State.writeSpares,
      State.offlineOnly_offline (s := s.onBus true []) offline]
  · have out : v.toNat < 1 ∨ 131072 < v.toNat := by omega
    simp only [State.ranged_outside out]
    exact ⟨rfl, rfl⟩
  · rw [State.ranged_inside least most]
    rfl
  · rw [State.ranged_inside least most]
    simp only [State.onBus_remap, sourceAtOrAbove_iff.mpr used, if_true]
    rfl
  · have free : sourceAtOrAbove s.remap v.toNat = false := by
      rw [← Bool.not_eq_true, sourceAtOrAbove_iff]
      rintro ⟨i, hi, b, hb, le⟩
      exact absurd (below i hi b hb) (by omega)
    rw [State.ranged_inside least most]
    simp only [State.onBus_remap, free, Bool.false_eq_true, if_false]
    have pruned := (s.onBus true []).pruneTables_resized c s.remap hk
    have moved := State.placesFreed_scrubStart (s.migration.queue.length - kept.length)
      ((s.resized c s.remap kept).onBus true [])
    have response := State.placesFreed_answerStatus (s.migration.queue.length - kept.length)
      { s.resized c s.remap kept with scrubber := { s.scrubber with block := 0, line := 0 } } .ok
    subst hc
    exact congrArg Host.Outcome.next
      ((congrArg (fun u : State => State.answerStatus { u with scrubber := { u.scrubber with block := 0, line := 0 } } .ok)
        pruned).trans ((congrArg (State.answerStatus · .ok) moved).trans response))
  · rw [State.ranged_outside (.inr outside)]
    rfl
  · rw [State.ranged_inside (Nat.zero_le _) most]
    simp only [State.onBus_remap, State.onBus_settings, loweringBlocked_iff.mpr used, if_true]
    rfl
  · have free : loweringBlocked s.remap s.settings.spares v.toNat = false := by
      rw [← Bool.not_eq_true, loweringBlocked_iff]
      rintro ⟨i, least, below, not_free, used⟩
      exact (unused i least below).elim not_free used
    rw [State.ranged_inside (Nat.zero_le _) most]
    simp only [State.onBus_remap, State.onBus_settings, free, Bool.false_eq_true, if_false]
    have pruned := (s.onBus true []).pruneTables_resized c (resizeEntries s.remap s.settings.spares v.toNat) hk
    have response := State.placesFreed_answerStatus (s.migration.queue.length - kept.length)
      (s.resized c (resizeEntries s.remap s.settings.spares v.toNat) kept) .ok
    subst hc
    exact congrArg Host.Outcome.next ((congrArg (State.answerStatus · .ok) pruned).trans response)

end Sys2Proof.Machine

/-! The table and the engine: what leaves both alone, what each change of them keeps, and that every step keeps them in step (O55). -/

namespace Sys2Proof.Machine

/-! ## The sources and the entries in use, under a change of one entry -/

theorem lt_of_entryAt_ne_unused {t : RemapTable} {i : Nat} (h : entryAt t i ≠ .unused) : i < 64 :=
  Nat.lt_of_not_le fun le => h (entryAt_of_le t le)

theorem lt_of_entryAt_eq {t : RemapTable} {i : Nat} {e : RemapEntry} (h : entryAt t i = e) (used : e ≠ .unused) : i < 64 :=
  lt_of_entryAt_ne_unused (h ▸ used)

theorem entryAt_setEntry_same {t : RemapTable} {i : Nat} (hi : i < 64) (e : RemapEntry) :
    entryAt (setEntry t i e) i = e := by simp [entryAt_setEntry, hi]

theorem entryAt_setEntry_other {t : RemapTable} {i j : Nat} (h : j ≠ i) (e : RemapEntry) :
    entryAt (setEntry t i e) j = entryAt t j := by
  rw [entryAt_setEntry, if_neg fun both => h both.1.symm]

theorem setEntry_comm (t : RemapTable) {i j : Nat} (h : i ≠ j) (e f : RemapEntry) :
    setEntry (setEntry t i e) j f = setEntry (setEntry t j f) i e := by
  unfold setEntry
  ext k hk
  simp only [Vector.getElem_setIfInBounds]
  by_cases hj : j = k
  · simp [hj, show i ≠ k by omega]
  · simp [hj]

/-- No block is routed by two entries, and every source lies below `v` (R13, R17): `State.sourceLaw`, of a table. -/
def sourcesApart (v : Nat) (table : RemapTable) : Prop :=
  (∀ i j b, (entryAt table i).routed? = some b → (entryAt table j).routed? = some b → i = j)
    ∧ ∀ i b, (entryAt table i).source? = some b → b < v

theorem RemapEntry.source?_of_routed? {e : RemapEntry} {b : Nat} (h : e.routed? = some b) : e.source? = some b := by
  cases e <;> simp_all [RemapEntry.routed?, RemapEntry.source?]

theorem lt_of_source? {t : RemapTable} {i b : Nat} (h : (entryAt t i).source? = some b) : i < 64 :=
  lt_of_entryAt_ne_unused fun e => by rw [e] at h; cases h

theorem State.sourceLaw_iff {s : State} : s.sourceLaw ↔ sourcesApart s.settings.visible s.remap := by
  have inside : ∀ {i b}, (entryAt s.remap i).routed? = some b → i < 64 := fun h =>
    lt_of_source? (RemapEntry.source?_of_routed? h)
  constructor
  · rintro ⟨apart, below⟩
    refine ⟨fun i j b hi hj => ?_, fun i b h => below i (lt_of_source? h) b h⟩
    by_contra ne
    rcases apart i (inside hi) j (inside hj) ne with none_routed | differ
    · simp [none_routed] at hi
    · exact differ (hi.trans hj.symm)
  · rintro ⟨apart, below⟩
    refine ⟨fun i _ j _ ne => ?_, fun i _ b h => below i b h⟩
    cases hi : (entryAt s.remap i).routed? with
    | none => exact .inl rfl
    | some b => exact .inr fun same => ne (apart i j b hi same.symm)

/-- A new entry whose block no other entry routes. -/
theorem sourcesApart.setEntry {v : Nat} {table : RemapTable} (h : sourcesApart v table) (i : Nat) (e : RemapEntry)
    (below : ∀ b, e.source? = some b → b < v)
    (alone : ∀ b, e.routed? = some b → ∀ j, j ≠ i → (entryAt table j).routed? ≠ some b) :
    sourcesApart v (setEntry table i e) := by
  obtain ⟨apart, sources⟩ := h
  refine ⟨fun j k b hj hk => ?_, fun j b hj => ?_⟩
  · rw [entryAt_setEntry] at hj hk
    split at hj
    · split at hk
      · omega
      · rename_i hi other
        by_contra ne
        exact alone b hj k (by omega) hk
    · split at hk
      · by_contra ne
        exact alone b hk j (by omega) hj
      · exact apart j k b hj hk
  · rw [entryAt_setEntry] at hj
    split at hj
    · exact below b hj
    · exact sources j b hj

/-- A new entry that routes nothing and has no new source. -/
theorem sourcesApart.setEntry_quiet {v : Nat} {table : RemapTable} (h : sourcesApart v table) (i : Nat) {e : RemapEntry}
    (quiet : e.routed? = none) (source : e.source? = none ∨ e.source? = (entryAt table i).source?) :
    sourcesApart v (Machine.setEntry table i e) := by
  refine h.setEntry i e (fun b hb => ?_) (by simp [quiet])
  rcases source with none_named | same
  · simp [none_named] at hb
  · exact h.2 i b (same ▸ hb)

/-- The entries below `n` are in use, and no others (R15): `State.spareLaw`, of a table. -/
def usedBelow (n : Nat) (table : RemapTable) : Prop := ∀ i, i < 64 → (entryAt table i = .unused ↔ n ≤ i)

theorem usedBelow.setEntry {n : Nat} {table : RemapTable} (h : usedBelow n table) {i : Nat} {e : RemapEntry}
    (was : entryAt table i ≠ .unused) (is : e ≠ .unused) : usedBelow n (setEntry table i e) := by
  intro j hj
  by_cases same : j = i
  · subst same
    rw [entryAt_setEntry_same hj]
    exact iff_of_false is (was ∘ (h j hj).mpr)
  · rw [entryAt_setEntry_other same]
    exact h j hj

theorem freeSpares_eq_zero {t : RemapTable} : freeSpares t = 0 ↔ ∀ i, entryAt t i ≠ .free := by
  unfold freeSpares
  rw [List.countP_eq_zero]
  constructor
  · intro h i free
    exact h _ (mem_toList_iff.mpr ⟨i, lt_of_entryAt_eq free nofun, rfl⟩) (by simp [free])
  · intro h e he free
    obtain ⟨i, -, rfl⟩ := mem_toList_iff.mp he
    exact h i (by simpa using free)

/-! ## Views of the engine and of the copy access -/

/-- The line of the copy access outstanding whose result the engine will take. -/
def State.copyLine? (s : State) : Option Nat :=
  match s.port.outstanding with
  | some a => if a.discarded = false ∧ a.purpose.requester = .migration then some a.line else none
  | none => none

theorem State.copyLine?_eq_some {s : State} {l : Nat} : s.copyLine? = some l ↔
    ∃ a, s.port.outstanding = some a ∧ a.discarded = false ∧ a.purpose.requester = .migration ∧ a.line = l := by
  unfold State.copyLine?
  cases s.port.outstanding with
  | none => simp
  | some a => simp [and_assoc]

theorem State.copyLine?_of_none {s : State} (h : s.port.outstanding = none) : s.copyLine? = none := by
  simp [State.copyLine?, h]

theorem Engine.work?_eq_some {e : Engine} {work : CopyWork} : e.work? = some work ↔ e = .copying work := by
  cases e <;> simp [Engine.work?]

theorem Engine.work?_eq_none {e : Engine} : e.work? = none ↔ ∀ work, e ≠ .copying work := by
  cases e <;> simp [Engine.work?]

/-- The place a request for a copy names: the from-location of the COPYING entry (R32, R41). -/
def CopyFrom.place (copyFrom : CopyFrom) (source : Nat) : Location :=
  match copyFrom with
  | .source => .visible source
  | .leaving j => .spare j

/-- A migration in flight: the engine's target, the entry it copies into, that entry's partner and the head request. -/
structure State.Flies (s : State) (work : CopyWork) (source : Nat) (copyFrom : CopyFrom) (cursor : Nat) (origin : Origin)
    (r : Request) (rest : List Request) : Prop where
  migration : s.migration = { queue := r :: rest, engine := .copying work }
  entry : entryAt s.remap work.target = .copying source copyFrom cursor origin
  cursor_le : cursor ≤ 15
  only : ∀ i, i ≠ work.target → (entryAt s.remap i).isCopying = false
  leaves : ∀ j, (entryAt s.remap j).isLeaving = true → copyFrom = .leaving j
  partner : ∀ j, copyFrom = .leaving j → ∃ old, entryAt s.remap j = .leaving source old
  started : r.started = true
  waits : ∀ x ∈ rest, x.started = false
  place : r.location = copyFrom.place source
  line : ∀ l, s.copyLine? = some l → l = cursor

/-- No migration in flight: no COPYING or LEAVING entry, no request started, and no copy access whose result will be taken. -/
structure State.Rests (s : State) : Prop where
  engine : s.migration.engine.work? = none
  entries : ∀ i, (entryAt s.remap i).isCopying = false ∧ (entryAt s.remap i).isLeaving = false
  waits : ∀ x ∈ s.migration.queue, x.started = false
  line : s.copyLine? = none

theorem RemapEntry.lt_of_isCopying {t : RemapTable} {i : Nat} (h : (entryAt t i).isCopying = true) : i < 64 :=
  lt_of_entryAt_ne_unused fun e => by rw [e] at h; cases h

theorem RemapEntry.lt_of_isLeaving {t : RemapTable} {i : Nat} (h : (entryAt t i).isLeaving = true) : i < 64 :=
  lt_of_entryAt_ne_unused fun e => by rw [e] at h; cases h

theorem RemapEntry.copy?_eq_some {e : RemapEntry} {source cursor : Nat} {copyFrom : CopyFrom} :
    e.copy? = some (source, copyFrom, cursor) ↔ ∃ origin, e = .copying source copyFrom cursor origin := by
  cases e <;> simp [RemapEntry.copy?]

theorem RemapEntry.isLeaving_iff {e : RemapEntry} : e.isLeaving = true ↔ ∃ source origin, e = .leaving source origin := by
  cases e <;> simp [RemapEntry.isLeaving]

theorem State.tableLaw.sources {s : State} (h : s.tableLaw) : sourcesApart s.settings.visible s.remap :=
  State.sourceLaw_iff.mp h.1

theorem State.tableLaw.used {s : State} (h : s.tableLaw) : usedBelow s.settings.spares s.remap := by
  obtain ⟨-, -, -, -, used⟩ := h
  exact used

theorem State.tableLaw.modes {s : State} (h : s.tableLaw) : s.engineModeLaw := by
  obtain ⟨-, -, -, modes, -⟩ := h
  exact modes

/-- What the laws say of a bridge whose engine is COPYING. -/
theorem State.tableLaw.flies {s : State} (h : s.tableLaw) {work : CopyWork} (hw : s.migration.engine = .copying work) :
    ∃ source copyFrom cursor origin r rest, s.Flies work source copyFrom cursor origin r rest := by
  obtain ⟨-, ⟨targets, partners, copies, lines⟩, ⟨tail, head, places⟩, -, -⟩ := h
  have works : s.migration.engine.work? = some work := Engine.work?_eq_some.mpr hw
  obtain ⟨target, ⟨source, copyFrom, cursor⟩, entry, cursor_le, partner⟩ := copies work works
  obtain ⟨r, hr, c, hc, place⟩ := places work works
  obtain rfl : (source, copyFrom, cursor) = c := Option.some.inj (entry.symm.trans hc)
  obtain ⟨origin, entry⟩ := RemapEntry.copy?_eq_some.mp entry
  obtain ⟨rest, queue⟩ : ∃ rest, s.migration.queue = r :: rest := by
    cases hq : s.migration.queue with
    | nil => simp [hq] at hr
    | cons x rest => exact ⟨rest, by simpa [hq] using hr⟩
  refine ⟨source, copyFrom, cursor, origin, r, rest, ⟨by rw [← queue, ← hw], entry, cursor_le, fun i ne => ?_, fun j hj => ?_,
    fun j hj => ?_, (head r hr).mpr (by simp [works]), fun x hx => tail x (by simpa [queue] using hx), ?_, fun l hl => ?_⟩⟩
  · by_contra copying
    obtain ⟨w, hw', rfl⟩ := (targets i (RemapEntry.lt_of_isCopying (by simpa using copying))).mp (by simpa using copying)
    exact ne (by rw [Option.some.inj (works.symm.trans hw')])
  · obtain ⟨w, hw', c, hc', same⟩ := partners j (RemapEntry.lt_of_isLeaving hj) hj
    obtain rfl : work = w := Option.some.inj (works.symm.trans hw')
    obtain rfl : (source, copyFrom, cursor) = c := Option.some.inj (hc.symm.trans hc')
    exact same
  · obtain ⟨-, leaving, same⟩ := partner j (by simp [hj, CopyFrom.leaving?])
    obtain ⟨was, old, he⟩ := RemapEntry.isLeaving_iff.mp leaving
    obtain rfl : was = source := by simpa [he, RemapEntry.source?] using same
    exact ⟨old, he⟩
  · cases copyFrom <;> exact place
  · obtain ⟨a, ha, taken, mine, rfl⟩ := State.copyLine?_eq_some.mp hl
    obtain ⟨w, hw', c, hc', same⟩ := lines a ha taken mine
    obtain rfl : work = w := Option.some.inj (works.symm.trans hw')
    obtain rfl : (source, copyFrom, cursor) = c := Option.some.inj (hc.symm.trans hc')
    exact same

/-- What the laws say of a bridge whose engine is not COPYING. -/
theorem State.tableLaw.rests {s : State} (h : s.tableLaw) (hw : s.migration.engine.work? = none) : s.Rests := by
  obtain ⟨-, ⟨targets, partners, -, lines⟩, ⟨tail, head, -⟩, -, -⟩ := h
  refine ⟨hw, fun i => ⟨?_, ?_⟩, fun x hx => ?_, ?_⟩
  · by_contra copying
    obtain ⟨w, hw', -⟩ := (targets i (RemapEntry.lt_of_isCopying (by simpa using copying))).mp (by simpa using copying)
    simp [hw] at hw'
  · by_contra leaving
    obtain ⟨w, hw', -⟩ := partners i (RemapEntry.lt_of_isLeaving (by simpa using leaving)) (by simpa using leaving)
    simp [hw] at hw'
  · cases hq : s.migration.queue with
    | nil => simp [hq] at hx
    | cons r rest =>
      rw [hq] at hx
      rcases List.mem_cons.mp hx with rfl | behind
      · simpa [hw] using head x (by simp [hq])
      · exact tail x (by simpa [hq] using behind)
  · by_contra some_line
    obtain ⟨l, hl⟩ := Option.ne_none_iff_exists'.mp some_line
    obtain ⟨a, ha, taken, mine, -⟩ := State.copyLine?_eq_some.mp hl
    obtain ⟨w, hw', -⟩ := lines a ha taken mine
    simp [hw] at hw'

/-- A migration in flight, ONLINE, meets the laws with the sources apart and the entries below S in use. -/
theorem State.Flies.tableLaw {s : State} {work : CopyWork} {source cursor : Nat} {copyFrom : CopyFrom} {origin : Origin}
    {r : Request} {rest : List Request} (f : s.Flies work source copyFrom cursor origin r rest)
    (sources : sourcesApart s.settings.visible s.remap) (online : s.mode = .online)
    (used : usedBelow s.settings.spares s.remap) : s.tableLaw := by
  have works : s.migration.engine.work? = some work := by simp [f.migration, Engine.work?]
  have copy : (entryAt s.remap work.target).copy? = some (source, copyFrom, cursor) := by simp [f.entry, RemapEntry.copy?]
  refine ⟨State.sourceLaw_iff.mpr sources, ⟨fun i hi => ?_, fun j hj leaving => ?_, fun w hw => ?_, fun a ha taken mine => ?_⟩,
    ⟨?_, ?_, fun w hw => ?_⟩, ⟨fun _ => online, ?_⟩, used⟩
  · by_cases same : i = work.target
    · subst same; simp [f.entry, RemapEntry.isCopying, works]
    · simp [f.only i same, works, Ne.symm same]
  · exact ⟨work, works, _, copy, f.leaves j leaving⟩
  · obtain rfl : work = w := Option.some.inj (works.symm.trans hw)
    refine ⟨lt_of_entryAt_eq f.entry nofun, _, copy, f.cursor_le, fun j hj => ?_⟩
    have named : copyFrom = .leaving j := by cases copyFrom <;> simp_all [CopyFrom.leaving?]
    obtain ⟨old, he⟩ := f.partner j named
    simp [he, RemapEntry.isLeaving, RemapEntry.source?, lt_of_entryAt_eq he nofun]
  · exact ⟨work, works, _, copy, f.line _ (State.copyLine?_eq_some.mpr ⟨a, ha, taken, mine, rfl⟩)⟩
  · simpa [f.migration] using f.waits
  · simp [f.migration, f.started, Engine.work?]
  · obtain rfl : work = w := Option.some.inj (works.symm.trans hw)
    refine ⟨r, by simp [f.migration], _, copy, f.place.trans ?_⟩
    cases copyFrom <;> rfl
  · simp [f.migration]

/-- A bridge with no migration in flight meets the laws with the sources apart, the entries below S in use, and a BLOCKED engine only
ONLINE with a head request and no FREE entry. -/
theorem State.Rests.tableLaw {s : State} (f : s.Rests) (sources : sourcesApart s.settings.visible s.remap)
    (blocked : s.migration.engine = .blocked → s.mode = .online ∧ s.migration.queue ≠ [] ∧ freeSpares s.remap = 0)
    (used : usedBelow s.settings.spares s.remap) : s.tableLaw := by
  refine ⟨State.sourceLaw_iff.mpr sources, ⟨fun i hi => ?_, fun j hj leaving => ?_, ?_, fun a ha taken mine => ?_⟩,
    ⟨fun r hr => f.waits r (List.mem_of_mem_tail hr), fun r hr => ?_, ?_⟩, ⟨fun busy => ?_, fun h => (blocked h).2⟩, used⟩
  · simp [(f.entries i).1, f.engine]
  · simp [(f.entries j).2] at leaving
  · simp [f.engine]
  · have := State.copyLine?_eq_some.mpr ⟨a, ha, taken, mine, rfl⟩
    simp [f.line] at this
  · simp [f.waits r (List.mem_of_mem_head? hr), f.engine]
  · simp [f.engine]
  · cases he : s.migration.engine with
    | idle => exact absurd he busy
    | blocked => exact (blocked he).1
    | copying work => exact absurd he (Engine.work?_eq_none.mp f.engine work)

/-! ## What leaves the table and the engine alone -/

/-- The engine without what it knows of the line under copy. -/
def Engine.bare (e : Engine) : Engine :=
  match e with
  | .copying work => .copying (CopyWork.attemptAt work.target 0)
  | .idle => .idle
  | .blocked => .blocked

theorem Engine.bare_eq_idle {e : Engine} : e.bare = .idle ↔ e = .idle := by cases e <;> simp [Engine.bare]

theorem Engine.bare_eq_blocked {e : Engine} : e.bare = .blocked ↔ e = .blocked := by cases e <;> simp [Engine.bare]

theorem Engine.work?_bare {e : Engine} : e.bare.work? = none ↔ e.work? = none := by
  cases e <;> simp [Engine.bare, Engine.work?]

theorem Engine.bare_of_copying {e : Engine} {work : CopyWork} (h : e.bare = (Engine.copying work).bare) :
    ∃ w, e = .copying w ∧ w.target = work.target := by
  cases e with
  | copying w => exact ⟨w, rfl, by simpa [Engine.bare, CopyWork.attemptAt] using h⟩
  | idle | blocked => simp [Engine.bare] at h

/-- `t` has the mode, the areas, the table and the engine of `s`, but for the line under copy; its queue is that of `s`, with new requests
behind it; and no copy access is outstanding in `t` that was not in `s`. -/
structure State.KeepsTable (t s : State) : Prop where
  mode : t.mode = s.mode
  visible : t.settings.visible = s.settings.visible
  spares : t.settings.spares = s.settings.spares
  remap : t.remap = s.remap
  queue : ∃ joined, t.migration.queue = s.migration.queue ++ joined ∧ ∀ x ∈ joined, x.started = false
  engine : t.migration.engine.bare = s.migration.engine.bare
  line : t.copyLine? = none ∨ t.copyLine? = s.copyLine?

/-- The copy access for line `l` is one for the line at the cursor, while the engine is COPYING. -/
def State.copiesLine (s : State) (l : Nat) : Prop :=
  ∀ work, s.migration.engine = .copying work → ∀ source copyFrom cursor origin,
    entryAt s.remap work.target = .copying source copyFrom cursor origin → l = cursor

theorem State.copyLine?_congr {t s : State} (h : t.port.outstanding = s.port.outstanding) : t.copyLine? = s.copyLine? := by
  rw [State.copyLine?, State.copyLine?, h]

namespace State.KeepsTable

/-- A change outside the mode, the areas, the table, the migration and the slot of the outstanding access. -/
theorem of_same {t s : State} (mode : t.mode = s.mode) (settings : t.settings = s.settings) (remap : t.remap = s.remap)
    (migration : t.migration = s.migration) (outstanding : t.port.outstanding = s.port.outstanding) : t.KeepsTable s :=
  ⟨mode, by rw [settings], by rw [settings], remap, ⟨[], by rw [migration, List.append_nil], nofun⟩, by rw [migration],
    .inr (State.copyLine?_congr outstanding)⟩

@[refl] theorem refl (s : State) : s.KeepsTable s := .of_same rfl rfl rfl rfl rfl

theorem trans {u t s : State} (h : u.KeepsTable t) (k : t.KeepsTable s) : u.KeepsTable s where
  mode := h.mode.trans k.mode
  visible := h.visible.trans k.visible
  spares := h.spares.trans k.spares
  remap := h.remap.trans k.remap
  queue := by
    obtain ⟨late, hq, hl⟩ := h.queue
    obtain ⟨early, kq, kl⟩ := k.queue
    refine ⟨early ++ late, by rw [hq, kq, List.append_assoc], fun x hx => ?_⟩
    exact (List.mem_append.mp hx).elim (kl x) (hl x)
  engine := h.engine.trans k.engine
  line := h.line.elim .inl fun same => same ▸ k.line

theorem copiesLine {t s : State} (h : t.KeepsTable s) {l : Nat} (c : s.copiesLine l) : t.copiesLine l := by
  intro work hw source copyFrom cursor origin entry
  have bare := h.engine.symm
  rw [hw] at bare
  obtain ⟨w, he, target⟩ := Engine.bare_of_copying bare
  exact c w he source copyFrom cursor origin (by rw [target, ← h.remap]; exact entry)

/-- Every law of the table is kept by what leaves the table and the engine alone. -/
theorem tableLaw {t s : State} (k : t.KeepsTable s) (h : s.tableLaw) : t.tableLaw := by
  obtain ⟨online, blocked⟩ := h.modes
  have sources : sourcesApart t.settings.visible t.remap := by rw [k.visible, k.remap]; exact h.sources
  have used : usedBelow t.settings.spares t.remap := by rw [k.spares, k.remap]; exact h.used
  obtain ⟨joined, queue, unstarted⟩ := k.queue
  cases hw : s.migration.engine.work? with
  | some work =>
    have hw := Engine.work?_eq_some.mp hw
    obtain ⟨w, he, target⟩ := Engine.bare_of_copying (k.engine.trans (congrArg Engine.bare hw))
    obtain ⟨source, copyFrom, cursor, origin, r, rest, f⟩ := h.flies hw
    have flies : t.Flies w source copyFrom cursor origin r (rest ++ joined) :=
      { migration := by
          have : t.migration.queue = r :: (rest ++ joined) := by rw [queue, f.migration]; rfl
          rw [← this, ← he]
        entry := by rw [target, k.remap]; exact f.entry
        cursor_le := f.cursor_le
        only := by rw [target, k.remap]; exact f.only
        leaves := by rw [k.remap]; exact f.leaves
        partner := by rw [k.remap]; exact f.partner
        started := f.started
        waits := fun x hx => (List.mem_append.mp hx).elim (f.waits x) (unstarted x)
        place := f.place
        line := fun l hl => f.line l (by rcases k.line with gone | same <;> simp_all) }
    exact flies.tableLaw sources (k.mode.trans (online (by simp [hw]))) used
  | none =>
    have f := h.rests hw
    have rests : t.Rests :=
      { engine := by rw [← Engine.work?_bare, k.engine, Engine.work?_bare]; exact hw
        entries := by rw [k.remap]; exact f.entries
        waits := fun x hx => by
          rw [queue] at hx
          exact (List.mem_append.mp hx).elim (f.waits x) (unstarted x)
        line := by rcases k.line with gone | same <;> simp_all [f.line] }
    refine rests.tableLaw sources (fun is => ?_) used
    have was : s.migration.engine = .blocked := by
      rw [← Engine.bare_eq_blocked, ← k.engine, Engine.bare_eq_blocked]; exact is
    obtain ⟨some_head, none_free⟩ := blocked was
    exact ⟨k.mode.trans (online (by simp [was])), by simp [queue, some_head], by rw [k.remap]; exact none_free⟩

end State.KeepsTable

theorem State.joinQueue_keepsTable (s : State) (l : Location) (o : RequestOrigin) : (s.joinQueue l o).KeepsTable s :=
  ⟨rfl, rfl, rfl, rfl, ⟨_, rfl, by simp⟩, rfl, .inr rfl⟩

theorem State.queueEntry_keepsTable (s : State) (l : Location) : (s.queueEntry l).KeepsTable s := .of_same rfl rfl rfl rfl rfl

theorem State.makeRecord_keepsTable (s : State) (b : RecordBody) : (s.makeRecord b).KeepsTable s :=
  .of_same rfl rfl rfl rfl rfl

theorem State.setProgress_keepsTable (s : State) (p : Progress) : (s.setProgress p).KeepsTable s :=
  .of_same rfl rfl rfl rfl rfl

theorem State.offerWaiting_keepsTable (s : State) : s.offerWaiting.KeepsTable s := by
  unfold State.offerWaiting
  split
  · exact .refl s
  · split
    · exact s.queueEntry_keepsTable _
    · split
      · exact (State.joinQueue_keepsTable _ _ _).trans (s.queueEntry_keepsTable _)
      · exact .refl s

theorem State.placeFreed_keepsTable (s : State) : s.placeFreed.KeepsTable s := by
  unfold State.placeFreed
  split
  · exact s.offerWaiting_keepsTable
  · exact .refl s

theorem State.placesFreed_keepsTable (n : Nat) (s : State) : (State.placesFreed n s).KeepsTable s := by
  induction n generalizing s with
  | zero => exact .refl s
  | succ n ih => exact (ih _).trans s.placeFreed_keepsTable

theorem State.settleFate_keepsTable (s : State) (fate : MigrationFate) : (s.settleFate fate).KeepsTable s :=
  .of_same (by simp) (by simp) (by simp) (by simp) (by simp)

theorem State.discardOutstanding_copyLine? (s : State) (r : Requester) :
    (s.discardOutstanding r).copyLine? = if r = .migration then none else s.copyLine? := by
  unfold State.discardOutstanding State.copyLine?
  cases ho : s.port.outstanding with
  | none => simp [ho]
  | some a =>
    by_cases mine : a.purpose.requester = r
    · by_cases m : r = .migration <;> simp [mine, m]
    · by_cases m : r = .migration
      · subst m; simp [mine, ho]
      · simp [mine, m, ho]

theorem State.discardOutstanding_keepsTable (s : State) (r : Requester) : (s.discardOutstanding r).KeepsTable s where
  mode := by simp
  visible := by simp
  spares := by simp
  remap := by simp
  queue := ⟨[], by simp, nofun⟩
  engine := by simp
  line := by rw [State.discardOutstanding_copyLine?]; split <;> simp

theorem State.emptyWriteBack_keepsTable (s : State) : s.emptyWriteBack.KeepsTable s :=
  .trans (t := s.discardOutstanding .writeBack) (.of_same rfl rfl rfl rfl rfl) (s.discardOutstanding_keepsTable _)

theorem State.withdrawScrub_keepsTable (s : State) : s.withdrawScrub.KeepsTable s := by
  unfold State.withdrawScrub
  dsimp only
  split
  · exact .trans (t := s.discardOutstanding .scrub) (.of_same rfl rfl rfl rfl rfl) (s.discardOutstanding_keepsTable _)
  all_goals exact .of_same rfl rfl rfl rfl rfl

theorem State.freeSlot_copyLine? (s : State) : s.freeSlot.copyLine? = none := State.copyLine?_of_none rfl

theorem State.freeSlot_keepsTable (s : State) : s.freeSlot.KeepsTable s :=
  ⟨rfl, rfl, rfl, rfl, ⟨[], by simp, nofun⟩, rfl, .inl s.freeSlot_copyLine?⟩

theorem State.markOvertaken_keepsTable (s : State) (block line : Nat) : (s.markOvertaken block line).KeepsTable s := by
  unfold State.markOvertaken
  split
  · rename_i work hw
    split
    · split
      · exact ⟨rfl, rfl, rfl, rfl, ⟨[], by simp, nofun⟩, by simp [hw, Engine.bare], .inr rfl⟩
      · exact .refl s
    all_goals exact .refl s
  all_goals exact .refl s

/-! ## The try of a start -/

/-- A copy begun into a FREE entry of `base`, a table with no copy in flight, whose LEAVING entry, if it has one, is the from-location
(R24, R41). -/
theorem State.Rests.start {s : State} (f : s.Rests) (online : s.mode = .online) {base : RemapTable} {target source : Nat}
    {copyFrom : CopyFrom} {r : Request} {rest : List Request} (queue : s.migration.queue = r :: rest)
    (apart : sourcesApart s.settings.visible base) (used : usedBelow s.settings.spares base)
    (free : entryAt base target = .free) (below : source < s.settings.visible)
    (alone : ∀ j, (entryAt base j).routed? ≠ some source) (quiet : ∀ i, (entryAt base i).isCopying = false)
    (leaves : ∀ j, (entryAt base j).isLeaving = true → copyFrom = .leaving j)
    (partner : ∀ j, copyFrom = .leaving j → ∃ old, entryAt base j = .leaving source old)
    (place : r.location = copyFrom.place source) (origin : Origin) :
    State.tableLaw { s with
      remap := setEntry base target (.copying source copyFrom 0 origin)
      migration := { queue := { r with started := true } :: rest, engine := .copying (CopyWork.attemptAt target 0) } } := by
  have inside : target < 64 := lt_of_entryAt_eq free nofun
  have flies : State.Flies { s with
      remap := setEntry base target (.copying source copyFrom 0 origin)
      migration := { queue := { r with started := true } :: rest, engine := .copying (CopyWork.attemptAt target 0) } }
      (CopyWork.attemptAt target 0) source copyFrom 0 origin { r with started := true } rest :=
    { migration := rfl
      entry := entryAt_setEntry_same inside _
      cursor_le := Nat.zero_le _
      only := fun i ne => (congrArg _ (entryAt_setEntry_other ne _)).trans (quiet i)
      leaves := fun j hj => by
        by_cases same : j = target
        · subst same
          rw [entryAt_setEntry_same inside] at hj
          cases hj
        · rw [entryAt_setEntry_other same] at hj
          exact leaves j hj
      partner := fun j hj => by
        obtain ⟨old, he⟩ := partner j hj
        refine ⟨old, (entryAt_setEntry_other ?_ _).trans he⟩
        rintro rfl
        rw [free] at he
        cases he
      started := rfl
      waits := fun x hx => f.waits x (by simp [queue, hx])
      place := place
      line := fun l hl => by
        have gone : s.copyLine? = some l := hl
        simp [f.line] at gone }
  refine flies.tableLaw (apart.setEntry target _ (fun b hb => ?_) fun b hb j _ => ?_) online
    (used.setEntry (by simp [free]) nofun)
  · obtain rfl : source = b := by simpa [RemapEntry.source?] using hb
    exact below
  · obtain rfl : source = b := by simpa [RemapEntry.routed?] using hb
    exact alone j

/-- The start of a copy from a visible block, from the block itself (R24, R41). -/
theorem State.startMigration_visible (s : State) {r : Request} {b : Nat} (hl : r.location = .visible b) (rest : List Request)
    (target : Nat) : s.startMigration r rest target = State.makeRecord
      { s with
        remap := setEntry s.remap target (.copying b .source 0 r.origin.toOrigin)
        migration := { queue := { r with started := true } :: rest, engine := .copying (CopyWork.attemptAt target 0) } }
      { kind := .migrationStarted, source := .engine, location := some r.location, spare := some target } := by
  simp [State.startMigration, hl, startFromBlock]

/-- The start of a copy from an ACTIVE spare, whose entry becomes LEAVING (R24, R41). -/
theorem State.startMigration_spare {s : State} {r : Request} {j source : Nat} {old : Origin} (hl : r.location = .spare j)
    (active : entryAt s.remap j = .active source old) (rest : List Request) (target : Nat) :
    s.startMigration r rest target = State.makeRecord
      { s with
        remap :=
          setEntry (setEntry s.remap j (.leaving source old)) target (.copying source (.leaving j) 0 r.origin.toOrigin)
        migration := { queue := { r with started := true } :: rest, engine := .copying (CopyWork.attemptAt target 0) } }
      { kind := .migrationStarted, source := .engine, location := some r.location, spare := some target } := by
  simp [State.startMigration, hl, startFromSpare, active]

/-- The start of a valid head request while the engine is IDLE (R24, R39, R41). -/
theorem State.tableLaw.startMigration {s : State} (h : s.tableLaw) (idle : s.migration.engine = .idle) (online : s.mode = .online)
    {r : Request} {rest : List Request} (queue : s.migration.queue = r :: rest) (valid : s.validRequest r.location = true)
    {target : Nat} (free : entryAt s.remap target = .free) : (s.startMigration r rest target).tableLaw := by
  have f := h.rests (by simp [idle, Engine.work?])
  cases hl : r.location with
  | visible b =>
    rw [s.startMigration_visible hl]
    obtain ⟨below, alone⟩ : b < s.settings.visible ∧ entryFor s.remap b = none := by
      simpa [State.validRequest, hl] using valid
    refine (State.makeRecord_keepsTable _ _).tableLaw
      (f.start (copyFrom := .source) online queue h.sources h.used free below (fun j hj => ?_)
      (fun i => (f.entries i).1) (fun j hj => ?_) nofun hl _)
    · have := entryFor_none alone (lt_of_source? (RemapEntry.source?_of_routed? hj))
      cases he : entryAt s.remap j <;> simp_all [RemapEntry.routed?, RemapEntry.routes]
    · simp [f.entries] at hj
  | spare j =>
    obtain ⟨-, active⟩ : j < s.settings.spares ∧ (entryAt s.remap j).isActive = true := by
      simpa [State.validRequest, hl] using valid
    obtain ⟨source, old, hj⟩ : ∃ source old, entryAt s.remap j = .active source old := by
      cases he : entryAt s.remap j <;> simp_all [RemapEntry.isActive]
    have ne : target ≠ j := by rintro rfl; simp [hj] at free
    have inside : j < 64 := lt_of_entryAt_eq hj nofun
    have other : ∀ i, i ≠ j → entryAt (setEntry s.remap j (.leaving source old)) i = entryAt s.remap i :=
      fun i hi => entryAt_setEntry_other hi _
    have left : entryAt (setEntry s.remap j (.leaving source old)) j = .leaving source old := entryAt_setEntry_same inside _
    rw [State.startMigration_spare hl hj]
    refine (State.makeRecord_keepsTable _ _).tableLaw
      (f.start (base := setEntry s.remap j (.leaving source old)) (copyFrom := .leaving j) online queue
      (h.sources.setEntry_quiet j rfl (.inr (by rw [hj]; rfl))) (usedBelow.setEntry h.used (by simp [hj]) nofun)
      ((other target ne).trans free) (h.sources.2 j source (by simp [hj, RemapEntry.source?])) (fun i hi => ?_) (fun i => ?_)
      (fun i hi => ?_) (fun i hi => ⟨old, by rw [← CopyFrom.leaving.inj hi]; exact left⟩) hl _)
    · by_cases same : i = j
      · rw [same, left] at hi
        cases hi
      · rw [other i same] at hi
        exact same (h.sources.1 i j source hi (by simp [hj, RemapEntry.routed?]))
    · by_cases same : i = j
      · rw [same, left]; rfl
      · rw [other i same]; exact (f.entries i).1
    · by_cases same : i = j
      · rw [same]
      · simp [other i same, f.entries] at hi

theorem State.mayTry_iff {s : State} : s.mayTry = true ↔
    s.mode = .online ∧ s.migration.engine = .idle ∧ s.migration.queue ≠ [] ∧ s.port.link = .up ∧ s.dualPending = false := by
  simp [State.mayTry, and_assoc]

/-- An engine at rest with another queue, none of whose requests is started. -/
theorem State.tableLaw.requeue {s t : State} (h : s.tableLaw) (idle : t.migration.engine = .idle)
    (waits : ∀ x ∈ t.migration.queue, x.started = false) (engine : s.migration.engine.work? = none) (remap : t.remap = s.remap)
    (settings : t.settings = s.settings) (line : t.copyLine? = none ∨ t.copyLine? = s.copyLine?) : t.tableLaw := by
  have f := h.rests engine
  have rests : t.Rests :=
    ⟨by simp [idle, Engine.work?], by rw [remap]; exact f.entries, waits, by rcases line with gone | same <;> simp_all [f.line]⟩
  refine rests.tableLaw ?_ (by simp [idle]) ?_
  · rw [settings, remap]; exact h.sources
  · rw [settings, remap]; exact h.used

theorem State.tableLaw.tryLoop {s : State} (h : s.tableLaw) (n : Nat) : (State.tryLoop n s).tableLaw := by
  induction n generalizing s with
  | zero => exact h
  | succ n ih =>
    unfold State.tryLoop
    split
    · rename_i may
      obtain ⟨online, idle, -, -, -⟩ := State.mayTry_iff.mp may
      split
      · exact h
      · rename_i r rest queue
        have f := h.rests (by simp [idle, Engine.work?])
        split
        · rename_i valid
          split
          · rename_i none_free
            have rests : (s.block r.location).Rests := ⟨rfl, by simpa using f.entries, f.waits, f.line⟩
            refine rests.tableLaw h.sources (fun _ => ⟨online, ?_, ?_⟩) h.used
            · simp [State.block, queue]
            · rw [State.block_remap, freeSpares_eq_zero]
              intro i free
              exact lowestFree_none none_free (lt_of_entryAt_eq free nofun) free
          · rename_i target hfree
            exact h.startMigration idle online queue valid (lowestFree_some hfree).2.1
        · refine ih ((State.placeFreed_keepsTable _).tableLaw ?_)
          refine h.requeue (t := State.makeRecord { s.setQueue rest with watch := s.watch.remove r.location } _) idle ?_
            (by simp [idle, Engine.work?]) rfl rfl (.inr rfl)
          exact fun x hx => f.waits x (by simp [queue]; exact .inr hx)
    · exact h

theorem State.tableLaw.tryStart {s : State} (h : s.tableLaw) : s.tryStart.tableLaw := h.tryLoop _

/-! ## The end of a migration -/

/-- What a copy in flight makes of the table when it ends: the target `left`, and a LEAVING from-entry `back` (R25, R26). -/
def landed (table : RemapTable) (target : Nat) (copyFrom : CopyFrom) (left back : RemapEntry) : RemapTable :=
  match copyFrom with
  | .source => setEntry table target left
  | .leaving j => setEntry (setEntry table j back) target left

/-- An entry that a copy may leave behind: in use, neither COPYING nor LEAVING, and of no source but the copy's. -/
structure RemapEntry.Settled (e : RemapEntry) (source : Nat) : Prop where
  used : e ≠ .unused
  copying : e.isCopying = false
  leaving : e.isLeaving = false
  source : ∀ b, e.source? = some b → b = source

theorem RemapEntry.Settled.free (source : Nat) : RemapEntry.free.Settled source := ⟨nofun, rfl, rfl, nofun⟩

theorem RemapEntry.Settled.retired (reason : RetireReason) (source : Nat) : (RemapEntry.retired reason).Settled source :=
  ⟨nofun, rfl, rfl, nofun⟩

theorem RemapEntry.Settled.active (source : Nat) (origin : Origin) : (RemapEntry.active source origin).Settled source :=
  ⟨nofun, rfl, rfl, fun _ h => (Option.some.inj h).symm⟩

section
variable {s : State} {work : CopyWork} {source cursor : Nat} {copyFrom : CopyFrom} {origin : Origin} {r : Request}
  {rest : List Request} (f : s.Flies work source copyFrom cursor origin r rest)
include f

theorem State.Flies.target_lt : work.target < 64 := lt_of_entryAt_eq f.entry nofun

/-- No entry but the target routes the block under copy. -/
theorem State.Flies.alone {v : Nat} (sources : sourcesApart v s.remap) {j : Nat} (h : j ≠ work.target) :
    (entryAt s.remap j).routed? ≠ some source :=
  fun routed => h (sources.1 j work.target source routed (by rw [f.entry]; rfl))

/-- The end of a copy leaves no entry COPYING or LEAVING. -/
theorem State.Flies.landed_entries {left back : RemapEntry} (hl : left.Settled source) (hb : back.Settled source) (i : Nat) :
    (entryAt (landed s.remap work.target copyFrom left back) i).isCopying = false
      ∧ (entryAt (landed s.remap work.target copyFrom left back) i).isLeaving = false := by
  have leaves := f.leaves i
  cases copyFrom with
  | source =>
    by_cases same : i = work.target
    · rw [landed, same, entryAt_setEntry_same f.target_lt]
      exact ⟨hl.copying, hl.leaving⟩
    · rw [landed, entryAt_setEntry_other same]
      exact ⟨f.only i same, by simpa using leaves⟩
  | leaving j =>
    by_cases same : i = work.target
    · rw [landed, same, entryAt_setEntry_same f.target_lt]
      exact ⟨hl.copying, hl.leaving⟩
    · rw [landed, entryAt_setEntry_other same]
      by_cases left_behind : i = j
      · obtain ⟨old, he⟩ := f.partner j rfl
        rw [left_behind, entryAt_setEntry_same (lt_of_entryAt_eq he nofun)]
        exact ⟨hb.copying, hb.leaving⟩
      · rw [entryAt_setEntry_other left_behind]
        exact ⟨f.only i same, by simpa [Ne.symm left_behind] using leaves⟩

theorem State.Flies.landed_used {n : Nat} (used : usedBelow n s.remap) {left back : RemapEntry} (hl : left.Settled source)
    (hb : back.Settled source) : usedBelow n (landed s.remap work.target copyFrom left back) := by
  have target : entryAt s.remap work.target ≠ .unused := by simp [f.entry]
  cases copyFrom with
  | source => exact used.setEntry target hl.used
  | leaving j =>
    obtain ⟨old, he⟩ := f.partner j rfl
    refine (used.setEntry (by simp [he]) hb.used).setEntry ?_ hl.used
    rw [entryAt_setEntry_other (by rintro rfl; simp [f.entry] at he)]
    exact target

/-- Of the two entries a copy leaves behind one at most may route its block. -/
theorem State.Flies.landed_sources {v : Nat} (sources : sourcesApart v s.remap) {left back : RemapEntry}
    (hl : left.Settled source) (hb : back.Settled source) (one : left.routed? = none ∨ back.routed? = none) :
    sourcesApart v (landed s.remap work.target copyFrom left back) := by
  have below : source < v := sources.2 work.target source (by rw [f.entry]; rfl)
  have mine : ∀ {e : RemapEntry}, e.Settled source → ∀ {b}, e.routed? = some b → b = source := fun he _ hb =>
    he.source _ (RemapEntry.source?_of_routed? hb)
  cases copyFrom with
  | source =>
    refine sources.setEntry work.target left (fun b h => hl.source b h ▸ below) fun b h j ne => ?_
    rw [mine hl h]
    exact f.alone sources ne
  | leaving j =>
    obtain ⟨old, he⟩ := f.partner j rfl
    have ne : j ≠ work.target := by rintro rfl; simp [f.entry] at he
    rcases one with quiet | quiet
    · rw [landed, setEntry_comm _ ne]
      refine (sources.setEntry work.target left (fun b h => hl.source b h ▸ below) (by simp [quiet])).setEntry j back
        (fun b h => hb.source b h ▸ below) fun b h i _ => ?_
      rw [mine hb h]
      by_cases same : i = work.target
      · rw [same, entryAt_setEntry_same f.target_lt, quiet]; nofun
      · rw [entryAt_setEntry_other same]; exact f.alone sources same
    · refine (sources.setEntry j back (fun b h => hb.source b h ▸ below) (by simp [quiet])).setEntry work.target left
        (fun b h => hl.source b h ▸ below) fun b h i ne' => ?_
      rw [mine hl h]
      by_cases same : i = j
      · rw [same, entryAt_setEntry_same (lt_of_entryAt_eq he nofun), quiet]; nofun
      · rw [entryAt_setEntry_other same]; exact f.alone sources ne'

/-- A migration that has ended, in whatever way: the table landed, the engine IDLE, no request started, no copy access whose result
will be taken. -/
theorem State.Flies.tableLaw_landed (sources : sourcesApart s.settings.visible s.remap) (used : usedBelow s.settings.spares s.remap)
    {left back : RemapEntry} (hl : left.Settled source) (hb : back.Settled source)
    (one : left.routed? = none ∨ back.routed? = none) {t : State} (settings : t.settings = s.settings)
    (remap : t.remap = landed s.remap work.target copyFrom left back) (idle : t.migration.engine = .idle)
    (waits : ∀ x ∈ t.migration.queue, x.started = false) (line : t.copyLine? = none) : t.tableLaw := by
  have rests : t.Rests :=
    ⟨by simp [idle, Engine.work?], by rw [remap]; exact f.landed_entries hl hb, waits, line⟩
  refine rests.tableLaw ?_ (by simp [idle]) ?_
  · rw [settings, remap]; exact f.landed_sources sources hl hb one
  · rw [settings, remap]; exact f.landed_used used hl hb

theorem State.Flies.completeEntries_eq : completeEntries s.remap work.target
    = landed s.remap work.target copyFrom (.active source origin) (.retired .replaced) := by
  unfold completeEntries settleLeaving landed
  rw [f.entry]
  cases copyFrom with
  | source => rfl
  | leaving j =>
    obtain ⟨old, he⟩ := f.partner j rfl
    simp [he]

/-- The table an abort leaves is a landed one: the target `left`, a LEAVING from-entry ACTIVE again. -/
theorem State.Flies.abortsTo (left : RemapEntry) :
    ∃ old, s.abortsTo work.target left (landed s.remap work.target copyFrom left (.active source old)) := by
  cases copyFrom with
  | source => exact ⟨origin, source, cursor, origin, .inl ⟨f.entry, rfl⟩⟩
  | leaving j =>
    obtain ⟨old, he⟩ := f.partner j rfl
    exact ⟨old, source, cursor, origin, .inr ⟨j, source, old, f.entry, he, rfl⟩⟩

end

/-- What becomes of the request of a migration that has ended leaves only requests that are not started. -/
theorem State.disposeRequest_keepsTable (s : State) (cause : AbortCause) (r : Request) {rest : List Request}
    (waits : ∀ x ∈ rest, x.started = false) (target : Nat) :
    ∃ queue, (∀ x ∈ queue, x.started = false) ∧ (s.disposeRequest cause r rest target).KeepsTable (s.setQueue queue) := by
  cases cause with
  | stopped | reset => exact ⟨{ r with started := false } :: rest, by simpa using waits, .refl _⟩
  | cancelled => exact ⟨rest, waits, (State.placeFreed_keepsTable _).trans (.of_same rfl rfl rfl rfl rfl)⟩
  | targetFailed | readFailed =>
    unfold State.disposeRequest State.failRequest
    dsimp only
    split
    · exact ⟨rest, waits, (State.placeFreed_keepsTable _).trans (.of_same rfl rfl rfl rfl rfl)⟩
    · refine ⟨_, fun x hx => ?_, .refl _⟩
      rcases List.mem_append.mp hx with behind | last
      · exact waits x behind
      · rw [List.mem_singleton.mp last]

/-- An abort leaves the engine IDLE and the laws of the table as they were, also in a change that has just left ONLINE. -/
theorem State.tableLaw.abortMigration {s : State} (h : State.tableLaw { s with mode := .online }) (cause : AbortCause)
    {work : CopyWork} (hw : s.migration.engine = .copying work) :
    (s.abortMigration cause).tableLaw ∧ (s.abortMigration cause).migration.engine = .idle := by
  obtain ⟨source, copyFrom, cursor, origin, r, rest, f⟩ := h.flies hw
  obtain ⟨left, hl⟩ : ∃ left : RemapEntry, left = if cause = .targetFailed then .retired .writeFailed else .free := ⟨_, rfl⟩
  have settled : left.Settled source ∧ left.routed? = none := by
    rw [hl]
    split
    · exact ⟨.retired _ _, rfl⟩
    · exact ⟨.free _, rfl⟩
  obtain ⟨old, aborts⟩ := f.abortsTo left
  rw [State.abortMigration_eq (s := s) f.migration hl aborts]
  obtain ⟨queue, waits, keeps⟩ := State.disposeRequest_keepsTable
    (s.afterAbort work r (landed s.remap work.target copyFrom left (.active source old)) cause.detail) cause r f.waits work.target
  refine ⟨keeps.tableLaw (f.tableLaw_landed h.sources h.used settled.1 (.active source old) (.inl settled.2) rfl rfl rfl waits ?_),
    State.disposeRequest_engine ..⟩
  have gone := State.discardOutstanding_copyLine? s .migration
  rw [State.discardMigration_eq, if_pos rfl] at gone
  exact gone

theorem State.tableLaw.online {s : State} (h : s.tableLaw) : State.tableLaw { s with mode := .online } := by
  obtain ⟨sources, copies, started, ⟨-, blocked⟩, used⟩ := h
  exact ⟨sources, copies, started, ⟨fun _ => rfl, blocked⟩, used⟩

/-- With no migration in flight an abort changes nothing. -/
theorem State.abortMigration_of_none {s : State} (h : s.migration.engine.work? = none) (cause : AbortCause) :
    s.abortMigration cause = s := by
  unfold State.abortMigration
  split
  · rename_i work _ _ hw _
    simp [hw, Engine.work?] at h
  all_goals rfl

theorem State.tableLaw.abort {s : State} (h : s.tableLaw) (cause : AbortCause) : (s.abortMigration cause).tableLaw := by
  cases hw : s.migration.engine.work? with
  | none => rw [State.abortMigration_of_none hw]; exact h
  | some work => exact (h.online.abortMigration cause (Engine.work?_eq_some.mp hw)).1

/-- GO_OFFLINE and a system reset leave the engine IDLE, and the laws of the table as they were (R40, R55). -/
theorem State.tableLaw.stopEngine {s : State} (h : State.tableLaw { s with mode := .online }) (cause : AbortCause) :
    (s.stopEngine cause).tableLaw ∧ (s.stopEngine cause).migration.engine = .idle := by
  unfold State.stopEngine
  split
  · rename_i work hw
    exact h.abortMigration cause hw
  · rename_i hw
    refine ⟨h.requeue rfl (h.rests (by simp [hw, Engine.work?])).waits (by simp [hw, Engine.work?]) rfl rfl (.inr rfl), rfl⟩
  · rename_i hw
    exact ⟨h.requeue hw (h.rests (by simp [hw, Engine.work?])).waits (by simp [hw, Engine.work?]) rfl rfl (.inr rfl), hw⟩

/-- The copy of line 15 ends a migration: its table is landed, the target ACTIVE and a LEAVING from-entry RETIRED (R25, R49). -/
theorem State.tableLaw.completeMigration {s : State} (h : s.tableLaw) {work : CopyWork} (hw : s.migration.engine = .copying work)
    (line : s.copyLine? = none) : (s.completeMigration work).tableLaw := by
  obtain ⟨source, copyFrom, cursor, origin, r, rest, f⟩ := h.flies hw
  have complete : (s.completeMigration work).KeepsTable
      { s with remap := completeEntries s.remap work.target, migration := { queue := rest, engine := .idle } } := by
    unfold State.completeMigration
    rw [f.migration]
    refine (State.placeFreed_keepsTable _).trans ((State.makeRecord_keepsTable _ _).trans
      ((State.settleFate_keepsTable _ _).trans (.of_same rfl rfl rfl rfl rfl)))
  refine complete.tableLaw (f.tableLaw_landed h.sources h.used (.active source origin) (.retired .replaced source) (.inr rfl)
    rfl f.completeEntries_eq rfl f.waits line)

/-- A line below 15 copied: the cursor of the target moves to the next one (R44). -/
theorem State.tableLaw.advance {s : State} (h : s.tableLaw) {work : CopyWork} (hw : s.migration.engine = .copying work)
    (line : s.copyLine? = none) {l : Nat} (copies : s.copiesLine l) (below : l < 15) :
    State.tableLaw { s with
      remap := advanceCursor s.remap work.target
      migration := { s.migration with engine := .copying (CopyWork.attemptAt work.target 0) } } := by
  obtain ⟨source, copyFrom, cursor, origin, r, rest, f⟩ := h.flies hw
  obtain rfl : l = cursor := copies work hw source copyFrom cursor origin f.entry
  have table : advanceCursor s.remap work.target = setEntry s.remap work.target (.copying source copyFrom (l + 1) origin) := by
    simp [advanceCursor, f.entry]
  rw [table]
  have flies : State.Flies { s with
      remap := setEntry s.remap work.target (.copying source copyFrom (l + 1) origin)
      migration := { s.migration with engine := .copying (CopyWork.attemptAt work.target 0) } }
      (CopyWork.attemptAt work.target 0) source copyFrom (l + 1) origin r rest :=
    { migration := by simp [f.migration]
      entry := entryAt_setEntry_same f.target_lt _
      cursor_le := by omega
      only := fun i ne => (congrArg _ (entryAt_setEntry_other ne _)).trans (f.only i ne)
      leaves := fun j hj => by
        by_cases same : j = work.target
        · rw [same, entryAt_setEntry_same f.target_lt] at hj
          cases hj
        · rw [entryAt_setEntry_other same] at hj
          exact f.leaves j hj
      partner := fun j hj => by
        obtain ⟨old, he⟩ := f.partner j hj
        exact ⟨old, (entryAt_setEntry_other (by rintro rfl; simp [f.entry] at he) _).trans he⟩
      started := f.started
      waits := f.waits
      place := f.place
      line := fun k hk => by
        have gone : s.copyLine? = some k := hk
        simp [line] at gone }
  refine flies.tableLaw (h.sources.setEntry work.target _ (fun b hb => ?_) fun b hb j ne => ?_) (h.modes.1 (by simp [hw]))
    (usedBelow.setEntry h.used (by simp [f.entry]) nofun)
  · obtain rfl : source = b := by simpa [RemapEntry.source?] using hb
    exact h.sources.2 work.target source (by simp [f.entry, RemapEntry.source?])
  · obtain rfl : source = b := by simpa [RemapEntry.routed?] using hb
    exact f.alone h.sources ne

/-! ## The words of a read, and the ends of accesses -/

theorem State.tableLaw.becomeCandidate {s : State} (h : s.tableLaw) (source : RecordSource) (l : Location) (o : Nat) :
    (s.becomeCandidate source l o).tableLaw := by
  unfold State.becomeCandidate
  dsimp only
  split
  · exact h
  · split
    · exact State.tableLaw.tryStart ((State.joinQueue_keepsTable _ _ _).tableLaw h)
    · exact h

theorem State.tableLaw.countOutcome {s : State} (h : s.tableLaw) (source : RecordSource) (l : Location) (o : Nat)
    (bad full : Bool) : (s.countOutcome source l o bad full).1.tableLaw := by
  unfold State.countOutcome
  split
  · split <;> exact h
  · have counted : ∀ w, State.tableLaw { s with watch := w } := fun _ => h
    split
    · exact counted _
    · dsimp only
      split
      · exact (counted _).becomeCandidate _ _ _
      · exact counted _

theorem State.tableLaw.takeWord {s : State} (h : s.tableLaw) (use : ReadUse) (word : Nat) (w : StoredWord) (full : Bool) :
    (s.takeWord use word w full).1.tableLaw := by
  unfold State.takeWord
  dsimp only
  split
  · exact h
  · have noted : ∀ b, State.tableLaw (if s.settings.recordCorrected then s.makeRecord b else s) := by
      intro b
      split <;> exact h
    have counted := fun b => (noted b).countOutcome use.source (locationOf s.settings use.block) (16 * use.line + word) false full
    split <;> exact counted _
  · exact State.tableLaw.countOutcome (s := s.makeRecord _) h _ _ _ _ _
  · split <;> exact h

theorem State.tableLaw.takeWords {s : State} (h : s.tableLaw) (use : ReadUse) (word : Nat) (ws : List StoredWord)
    (full : Bool) : (s.takeWords use word ws full).tableLaw := by
  induction ws generalizing s word full with
  | nil => exact h
  | cons w ws ih => exact ih (h.takeWord use word w full) _ _

theorem State.tableLaw.endSpareStore {s : State} (h : s.tableLaw) (t : Transaction) (work : StoreWork) (dual : DualWrite)
    (ending : Ending) : (s.endSpareStore t work dual ending).tableLaw := by
  have finished : (s.finishRun work).tableLaw := by
    unfold State.finishRun
    split <;> exact h
  unfold State.endSpareStore
  split
  · exact finished
  · exact finished.abort _
  · exact h
  · exact finished

theorem State.tableLaw.endStore {s : State} (h : s.tableLaw) (t : Transaction) (work : StoreWork) (spare : Bool)
    (ending : Ending) : (s.endStore t work spare ending).tableLaw := by
  unfold State.endStore
  split
  · exact h.endSpareStore _ _ _ _
  · exact h
  · split
    · exact h
    · unfold State.finishRun
      split <;> exact h
    · exact h

/-- The end of an access of the upstream port touches the table only through what its words bring and the abort of a migration. -/
theorem State.tableLaw.endUpstream {s : State} (h : s.tableLaw) (spare : Bool) (block : Nat) (ending : Ending) :
    (s.endUpstream spare block ending).tableLaw := by
  unfold State.endUpstream
  split
  · unfold State.endFetch
    split
    · exact h
    · exact h.takeWords _ _ _ _
  · unfold State.endMergeRead
    split
    · exact h
    · exact h.takeWords _ _ _ _
  · exact h.endStore _ _ _ _
  · exact h

theorem State.tableLaw.endWithoutIssue {s : State} (h : s.tableLaw) : s.endWithoutIssue.tableLaw := by
  unfold State.endWithoutIssue
  split
  · exact h.endUpstream _ _ _
  · exact h

theorem State.tableLaw.settle {s : State} (h : s.tableLaw) : s.settle.tableLaw := h.endWithoutIssue.endWithoutIssue.tryStart

theorem State.advanceScrub_keepsTable (s : State) : s.advanceScrub.KeepsTable s :=
  .of_same (by simp) (by simp) (by simp) (by simp) (by simp)

theorem State.tableLaw.endScrub {s : State} (h : s.tableLaw) (block line : Nat) (ending : Ending) :
    (s.endScrub block line ending).tableLaw := by
  unfold State.endScrub
  dsimp only
  split
  · exact (State.advanceScrub_keepsTable _).tableLaw (h.takeWords _ _ _ _)
  · exact (State.advanceScrub_keepsTable _).tableLaw h

theorem State.tableLaw.endCopyRead {s : State} (h : s.tableLaw) (block line : Nat) (ending : Ending) :
    (s.endCopyRead block line ending).tableLaw := by
  unfold State.endCopyRead
  split
  · rename_i work words hw
    refine State.tableLaw.takeWords (State.KeepsTable.tableLaw (s := s) ?_ h) _ _ _ _
    exact ⟨rfl, rfl, rfl, rfl, ⟨[], by simp, nofun⟩, by simp [hw, Engine.bare], .inr rfl⟩
  · rename_i work hw
    split
    · refine State.KeepsTable.tableLaw (s := s) ?_ h
      exact ⟨rfl, rfl, rfl, rfl, ⟨[], by simp, nofun⟩, by simp [hw, Engine.bare], .inr rfl⟩
    · exact h.abort _
  all_goals exact h

/-- The end of a copy write, the copy access no longer outstanding and its line the one at the cursor (R44, R49, R50). -/
theorem State.tableLaw.endCopyWrite {s : State} (h : s.tableLaw) (gone : s.copyLine? = none) {line : Nat}
    (copies : s.copiesLine line) (ending : Ending) : (s.endCopyWrite line ending).tableLaw := by
  unfold State.endCopyWrite
  split
  · rename_i work _ hw
    split
    · refine State.KeepsTable.tableLaw (s := s) ?_ h
      exact ⟨rfl, rfl, rfl, rfl, ⟨[], by simp, nofun⟩, by simp [hw, Engine.bare, CopyWork.attemptAt], .inr rfl⟩
    · split
      · rename_i below
        exact h.advance hw gone copies below
      · exact h.completeMigration hw gone
  · exact h.abort _
  all_goals exact h

/-- The ending of access `a` handed to its requester: when the engine takes it, the copy access is no longer outstanding and was for
the line at the cursor. -/
theorem State.tableLaw.hand {s : State} (h : s.tableLaw) {a : Access}
    (copy : a.discarded = false → a.purpose.requester = .migration → s.copyLine? = none ∧ s.copiesLine a.line)
    (ending : Ending) : (s.hand a ending).tableLaw := by
  unfold State.hand
  split
  · exact h
  · rename_i taken
    split
    iterate 5 exact h.endUpstream _ _ _
    · exact h.endCopyRead _ _ _
    · rename_i write
      obtain ⟨gone, copies⟩ := copy (by simpa using taken) (by simp [write, Purpose.requester])
      exact h.endCopyWrite gone copies ending
    · exact h.endScrub _ _ _
    · exact h

/-! ## The grant -/

/-- An access of another requester than the engine leaves no copy access outstanding. -/
theorem State.issue_keepsTable (s : State) {p : Purpose} (other : p.requester ≠ .migration) (block line first count : Nat)
    (words : List StoredWord) : (s.issue p block line first count words).KeepsTable s where
  mode := by simp
  visible := by simp
  spares := by simp
  remap := by simp
  queue := ⟨[], by simp, nofun⟩
  engine := by simp
  line := by
    refine .inl ?_
    unfold State.issue
    dsimp only
    split <;> simp [State.copyLine?, other]

theorem State.applyInjection_keepsTable (s : State) (address : Nat) (forms : List StoredWord) :
    (s.applyInjection address forms).1.KeepsTable s :=
  .of_same (by simp) (by simp) (by simp) (by simp) (by simp)

theorem State.grantRun_keepsTable (s : State) (address : Nat) (work : StoreWork) (run : StoreRun) :
    (s.grantRun address work run).KeepsTable s := by
  have applied := fun base => (State.markOvertaken_keepsTable _ (blockOf address) (lineOf address)).trans
    (s.applyInjection_keepsTable base run.forms)
  unfold State.grantRun
  dsimp only
  split
  · exact (State.issue_keepsTable _ (by decide) _ _ _ _ _).trans (applied _)
  · exact (State.issue_keepsTable _ (by decide) _ _ _ _ _).trans ((State.setProgress_keepsTable _ _).trans (applied _))

theorem State.grantUpstream_keepsTable (s : State) : s.grantUpstream.KeepsTable s := by
  unfold State.grantUpstream
  split
  · exact s.issue_keepsTable (by decide) _ _ _ _ _
  · split
    · exact s.issue_keepsTable (by decide) _ _ _ _ _
    · exact .refl s
  · split
    · exact s.grantRun_keepsTable _ _ _
    · exact s.issue_keepsTable (by decide) _ _ _ _ _
    · exact .refl s
  · exact .refl s

theorem State.grantWriteBack_keepsTable (s : State) : s.grantWriteBack.KeepsTable s := by
  unfold State.grantWriteBack
  split
  · exact .refl s
  · exact s.issue_keepsTable (by decide) _ _ _ _ _

theorem State.grantScrub_keepsTable (s : State) : s.grantScrub.KeepsTable s :=
  .trans (t := { s with scrubber := { s.scrubber with state := .pending } })
    (State.issue_keepsTable (p := .scrubRead) _ (by decide) _ _ _ _ _) (.of_same rfl rfl rfl rfl rfl)

theorem State.countPassOver_keepsTable (s : State) (busy : List Requester) (r : Requester) :
    (s.countPassOver busy r).KeepsTable s := .of_same rfl rfl rfl rfl rfl

/-- A copy access is issued for the line at the cursor. -/
theorem State.tableLaw.issueCopy {s : State} (h : s.tableLaw) {work : CopyWork} (hw : s.migration.engine = .copying work)
    {source cursor : Nat} {copyFrom : CopyFrom} {origin : Origin}
    (entry : entryAt s.remap work.target = .copying source copyFrom cursor origin) (p : Purpose) (block first count : Nat)
    (words : List StoredWord) : (s.issue p block cursor first count words).tableLaw := by
  obtain ⟨_, _, _, _, r, rest, f⟩ := h.flies hw
  obtain ⟨rfl, rfl, rfl, rfl⟩ := RemapEntry.copying.inj (entry.symm.trans f.entry)
  have flies : (s.issue p block cursor first count words).Flies work source copyFrom cursor origin r rest :=
    { migration := by simpa using f.migration
      entry := by simpa using f.entry
      cursor_le := f.cursor_le
      only := by simpa using f.only
      leaves := by simpa using f.leaves
      partner := by simpa using f.partner
      started := f.started
      waits := f.waits
      place := f.place
      line := fun l hl => by
        obtain ⟨a, ha, -, -, rfl⟩ := State.copyLine?_eq_some.mp hl
        unfold State.issue at ha
        dsimp only at ha
        split at ha <;> (obtain rfl := Option.some.inj ha; rfl) }
  exact flies.tableLaw (by simpa using h.sources) (by simpa using h.modes.1 (by simp [hw])) (by simpa using h.used)

theorem State.tableLaw.grantMigration {s : State} (h : s.tableLaw) : s.grantMigration.tableLaw := by
  unfold State.grantMigration
  split
  · rename_i work hw
    unfold State.grantCopy
    split
    · rename_i entry
      split
      · refine State.tableLaw.issueCopy (s := { s with migration := { s.migration with
            engine := .copying { work with inFlight := true, holding := work.held } } }) (State.KeepsTable.tableLaw (s := s) ?_ h)
          rfl entry _ _ _ _ _
        exact ⟨rfl, rfl, rfl, rfl, ⟨[], by simp, nofun⟩, by simp [hw, Engine.bare], .inr rfl⟩
      · exact h.issueCopy hw entry _ _ _ _ _
    all_goals exact h
  all_goals exact h

/-- The grant issues an access for the line at the cursor to the engine, or leaves the table and the engine alone. -/
theorem State.tableLaw.grant {s : State} (h : s.tableLaw) (busy : List Requester) : (s.grant busy).tableLaw := by
  unfold State.grant
  split
  · dsimp only
    split
    · exact (State.grantUpstream_keepsTable _).tableLaw h
    · exact (State.grantWriteBack_keepsTable _).tableLaw h
    · exact State.tableLaw.grantMigration (s := s.countPassOver busy .migration) h
    · exact (State.grantScrub_keepsTable _).tableLaw h
  · exact h

/-- With the engine barred from it, a grant leaves the table and the engine alone. -/
theorem State.grant_keepsTable {s : State} {busy : List Requester} (barred : .migration ∈ busy) : (s.grant busy).KeepsTable s := by
  unfold State.grant
  split
  · rename_i r _ choice
    dsimp only
    split
    · exact (State.grantUpstream_keepsTable _).trans (s.countPassOver_keepsTable busy _)
    · exact (State.grantWriteBack_keepsTable _).trans (s.countPassOver_keepsTable busy _)
    · exact absurd barred (State.choose_some choice).1
    · exact (State.grantScrub_keepsTable _).trans (s.countPassOver_keepsTable busy _)
  · exact .refl s

/-! ## Responses and expiries -/

/-- The outstanding access of the engine is for the line at the cursor (R37). -/
theorem State.tableLaw.copies {s : State} (h : s.tableLaw) {a : Access} (ha : s.port.outstanding = some a)
    (taken : a.discarded = false) (mine : a.purpose.requester = .migration) : s.copiesLine a.line := by
  intro work hw source copyFrom cursor origin entry
  obtain ⟨_, _, _, _, r, rest, f⟩ := h.flies hw
  obtain ⟨rfl, rfl, rfl, rfl⟩ := RemapEntry.copying.inj (f.entry.symm.trans entry)
  exact f.line _ (State.copyLine?_eq_some.mpr ⟨a, ha, taken, mine, rfl⟩)

/-- The access of the engine keeps it from a grant taken before the ending. -/
theorem State.migration_mem_busyAfter (s : State) {a : Access} (taken : a.discarded = false)
    (mine : a.purpose.requester = .migration) (failed : Bool) : .migration ∈ s.busyAfter a failed := by
  have other : a.purpose ≠ .writeBack := by rintro h; simp [h, Purpose.requester] at mine
  simp [State.busyAfter, other, taken, mine]

/-- An ending, whether or not the next grant is taken first: the laws hold, and the copy access that ends is no longer outstanding and
was for the line at the cursor. -/
theorem State.tableLaw.grantIfFirst {s u : State} (h : s.tableLaw) (k : u.KeepsTable s) (gone : u.copyLine? = none) {a : Access}
    (ha : s.port.outstanding = some a) (first failed : Bool) :
    (u.grantIfFirst first a failed).tableLaw
      ∧ (a.discarded = false → a.purpose.requester = .migration →
        (u.grantIfFirst first a failed).copyLine? = none ∧ (u.grantIfFirst first a failed).copiesLine a.line) := by
  unfold State.grantIfFirst
  split
  · refine ⟨(k.tableLaw h).grant _, fun taken mine => ?_⟩
    have kept := State.grant_keepsTable (s := u) (u.migration_mem_busyAfter taken mine failed)
    exact ⟨kept.line.elim id (·.trans gone), kept.copiesLine (k.copiesLine (h.copies ha taken mine))⟩
  · exact ⟨k.tableLaw h, fun taken mine => ⟨gone, k.copiesLine (h.copies ha taken mine)⟩⟩

theorem State.tableLaw.handOk {s : State} (h : s.tableLaw) {a : Access}
    (copy : a.discarded = false → a.purpose.requester = .migration → s.copyLine? = none ∧ s.copiesLine a.line)
    (words : List StoredWord) : (s.handOk a words).tableLaw := by
  unfold State.handOk
  split
  · exact h.hand copy _
  · exact State.tableLaw.hand (s := (s.receive a words).1) h copy _

theorem State.tableLaw.answerAccess {s : State} (h : s.tableLaw) {a : Access} (ha : s.port.outstanding = some a)
    (result : MemResult) (words : List StoredWord) (first : Bool) : (s.answerAccess a result words first).tableLaw := by
  unfold State.answerAccess
  split
  · obtain ⟨law, copy⟩ := h.grantIfFirst s.freeSlot_keepsTable s.freeSlot_copyLine? ha first false
    exact (law.handOk copy words).settle
  · obtain ⟨law, copy⟩ := h.grantIfFirst ((State.makeRecord_keepsTable _ (linkRecord s.settings .linkFault a)).trans
      s.freeSlot_keepsTable) s.freeSlot_copyLine? ha first true
    exact (law.hand copy .failed).settle

theorem State.tableLaw.takeResponse {s : State} (h : s.tableLaw) (tag : Tag) (result : MemResult) (words : List StoredWord)
    (first : Bool) : (s.takeResponse tag result words first).tableLaw := by
  have stray : (s.strayResponse tag).tableLaw := by
    unfold State.strayResponse
    split <;> exact h
  unfold State.takeResponse
  split
  · rename_i a ha
    split
    · exact h.answerAccess ha result words first
    · exact stray
  · exact stray

theorem State.linkGoesDown_keepsTable (s : State) : s.linkGoesDown.KeepsTable s := .of_same rfl rfl rfl rfl rfl

theorem State.tableLaw.expireResponse {s : State} (h : s.tableLaw) (first : Bool) : (s.expireResponse first).tableLaw := by
  unfold State.expireResponse
  split
  · exact h
  · rename_i a ha
    dsimp only
    have ended : ∀ v : State, v.KeepsTable s.freeSlot → v.copyLine? = none →
        ((v.grantIfFirst first a true).hand a .failed).settle.tableLaw := by
      intro v hv none_left
      obtain ⟨law, copy⟩ := h.grantIfFirst (hv.trans s.freeSlot_keepsTable) none_left ha first true
      exact (law.hand copy .failed).settle
    split
    · exact ended _ ((State.linkGoesDown_keepsTable _).trans (.of_same rfl rfl rfl rfl rfl)) s.freeSlot_copyLine?
    · exact ended _ (.of_same rfl rfl rfl rfl rfl) s.freeSlot_copyLine?

theorem State.tableLaw.checkResponseTimer {s : State} (h : s.tableLaw) : s.checkResponseTimer.tableLaw := by
  unfold State.checkResponseTimer
  split
  · split
    · exact h.expireResponse false
    · exact h
  · exact h

theorem State.checkIntervalTimer_keepsTable (s : State) : s.checkIntervalTimer.KeepsTable s :=
  .of_same (by simp) (by simp) (by simp) (by simp) (by simp)

theorem State.passMicrosecond_keepsTable (s : State) : s.passMicrosecond.KeepsTable s where
  mode := rfl
  visible := rfl
  spares := rfl
  remap := rfl
  queue := ⟨[], by simp, nofun⟩
  engine := rfl
  line := by
    refine .inr ?_
    unfold State.copyLine? State.passMicrosecond
    cases s.port.outstanding <;> rfl

theorem State.tableLaw.tick {s : State} (h : s.tableLaw) : s.tick.tableLaw :=
  (State.checkIntervalTimer_keepsTable _).tableLaw (s.passMicrosecond_keepsTable.tableLaw h).checkResponseTimer

/-! ## Modes and resets -/

/-- Outside ONLINE the engine is IDLE (R37). -/
theorem State.tableLaw.idle_of_mode {s : State} (h : s.tableLaw) (other : s.mode ≠ .online) : s.migration.engine = .idle := by
  by_contra busy
  exact other (h.modes.1 busy)

/-- With the engine IDLE the mode may change, and whatever is no part of the table. -/
theorem State.tableLaw.rest {s t : State} (h : s.tableLaw) (idle : s.migration.engine = .idle) (remap : t.remap = s.remap)
    (settings : t.settings = s.settings) (migration : t.migration = s.migration)
    (line : t.copyLine? = none ∨ t.copyLine? = s.copyLine?) : t.tableLaw := by
  have none_copied : s.migration.engine.work? = none := by simp [idle, Engine.work?]
  exact h.requeue (by rw [migration]; exact idle) (by rw [migration]; exact (h.rests none_copied).waits) none_copied remap settings
    line

theorem State.startOver_tableLaw (s : State) (straps : BitVec 2) : (s.startOver straps).tableLaw := by
  have blank : ∀ i, entryAt (s.startOver straps).remap i = .unused := by
    intro i
    simp only [State.startOver, State.poweredOn, entryAt]
    by_cases hi : i < 64 <;> simp [hi]
  have rests : (s.startOver straps).Rests :=
    ⟨rfl, by simp [blank, RemapEntry.isCopying, RemapEntry.isLeaving], by simp [State.startOver, State.poweredOn], rfl⟩
  refine rests.tableLaw ⟨?_, ?_⟩ nofun fun i _ => ?_
  · simp [blank, RemapEntry.routed?]
  · simp [blank, RemapEntry.source?]
  · exact iff_of_true (blank i) (Nat.zero_le i)

theorem State.tableLaw.endStopping {s : State} (h : s.tableLaw) : s.endStopping.tableLaw := by
  unfold State.endStopping
  split
  · rename_i stopping
    exact h.rest (h.idle_of_mode (by simp [stopping])) rfl rfl rfl (.inr rfl)
  · exact h

/-- The migration stopped, the scrub withdrawn and the buffer emptied, for GO_OFFLINE (R149). -/
theorem State.tableLaw.leaveOnline {s : State} (h : s.tableLaw) : s.leaveOnline.tableLaw := by
  have stopped := State.tableLaw.stopEngine (s := { s with mode := .stopping }) h.online .stopped
  refine State.tableLaw.endStopping ((State.emptyWriteBack_keepsTable _).tableLaw ?_)
  exact (State.withdrawScrub_keepsTable _).tableLaw stopped.1

theorem State.tableLaw.systemReset {s : State} (h : s.tableLaw) : s.systemReset.tableLaw := by
  have dropped : s.dropTransactions.tableLaw :=
    State.KeepsTable.tableLaw (s := s.discardOutstanding .upstream) (.of_same rfl rfl rfl rfl rfl)
      ((s.discardOutstanding_keepsTable _).tableLaw h)
  obtain ⟨stopped, idle⟩ := dropped.online.stopEngine .reset
  have withdrawn := (State.discardOutstanding_keepsTable _ .scrub).trans ((State.withdrawScrub_keepsTable _).trans
    ((State.discardOutstanding_keepsTable _ .migration).trans (s.dropTransactions.stopEngine .reset).emptyWriteBack_keepsTable))
  refine State.tableLaw.rest (withdrawn.tableLaw stopped) ?_ rfl rfl rfl (.inr rfl)
  rw [← Engine.bare_eq_idle, withdrawn.engine, idle]
  rfl

theorem State.tableLaw.goOnline {s : State} (h : s.tableLaw) : s.goOnline.tableLaw := by
  unfold State.goOnline
  split
  · rename_i offline
    split
    · refine State.tableLaw.tryStart (s := State.followTimer { s with mode := .online }) ?_
      exact h.rest (h.idle_of_mode (by simp [offline])) rfl rfl rfl (.inr rfl)
    · exact h
  all_goals exact h

theorem State.tableLaw.goOffline {s : State} (h : s.tableLaw) : s.goOffline.tableLaw := by
  unfold State.goOffline
  split
  · exact h.leaveOnline
  all_goals exact h

/-! ## The acceptance queue -/

theorem State.beginHead_keepsTable (s : State) : s.beginHead.KeepsTable s :=
  .of_same (by simp) (by simp) (by simp) (by simp) (by simp)

theorem State.tableLaw.accept {s : State} (h : s.tableLaw) (t : Transaction) : (s.accept t).tableLaw := by
  have joined : ∀ held, State.tableLaw { s with upstream := held } := fun _ => h
  unfold State.accept
  dsimp only
  split
  · exact ((State.beginHead_keepsTable _).tableLaw (joined _)).settle
  · exact joined _

theorem State.tableLaw.leaveQueue {s : State} (h : s.tableLaw) : s.leaveQueue.tableLaw := by
  have left : State.tableLaw { s with upstream := { s.upstream with held := s.upstream.held.tail } } := h
  exact ((State.beginHead_keepsTable _).tableLaw left.endStopping).settle

/-! ## The geometry -/

/-- New areas and a new table while the engine is IDLE. -/
theorem State.tableLaw.resize {s : State} (h : s.tableLaw) (idle : s.migration.engine = .idle) {c : Settings} {table : RemapTable}
    (sources : sourcesApart c.visible table) (used : usedBelow c.spares table)
    (entries : ∀ i, (entryAt table i).isCopying = false ∧ (entryAt table i).isLeaving = false) :
    State.tableLaw { s with settings := c, remap := table } := by
  have f := h.rests (by simp [idle, Engine.work?])
  have rests : State.Rests { s with settings := c, remap := table } := ⟨f.engine, entries, f.waits, f.line⟩
  exact rests.tableLaw sources (fun blocked => by simp [idle] at blocked) used

theorem State.tableLaw.pruneTables {s : State} (h : s.tableLaw) (idle : s.migration.engine = .idle) : s.pruneTables.tableLaw := by
  have none_copied : s.migration.engine.work? = none := by simp [idle, Engine.work?]
  refine (State.placesFreed_keepsTable _ _).tableLaw (h.requeue idle (fun x hx => ?_) none_copied rfl rfl (.inr rfl))
  exact (h.rests none_copied).waits x (List.mem_of_mem_filter hx)

theorem State.tableLaw.emptyAndPrune {s : State} (h : s.tableLaw) (idle : s.migration.engine = .idle) :
    s.emptyWriteBack.pruneTables.tableLaw :=
  (s.emptyWriteBack_keepsTable.tableLaw h).pruneTables (by simpa using idle)

/-- A write of V above every source (R16). -/
theorem State.tableLaw.writeVisible {s : State} (h : s.tableLaw) (value : Nat) : (s.writeVisible value).tableLaw := by
  refine State.offlineOnly_of (P := State.tableLaw) h fun offline => State.ranged_of (P := State.tableLaw) h fun _ _ => ?_
  have idle := h.idle_of_mode (by simp [offline])
  split
  · exact h
  · rename_i above
    have f := h.rests (by simp [idle, Engine.work?])
    have below : ∀ i b, (entryAt s.remap i).source? = some b → b < value := fun i b hb =>
      Nat.lt_of_not_le fun le => above (sourceAtOrAbove_iff.mpr ⟨i, lt_of_source? hb, b, hb, le⟩)
    exact State.tableLaw.emptyAndPrune
      (h.resize (c := { s.settings with visible := value }) idle ⟨h.sources.1, below⟩ h.used f.entries) idle

/-- A write of S: the entries that go are FREE or UNUSED, and those that come are FREE (R15). -/
theorem State.tableLaw.writeSpares {s : State} (h : s.tableLaw) (value : Nat) : (s.writeSpares value).tableLaw := by
  refine State.offlineOnly_of (P := State.tableLaw) h fun offline => State.ranged_of (P := State.tableLaw) h fun _ most => ?_
  have idle := h.idle_of_mode (by simp [offline])
  split
  · exact h
  · rename_i unused
    have f := h.rests (by simp [idle, Engine.work?])
    have entry : ∀ i, entryAt (resizeEntries s.remap s.settings.spares value) i = .free
        ∨ entryAt (resizeEntries s.remap s.settings.spares value) i = .unused
        ∨ entryAt (resizeEntries s.remap s.settings.spares value) i = entryAt s.remap i := by
      intro i
      by_cases hi : i < 64
      · rw [entryAt_resizeEntries _ _ _ hi]
        split_ifs <;> simp
      · exact .inr (.inl (entryAt_of_le _ (by omega)))
    have sources : sourcesApart s.settings.visible (resizeEntries s.remap s.settings.spares value) := by
      refine ⟨fun i j b hi hj => ?_, fun i b hb => ?_⟩
      · rcases entry i with e | e | e <;> rw [e] at hi
        · cases hi
        · cases hi
        · rcases entry j with e' | e' | e' <;> rw [e'] at hj
          · cases hj
          · cases hj
          · exact h.sources.1 i j b hi hj
      · rcases entry i with e | e | e <;> rw [e] at hb
        · cases hb
        · cases hb
        · exact h.sources.2 i b hb
    have used : usedBelow value (resizeEntries s.remap s.settings.spares value) := by
      intro i hi
      have was := h.used i hi
      rw [entryAt_resizeEntries _ _ _ hi]
      split_ifs with came went
      · simp; omega
      · simp; omega
      · rw [was]; omega
    refine State.tableLaw.emptyAndPrune (h.resize (c := { s.settings with spares := value }) idle sources used fun i => ?_) idle
    rcases entry i with e | e | e <;> rw [e]
    · exact ⟨rfl, rfl⟩
    · exact ⟨rfl, rfl⟩
    · exact f.entries i

/-! ## The repair commands -/

/-- A new entry in the place of one that is in use and not part of a copy, and that is no part of one itself. -/
theorem State.tableLaw.setEntry {s : State} (h : s.tableLaw) {i : Nat} {e : RemapEntry}
    (was : entryAt s.remap i ≠ .unused ∧ (entryAt s.remap i).isCopying = false ∧ (entryAt s.remap i).isLeaving = false)
    (is : e ≠ .unused ∧ e.isCopying = false ∧ e.isLeaving = false)
    (sources : sourcesApart s.settings.visible (Machine.setEntry s.remap i e))
    (free : e = .free → s.migration.engine ≠ .blocked) : State.tableLaw { s with remap := Machine.setEntry s.remap i e } := by
  have inside := lt_of_entryAt_ne_unused was.1
  have here : entryAt (Machine.setEntry s.remap i e) i = e := entryAt_setEntry_same inside e
  have there : ∀ j, j ≠ i → entryAt (Machine.setEntry s.remap i e) j = entryAt s.remap j := fun j ne =>
    entryAt_setEntry_other ne e
  have used := usedBelow.setEntry h.used was.1 is.1
  cases hw : s.migration.engine.work? with
  | some work =>
    have hw := Engine.work?_eq_some.mp hw
    obtain ⟨source, copyFrom, cursor, origin, r, rest, f⟩ := h.flies hw
    have target : work.target ≠ i := by rintro rfl; simp [f.entry, RemapEntry.isCopying] at was
    have flies : State.Flies { s with remap := Machine.setEntry s.remap i e } work source copyFrom cursor origin r rest :=
      { migration := f.migration
        entry := (there _ target).trans f.entry
        cursor_le := f.cursor_le
        only := fun j ne => by
          by_cases same : j = i
          · exact (congrArg _ (same ▸ here)).trans is.2.1
          · exact (congrArg _ (there j same)).trans (f.only j ne)
        leaves := fun j hj => by
          by_cases same : j = i
          · rw [same, here, is.2.2] at hj
            cases hj
          · rw [there j same] at hj
            exact f.leaves j hj
        partner := fun j hj => by
          obtain ⟨old, he⟩ := f.partner j hj
          exact ⟨old, (there j (by rintro rfl; simp [he, RemapEntry.isLeaving] at was)).trans he⟩
        started := f.started
        waits := f.waits
        place := f.place
        line := f.line }
    exact flies.tableLaw sources (h.modes.1 (by simp [hw])) used
  | none =>
    have f := h.rests hw
    have rests : State.Rests { s with remap := Machine.setEntry s.remap i e } := by
      refine ⟨f.engine, fun j => ?_, f.waits, f.line⟩
      by_cases same : j = i
      · subst same; rw [here]; exact is.2
      · rw [there j same]; exact f.entries j
    refine rests.tableLaw sources (fun blocked => ?_) used
    have blocked : s.migration.engine = .blocked := blocked
    obtain ⟨head, none_free⟩ := h.modes.2 blocked
    refine ⟨h.modes.1 (by simp [blocked]), head, freeSpares_eq_zero.mpr fun j hj => ?_⟩
    by_cases same : j = i
    · exact free (here.symm.trans (same ▸ hj)) blocked
    · exact freeSpares_eq_zero.mp none_free j ((there j same).symm.trans hj)

theorem namesSource_iff {t : RemapTable} {b : Nat} :
    namesSource t b = true ↔ ∃ j, j < 64 ∧ (entryAt t j).source? = some b := by
  unfold namesSource
  rw [List.any_eq_true]
  constructor
  · rintro ⟨e, he, h⟩
    obtain ⟨i, hi, rfl⟩ := mem_toList_iff.mp he
    exact ⟨i, hi, eq_of_beq h⟩
  · rintro ⟨i, hi, h⟩
    exact ⟨_, mem_toList_iff.mpr ⟨i, hi, rfl⟩, by simp [h]⟩

/-- A repair restored into a FREE entry: a block that no entry names (R27). -/
theorem State.tableLaw.restoreRemap {s : State} (h : s.tableLaw) (i : Nat) (state : Option RestoreState) (source : Nat) :
    (s.restoreRemap i state source).tableLaw := by
  have plain : entryAt s.remap i = .free → entryAt s.remap i ≠ .unused ∧ (entryAt s.remap i).isCopying = false
      ∧ (entryAt s.remap i).isLeaving = false := fun free => by rw [free]; exact ⟨nofun, rfl, rfl⟩
  unfold State.restoreRemap
  split
  · exact h
  · split
    · exact h
    · split
      · exact h
      · split
        · exact h
        · rename_i free
          exact h.setEntry (plain (by simpa using free)) ⟨nofun, rfl, rfl⟩ (h.sources.setEntry_quiet i rfl (.inl rfl)) nofun
      · split
        · exact h
        · rename_i below
          split
          · exact h
          · rename_i free
            split
            · exact h
            · rename_i alone
              refine h.setEntry (plain (by simpa using free)) ⟨nofun, rfl, rfl⟩
                (h.sources.setEntry i _ (fun b hb => ?_) fun b hb j _ routed => alone ?_) nofun
              · obtain rfl : source = b := by simpa [RemapEntry.source?] using hb
                omega
              · obtain rfl : source = b := by simpa [RemapEntry.routed?] using hb
                have named := RemapEntry.source?_of_routed? routed
                exact namesSource_iff.mpr ⟨j, lt_of_source? named, named⟩

theorem State.tableLaw.dropRemap {s : State} (h : s.tableLaw) (i : Nat) : (s.dropRemap i).tableLaw := by
  unfold State.dropRemap
  split
  · exact h
  · rename_i offline
    split
    · exact h
    · split
      · exact h
      · rename_i active
        have idle := h.idle_of_mode (by rw [not_not.mp offline]; nofun)
        refine h.setEntry ?_ ⟨nofun, rfl, rfl⟩ (h.sources.setEntry_quiet i rfl (.inl rfl)) (fun _ => by simp [idle])
        cases he : entryAt s.remap i <;> simp_all [RemapEntry.isActive, RemapEntry.isCopying, RemapEntry.isLeaving]

theorem State.tableLaw.releaseSpare {s : State} (h : s.tableLaw) (i : Nat) : (s.releaseSpare i).tableLaw := by
  unfold State.releaseSpare
  split
  · exact h
  · split
    · exact h
    · rename_i retired
      have was : entryAt s.remap i ≠ .unused ∧ (entryAt s.remap i).isCopying = false ∧ (entryAt s.remap i).isLeaving = false := by
        cases he : entryAt s.remap i <;> simp_all [RemapEntry.isRetired, RemapEntry.isCopying, RemapEntry.isLeaving]
      have sources := h.sources.setEntry_quiet i (e := .free) rfl (.inl rfl)
      unfold State.unblock
      dsimp only
      split
      · rename_i blocked
        have none_copied : s.migration.engine.work? = none := by simp [blocked, Engine.work?]
        have unblocked : State.tableLaw { s with migration := { s.migration with engine := .idle } } :=
          h.requeue rfl (h.rests none_copied).waits none_copied rfl rfl (.inr rfl)
        exact State.tableLaw.tryStart (unblocked.setEntry was ⟨nofun, rfl, rfl⟩ sources nofun)
      all_goals
        rename_i other
        exact h.setEntry was ⟨nofun, rfl, rfl⟩ sources (by simp [other])

/-! ## The queue's commands -/

theorem State.tableLaw.requestSpare {s : State} (h : s.tableLaw) (location : Location) : (s.requestSpare location).tableLaw := by
  unfold State.requestSpare
  split
  · exact h
  · exact State.tableLaw.tryStart ((State.joinQueue_keepsTable _ _ _).tableLaw h)

/-- The removal of a request that is not the head of an engine COPYING or BLOCKED. -/
theorem State.tableLaw.removeRequest {s : State} (h : s.tableLaw) {location : Location}
    (head : s.migration.engine ≠ .idle → ∀ r ∈ s.migration.queue.head?, r.location ≠ location) :
    (s.removeRequest location).tableLaw := by
  obtain ⟨kept, hk⟩ : ∃ kept, kept = s.migration.queue.filter fun r => r.location != location := ⟨_, rfl⟩
  have removed : (s.setQueue kept).tableLaw := by
    cases he : s.migration.engine with
    | idle =>
      have none_copied : s.migration.engine.work? = none := by simp [he, Engine.work?]
      refine h.requeue he (fun x hx => (h.rests none_copied).waits x ?_) none_copied rfl rfl (.inr rfl)
      rw [State.setQueue_migration, hk] at hx
      exact List.mem_of_mem_filter hx
    | blocked =>
      have f := h.rests (by simp [he, Engine.work?])
      have rests : (s.setQueue kept).Rests := by
        refine ⟨f.engine, f.entries, fun x hx => f.waits x ?_, f.line⟩
        rw [State.setQueue_migration, hk] at hx
        exact List.mem_of_mem_filter hx
      refine rests.tableLaw h.sources (fun _ => ⟨h.modes.1 (by simp [he]), ?_, (h.modes.2 he).2⟩) h.used
      cases hq : s.migration.queue with
      | nil => exact absurd hq (h.modes.2 he).1
      | cons r rest =>
        have other := head (by simp [he]) r (by simp [hq])
        simp [hk, hq, other]
    | copying work =>
      obtain ⟨source, copyFrom, cursor, origin, r, rest, f⟩ := h.flies he
      have other := head (by simp [he]) r (by simp [f.migration])
      have flies : (s.setQueue kept).Flies work source copyFrom cursor origin r (rest.filter fun r => r.location != location) :=
        ⟨by simp [hk, f.migration, other], f.entry, f.cursor_le, f.only, f.leaves, f.partner, f.started,
          fun x hx => f.waits x (List.mem_of_mem_filter hx), f.place, f.line⟩
      exact flies.tableLaw h.sources (h.modes.1 (by simp [he])) h.used
  rw [hk] at removed
  exact (State.placeFreed_keepsTable _).tableLaw removed

theorem State.headNames_eq_false {s : State} {location : Location} (h : ¬ s.headNames location = true) :
    ∀ r ∈ s.migration.queue.head?, r.location ≠ location := by
  unfold State.headNames at h
  cases hq : s.migration.queue with
  | nil => simp
  | cons r rest => simpa [hq] using h

theorem State.tableLaw.cancelRequest {s : State} (h : s.tableLaw) (location : Location) : (s.cancelRequest location).tableLaw := by
  unfold State.cancelRequest
  split
  · split
    · exact h.abort _
    · rename_i other
      exact h.removeRequest fun _ => State.headNames_eq_false other
  · rename_i blocked
    split
    · have none_copied : s.migration.engine.work? = none := by simp [blocked, Engine.work?]
      have unblocked : State.tableLaw { s with migration := { s.migration with engine := .idle } } :=
        h.requeue rfl (h.rests none_copied).waits none_copied rfl rfl (.inr rfl)
      exact unblocked.removeRequest fun busy => absurd rfl busy
    · rename_i other
      exact h.removeRequest fun _ => State.headNames_eq_false other
  · rename_i idle
    exact h.removeRequest fun busy => absurd idle busy

/-! ## Items and frames -/

theorem State.tableLaw.offerAll {s : State} (h : s.tableLaw) (n : Nat) : (State.offerAll n s).tableLaw := by
  induction n generalizing s with
  | zero => exact h
  | succ n ih =>
    unfold State.offerAll
    split
    · exact ih (s.offerWaiting_keepsTable.tableLaw h).tryStart
    · exact h

theorem State.tableLaw.writeAutoSpare {s : State} (h : s.tableLaw) (value : Nat) : (s.writeAutoSpare value).tableLaw := by
  refine State.ranged_of (P := State.tableLaw) h fun _ _ => ?_
  have set : State.tableLaw { s with settings := { s.settings with autoSpare := value == 1 } } := h
  dsimp only
  split
  · exact set.offerAll 32
  · exact h

theorem State.tableLaw.writeScrubEnable {s : State} (h : s.tableLaw) (value : Nat) : (s.writeScrubEnable value).tableLaw := by
  refine State.ranged_of (P := State.tableLaw) h fun _ _ => ?_
  have set : State.tableLaw { s with settings := { s.settings with scrubEnable := value == 1 } } := h
  dsimp only
  split
  · exact set
  · exact (State.withdrawScrub_keepsTable _).tableLaw set

theorem State.tableLaw.writeScrubInterval {s : State} (h : s.tableLaw) (value : Nat) : (s.writeScrubInterval value).tableLaw := by
  refine State.ranged_of (P := State.tableLaw) h fun _ _ => ?_
  have set : State.tableLaw { s with settings := { s.settings with scrubInterval := value } } := h
  exact (State.checkIntervalTimer_keepsTable _).tableLaw set

theorem State.tableLaw.writeLinkTimeout {s : State} (h : s.tableLaw) (value : Nat) : (s.writeLinkTimeout value).tableLaw := by
  refine State.ranged_of (P := State.tableLaw) h fun _ _ => ?_
  have set : State.tableLaw { s with settings := { s.settings with linkTimeout := value } } := h
  exact set.checkResponseTimer

/-- A write that sets items other than V and S, and nothing else. -/
theorem State.tableLaw.ranged_settings {s : State} (h : s.tableLaw) (low high value : Nat) {c : Settings → Settings}
    (visible : (c s.settings).visible = s.settings.visible) (spares : (c s.settings).spares = s.settings.spares) :
    (s.ranged low high value fun u => State.answerStatus { u with settings := c u.settings } .ok).tableLaw :=
  State.ranged_of (P := State.tableLaw) h fun _ _ =>
    State.KeepsTable.tableLaw (s := s) ⟨rfl, visible, spares, rfl, ⟨[], by simp, nofun⟩, rfl, .inr rfl⟩ h

theorem State.tableLaw.writeDownstream {s : State} (h : s.tableLaw) (value : Nat) : (s.writeDownstream value).tableLaw :=
  State.offlineOnly_of (P := State.tableLaw) h fun _ =>
    h.ranged_settings 1 131072 value (c := fun c => { c with downstream := value }) rfl rfl

theorem State.tableLaw.writeItem {s : State} (h : s.tableLaw) (item : Byte) (value : Nat) : (s.writeItem item value).tableLaw := by
  unfold State.writeItem
  split
  · exact h.writeVisible value
  · exact h.writeDownstream value
  · exact h.writeSpares value
  · exact h.ranged_settings 1 255 value (c := fun c => { c with correctedLimit := value }) rfl rfl
  · exact h.ranged_settings 1 4 value (c := fun c => { c with wordLimit := value }) rfl rfl
  · exact h.writeAutoSpare value
  · exact h.ranged_settings 0 1 value (c := fun c => { c with repairOnRead := value == 1 }) rfl rfl
  · exact h.writeScrubEnable value
  · exact h.writeScrubInterval value
  · exact h.writeLinkTimeout value
  · exact h.ranged_settings 0 1 value (c := fun c => { c with recordCorrected := value == 1 }) rfl rfl
  · exact h.ranged_settings 0 31 value (c := fun c => { c with alertEnables := flagsOfNat value }) rfl rfl
  · exact h.ranged_settings 1 16 value (c := fun c => { c with alertDepth := value }) rfl rfl
  · exact h.ranged_settings 0 64 value (c := fun c => { c with spareLowMark := value }) rfl rfl
  · exact h

theorem State.tableLaw.takeFrame {s : State} (h : s.tableLaw) (address : BusAddress) {effect : State → State}
    (keeps : ∀ u : State, u.tableLaw → (effect u).tableLaw) : (s.takeFrame address effect).tableLaw := by
  unfold State.takeFrame
  split
  · exact keeps _ h
  · exact h

theorem State.tableLaw.takeCommand {s : State} (h : s.tableLaw) (address : BusAddress) (args : List Byte) (count : Nat)
    {effect : State → State} (keeps : ∀ u : State, u.tableLaw → (effect u).tableLaw) :
    (s.takeCommand address args count effect).tableLaw := by
  refine h.takeFrame address fun u hu => ?_
  split
  · exact keeps u hu
  · exact hu

theorem State.tableLaw.withLocation {s : State} (h : s.tableLaw) (args : List Byte) {effect : State → Location → State}
    (keeps : ∀ location, (effect s location).tableLaw) : (s.withLocation args effect).tableLaw := by
  unfold State.withLocation
  split
  · exact keeps _
  · exact h

/-! ## Every step -/

/-- Every command but an UNKNOWN_COMMAND's frame keeps the table and the engine in step. -/
theorem State.tableLaw.exec_known {s t : State} (h : s.tableLaw) {i : Instr} (known : ∀ a bytes, i ≠ .unknownCommand a bytes)
    (e : exec i s = .next t) : t.tableLaw := by
  have frame := fun address effect => h.takeFrame address (effect := effect)
  have command := fun address args count effect => h.takeCommand address args count (effect := effect)
  cases i
  case unknownCommand a bytes => exact absurd rfl (known a bytes)
  all_goals cases e
  case powerOn straps => exact s.startOver_tableLaw straps
  case systemReset => exact h.systemReset.tryStart
  case transactionAccepted t =>
    split
    · exact h.accept t
    · exact h
  case answerTaken =>
    split
    · exact h.leaveQueue
    all_goals exact h
  case arbiterGrant => exact h.grant []
  case memoryResponse tag result words first => exact h.takeResponse tag result words first
  case responseTimerExpiry first => exact h.expireResponse first
  case scrubIntervalExpiry =>
    exact State.KeepsTable.tableLaw (.of_same (by simp) (by simp) (by simp) (by simp) (by simp)) h
  case migrationStart => exact h.tryStart
  case readFrame => split <;> exact h
  case readStatus a args => exact command a args 0 _ fun u hu => hu
  case readConfig a args =>
    refine command a args 1 _ fun u hu => ?_
    unfold State.readItem
    split <;> exact hu
  case writeConfig a args => exact command a args 5 _ fun u hu => hu.writeItem _ _
  case downstreamBlocks a value => exact frame a _ fun u hu => hu.writeDownstream _
  case visibleBlocks a value => exact frame a _ fun u hu => hu.writeVisible _
  case spareCount a value => exact frame a _ fun u hu => hu.writeSpares _
  case autoSpare a value => exact frame a _ fun u hu => hu.writeAutoSpare _
  case scrubEnable a value => exact frame a _ fun u hu => hu.writeScrubEnable _
  case scrubInterval a value => exact frame a _ fun u hu => hu.writeScrubInterval _
  case linkTimeout a value => exact frame a _ fun u hu => hu.writeLinkTimeout _
  case alertEnables a value => exact frame a _ fun u hu => hu.writeItem 0x0C _
  case alertDepth a value => exact frame a _ fun u hu => hu.writeItem 0x0D _
  case spareLowMark a value => exact frame a _ fun u hu => hu.writeItem 0x0E _
  case goOnline a args => exact command a args 0 _ fun u hu => hu.goOnline
  case goOffline a args => exact command a args 0 _ fun u hu => hu.goOffline
  case resetPart a args => exact command a args 0 _ fun u _ => u.startOver_tableLaw u.management.straps
  case clearLink a args => exact command a args 0 _ fun u hu => State.tableLaw.tryStart (s := State.followTimer { u with port := _ }) hu
  case readRemap a args =>
    refine command a args 1 _ fun u hu => ?_
    unfold State.readRemap
    split <;> exact hu
  case restoreRemap a args => exact command a args 5 _ fun u hu => hu.restoreRemap _ _ _
  case dropRemap a args => exact command a args 1 _ fun u hu => hu.dropRemap _
  case releaseSpare a args => exact command a args 1 _ fun u hu => hu.releaseSpare _
  case requestSpare a args => exact command a args 4 _ fun u hu => hu.withLocation args hu.requestSpare
  case cancelRequest a args =>
    refine command a args 4 _ fun u hu => hu.withLocation args fun location => ?_
    split
    · exact (hu.cancelRequest location).tryStart
    · exact hu
  case readQueue a args =>
    refine command a args 1 _ fun u hu => ?_
    unfold State.readQueue
    (repeat' split) <;> exact hu
  case readWatch a args =>
    refine command a args 1 _ fun u hu => ?_
    unfold State.readWatch
    (repeat' split) <;> exact hu
  case clearWatch a args =>
    refine command a args 1 _ fun u hu => ?_
    unfold State.clearWatch
    (repeat' split) <;> exact hu
  case peekRecord a args =>
    refine command a args 0 _ fun u hu => ?_
    unfold State.peekRecord
    split <;> exact hu
  case popRecord a args =>
    refine command a args 0 _ fun u hu => ?_
    unfold State.popRecord
    split <;> exact hu
  case ackAlert a args => exact command a args 1 _ fun u hu => hu
  case inject a args =>
    refine command a args 7 _ fun u hu => ?_
    unfold State.inject
    (repeat' split) <;> exact hu

/-- Every command keeps the table and the engine in step. -/
theorem State.tableLaw.exec {s t : State} (h : s.tableLaw) {i : Instr} (e : exec i s = .next t) : t.tableLaw := by
  by_cases unknown : ∃ a bytes, i = .unknownCommand a bytes
  · obtain ⟨a, bytes, rfl⟩ := unknown
    rcases execUnknownCommand_cases a bytes s with ⟨b, left, he⟩ | he | ⟨j, known, he⟩
    · obtain rfl : _ = t := Host.Outcome.next.inj (he.symm.trans e)
      refine h.takeFrame b fun u hu => ?_
      split <;> exact hu
    · obtain rfl : s = t := Host.Outcome.next.inj (he.symm.trans e)
      exact h
    · exact h.exec_known known (he.symm.trans e)
  · exact h.exec_known (fun a bytes hi => unknown ⟨a, bytes, hi⟩) e

/-- Settles O55: a step is a microsecond or a command, and each keeps the table and the engine in step (`State.tableLaw.tick`,
`State.tableLaw.exec`). -/
theorem tableInvariant : Obligations.TableInvariant := by
  intro s t h e
  unfold step at e
  split at e
  · obtain rfl := Host.Outcome.next.inj e
    exact h.tick
  · rename_i rest _
    exact State.tableLaw.exec (s := { s with pending := rest }) h e

end Sys2Proof.Machine

/-! Routes, grants of stores, ends of accesses, migrations and the commands of the tables (O17, O21 to O23, O28 to O30, O35, O37 to O42,
O44, O51, O52). -/

namespace Sys2Proof.Machine

/-! ## Routes -/

theorem RemapEntry.routes_iff {e : RemapEntry} {b : Nat} : e.routes b = true ↔ e.routed? = some b := by
  cases e <;> simp [RemapEntry.routes, RemapEntry.routed?]

theorem entryFor_eq_none {t : RemapTable} {b : Nat} (h : ∀ j, j < 64 → (entryAt t j).routed? ≠ some b) :
    entryFor t b = none := by
  cases he : entryFor t b with
  | none => rfl
  | some i =>
    obtain ⟨hi, routes, -⟩ := entryFor_some he
    exact absurd (RemapEntry.routes_iff.mp routes) (h i hi)

/-- The entry that routes a block, when no other does (R17). -/
theorem entryFor_eq_some {t : RemapTable} {b i : Nat} (hi : i < 64) (routed : (entryAt t i).routed? = some b)
    (alone : ∀ j, j < 64 → j ≠ i → (entryAt t j).routed? ≠ some b) : entryFor t b = some i := by
  cases he : entryFor t b with
  | none => exact absurd (entryFor_none he hi) (by simp [RemapEntry.routes_iff.mpr routed])
  | some j =>
    obtain ⟨hj, routes, -⟩ := entryFor_some he
    by_contra other
    exact alone j hj (fun same => other (congrArg some same)) (RemapEntry.routes_iff.mp routes)

theorem route_of_none {t : RemapTable} {b : Nat} (h : entryFor t b = none) (v l : Nat) :
    readRoute v t b l = b ∧ storeRoute v t b l = (b, none) := by simp [readRoute, storeRoute, h]

theorem route_of_active {t : RemapTable} {b i source : Nat} {origin : Origin} (h : entryFor t b = some i)
    (entry : entryAt t i = .active source origin) (v l : Nat) :
    readRoute v t b l = v + i ∧ storeRoute v t b l = (v + i, none) := by simp [readRoute, storeRoute, h, entry]

/-- A line below the cursor is read from the target and stored to both; one at or above it goes to the from-location (R20, R21). -/
theorem route_of_copying {t : RemapTable} {b i source cursor : Nat} {copyFrom : CopyFrom} {origin : Origin}
    (h : entryFor t b = some i) (entry : entryAt t i = .copying source copyFrom cursor origin) (v l : Nat) :
    (l < cursor → readRoute v t b l = v + i ∧ storeRoute v t b l = (fromBlock v source copyFrom, some (v + i)))
      ∧ (cursor ≤ l →
        readRoute v t b l = fromBlock v source copyFrom ∧ storeRoute v t b l = (fromBlock v source copyFrom, none)) := by
  constructor <;> intro hl <;> simp [readRoute, storeRoute, h, entry, hl, Nat.not_lt.mpr]

/-- Settles O17: the entry for the block is the one that routes it, and the routes follow its state. -/
theorem routesFollowEntry : Obligations.RoutesFollowEntry := by
  intro v table b l
  refine ⟨fun none_routes => route_of_none (entryFor_eq_none none_routes) v l, fun i hi alone =>
    ⟨fun origin entry => ?_, fun cursor origin entry => ?_, fun j cursor origin entry => ?_⟩⟩
  · exact route_of_active (entryFor_eq_some hi (by rw [entry]; rfl) alone) entry v l
  · exact route_of_copying (entryFor_eq_some hi (by rw [entry]; rfl) alone) entry v l
  · exact route_of_copying (entryFor_eq_some hi (by rw [entry]; rfl) alone) entry v l

/-! ## The starting state -/

theorem entryAt_replicate (i : Nat) : entryAt (Vector.replicate 64 .unused) i = .unused := by
  unfold entryAt
  by_cases hi : i < 64 <;> simp [hi]

/-- Settles O41: POWER_ON leaves `State.startOver`, and RESET_PART the same with the straps and the frame's acknowledgement. -/
theorem startingState : Obligations.StartingState := by
  refine ⟨fun straps s => ⟨s.startOver straps, rfl, rfl, rfl, fun i _ => entryAt_replicate i, rfl, fun i => ?_, rfl, rfl, rfl, rfl,
    rfl, rfl, rfl, rfl, rfl, rfl, ?_, rfl, rfl, ?_⟩, rfl⟩
  · unfold WatchTable.entryIn
    by_cases hi : i < 32 <;> simp [State.startOver, State.poweredOn, hi]
  · simp [State.alertLow, State.startOver, State.poweredOn, Settings.initial]
  · exact congrArg Host.Outcome.next (s.takeCommand_own [] _)

/-! ## The grant of a store -/

/-- The grant to the upstream port: the pass-over counts, then its access (R108, R117). -/
theorem State.grant_upstream {s : State} {busy : List Requester} (free : s.port.outstanding = none)
    (choice : s.choose busy = some .upstream) : s.grant busy = (s.countPassOver busy .upstream).grantUpstream := by
  simp [State.grant, free, choice]

/-- The grant of the present run, while no spare access is pending (R99). -/
theorem State.grantUpstream_run {s : State} {t : Transaction} {work : StoreWork} {run : StoreRun} {rest : List StoreRun}
    (hp : s.upstream.progress = .store work) (hc : s.current = some t) (hr : work.runs = run :: rest) (hd : work.dual = none) :
    s.grantUpstream = s.grantRun (firstAddress t) work run := by
  simp [State.grantUpstream, hp, hc, hr, hd]

/-- The grant of the pending spare access of a dual store (R22). -/
theorem State.grantUpstream_spare {s : State} {t : Transaction} {work : StoreWork} {run : StoreRun} {rest : List StoreRun}
    {dual : DualWrite} (hp : s.upstream.progress = .store work) (hc : s.current = some t) (hr : work.runs = run :: rest)
    (hd : work.dual = some dual) :
    s.grantUpstream
      = s.issue .storeSpare dual.block (lineOf (firstAddress t)) run.first dual.forms.length dual.forms := by
  simp [State.grantUpstream, hp, hc, hr, hd]

/-- The issue of a store: the write-backs of its words cancelled, its tag and its timer (R108, R109, R119). -/
theorem State.issue_store {p : Purpose} (write : p.isWrite = true ∧ p ≠ .writeBack) (s : State)
    (block line first count : Nat) (words : List StoredWord) :
    s.issue p block line first count words = { s.cancelRun block line first count with
      port := { s.port with
        lastTag := nextTag s.port.lastTag s.port.abandoned
        outstanding := some
          { purpose := p, block := block, line := line, first := first, count := count, words := words,
            tag := nextTag s.port.lastTag s.port.abandoned, elapsed := 0, discarded := false } } } :=
  if_pos write

/-- A run none of whose words the armed record names is granted as it is (R87). -/
theorem State.applyInjection_of_miss {s : State} {address : Nat} {forms : List StoredWord}
    (miss : ∀ i ∈ s.injection, i.address < address ∨ address + forms.length ≤ i.address) :
    s.applyInjection address forms = (s, forms) := by
  unfold State.applyInjection
  cases hi : s.injection with
  | none => rfl
  | some i =>
    have := miss i hi
    simp only
    rw [if_neg (by omega)]

/-- A run that holds the word the armed record names: the record is disarmed and told, the word's form changed (R87). -/
theorem State.applyInjection_of_hit {s : State} {i : Injection} (armed : s.injection = some i) {address : Nat}
    {forms : List StoredWord} (least : address ≤ i.address) (below : i.address < address + forms.length) :
    s.applyInjection address forms
      = (State.makeRecord { s with injection := none }
          { kind := .injectApplied, source := .management, location := some (.visible (i.address / 256)),
            offset := some (i.address % 256) }, injectRun i address forms) := by
  simp [State.applyInjection, armed, least, below, blockOf]

/-- A store outside the line in flight overtakes nothing (R47). -/
theorem State.markOvertaken_of_miss {s : State} {b l : Nat}
    (miss : ∀ copy ∈ s.migration.engine.work?, copy.inFlight = true →
      ∀ c ∈ (entryAt s.remap copy.target).copy?, c.1 ≠ b ∨ c.2.2 ≠ l) : s.markOvertaken b l = s := by
  unfold State.markOvertaken
  split
  · rename_i work hw
    split
    · rename_i entry
      have := miss work (Engine.work?_eq_some.mpr hw)
      rw [if_neg]
      rintro ⟨flying, rfl, rfl⟩
      simpa using this flying _ (RemapEntry.copy?_eq_some.mpr ⟨_, entry⟩)
    all_goals rfl
  all_goals rfl

/-- A store to the line in flight overtakes it (R47). -/
theorem State.markOvertaken_of_hit {s : State} {work : CopyWork} {source cursor : Nat} {copyFrom : CopyFrom} {origin : Origin}
    (hw : s.migration.engine = .copying work) (entry : entryAt s.remap work.target = .copying source copyFrom cursor origin)
    (flying : work.inFlight = true) : s.markOvertaken source cursor
      = { s with migration := { s.migration with engine := .copying { work with overtaken := true } } } := by
  simp [State.markOvertaken, hw, entry, flying]

/-- The grant of a run, its form fixed and the line in flight marked, in one access or as the first of two (R21, R22). -/
theorem State.grantRun_eq {s u v : State} {address b l : Nat} {work : StoreWork} {run : StoreRun} {forms : List StoredWord}
    (hb : b = blockOf address) (hl : l = lineOf address)
    (hi : s.applyInjection (256 * b + 16 * l + run.first) run.forms = (u, forms)) (hm : u.markOvertaken b l = v) :
    (∀ block, storeRoute s.settings.visible s.remap b l = (block, none) →
        s.grantRun address work run = v.issue .storeSingle block l run.first forms.length forms)
      ∧ ∀ block spare, storeRoute s.settings.visible s.remap b l = (block, some spare) →
        s.grantRun address work run
          = (v.setProgress (.store { work with dual := some { block := spare, forms := forms, fate := .inFlight } })).issue
              .storeFirst block l run.first forms.length forms := by
  subst hb hl
  constructor
  · intro block route
    simp only [State.grantRun, route, hi, hm]
  · intro block spare route
    simp only [State.grantRun, route, hi, hm]

/-- Settles O21: no word of the run is named and no line is overtaken, so the run goes out as planned, where R21 says. -/
theorem grantIssuesStore : Obligations.GrantIssuesStore := by
  intro s t work run rest b l free choice hp hc hr hb hl
  have granted : exec .arbiterGrant s = .next (s.countPassOver [] .upstream).grantUpstream :=
    congrArg Host.Outcome.next (State.grant_upstream free choice)
  rw [granted]
  refine ⟨fun hd miss still => ?_, fun dual hd => ?_⟩
  · rw [State.grantUpstream_run (s := s.countPassOver [] .upstream) hp hc hr hd]
    obtain ⟨single, dual⟩ := State.grantRun_eq (s := s.countPassOver [] .upstream) (work := work) hb hl
      (State.applyInjection_of_miss miss) (State.markOvertaken_of_miss still)
    refine ⟨fun block route => ?_, fun block spare route => ?_⟩
    · rw [single block route, State.issue_store (by decide)]
      rfl
    · rw [dual block spare route, State.issue_store (by decide)]
      rfl
  · rw [State.grantUpstream_spare (s := s.countPassOver [] .upstream) hp hc hr hd, State.issue_store (by decide), hl]
    rfl

/-- The grant of a store to the line in flight, none of whose words the armed record names: one access, to the from-location (R21, R47). -/
theorem State.grantRun_overtakes {s : State} {address source cursor : Nat} {copyFrom : CopyFrom} {origin : Origin}
    {copy : CopyWork} (hw : s.migration.engine = .copying copy)
    (entry : entryAt s.remap copy.target = .copying source copyFrom cursor origin)
    (routes : entryFor s.remap source = some copy.target) (hb : source = blockOf address) (hl : cursor = lineOf address)
    (flying : copy.inFlight = true) {run : StoreRun}
    (miss : ∀ i ∈ s.injection, i.address < 256 * source + 16 * cursor + run.first ∨
      256 * source + 16 * cursor + run.first + run.forms.length ≤ i.address) (work : StoreWork) :
    s.grantRun address work run
      = State.issue { s with migration := { s.migration with engine := .copying { copy with overtaken := true } } } .storeSingle
          (fromBlock s.settings.visible source copyFrom) cursor run.first run.forms.length run.forms := by
  obtain ⟨single, -⟩ := State.grantRun_eq (work := work) hb hl (State.applyInjection_of_miss miss)
    (State.markOvertaken_of_hit hw entry flying)
  exact single _ (((route_of_copying routes entry _ _).2 le_rfl).2)

/-- Settles O22: the line in flight is at the cursor, so the store goes to the from-location alone and marks it overtaken. -/
theorem storeOvertakesLine : Obligations.StoreOvertakesLine := by
  intro s t store run rest work source cursor copyFrom origin free choice hp hc hr hd miss hw entry routes hb hl flying
  have granted : exec .arbiterGrant s = .next (s.countPassOver [] .upstream).grantUpstream :=
    congrArg Host.Outcome.next (State.grant_upstream free choice)
  rw [granted, State.grantUpstream_run (s := s.countPassOver [] .upstream) hp hc hr hd,
    State.grantRun_overtakes (s := s.countPassOver [] .upstream) hw entry routes hb.symm hl.symm flying miss,
    State.issue_store (by decide)]
  rfl

/-! ## Injection -/

theorem exec_inject (s : State) (a0 a1 a2 a3 kind p q : Byte) :
    exec (.inject s.management.address [a0, a1, a2, a3, kind, p, q]) s
      = .next ((s.onBus true []).inject (leValue [a0, a1, a2, a3]) (injectKindOf kind p q)) :=
  congrArg Host.Outcome.next (s.takeCommand_own [a0, a1, a2, a3, kind, p, q] _)

theorem State.inject_refused {s : State} {a : Nat} {kind : Option InjectKind}
    (h : 256 * s.settings.visible ≤ a ∨ kind = none) : s.inject a kind = s.answerStatus .badArgument := by
  unfold State.inject
  split
  · rfl
  · rcases h with far | rfl
    · omega
    · rfl

theorem State.inject_armed {s : State} {a : Nat} (h : a < 256 * s.settings.visible) (kind : InjectKind) :
    s.inject a (some kind) = State.answerStatus { s with injection := some { address := a, kind := kind } } .ok := by
  unfold State.inject
  rw [if_neg (by omega)]

theorem injectKindOf_eq_none {kind p q : Byte}
    (h : (kind ≠ 1 ∧ kind ≠ 2 ∧ kind ≠ 3) ∨ (kind = 1 ∧ 32 ≤ p.toNat)
      ∨ (kind = 2 ∧ (32 ≤ p.toNat ∨ 32 ≤ q.toNat ∨ p = q))) : injectKindOf kind p q = none := by
  rcases h with ⟨not_one, not_two, not_three⟩ | ⟨rfl, far⟩ | ⟨rfl, unfit⟩
  · unfold injectKindOf
    split
    · exact absurd rfl not_one
    · exact absurd rfl not_two
    · exact absurd rfl not_three
    · rfl
  · exact if_neg (by omega)
  · refine if_neg fun ⟨hp, hq, ne⟩ => ?_
    rcases unfit with far | far | same
    · omega
    · omega
    · exact ne same

/-- The forms of a run with the armed record applied: the word it names changed by its kind, the others as they were (R87). -/
theorem injectRun_getElem? (i : Injection) (address : Nat) (forms : List StoredWord) (k : Nat) :
    (injectRun i address forms)[k]?
      = (forms[k]?).map fun form => if address + k = i.address then injectForm i.kind form else form := by
  simp [injectRun, List.getElem?_zipIdx, Function.comp_def]

theorem injectRun_length (i : Injection) (address : Nat) (forms : List StoredWord) :
    (injectRun i address forms).length = forms.length := by simp [injectRun]

/-- What the issue of a run after the marking of a line leaves, for the statement of the injection. -/
theorem State.issue_store_outstanding {p : Purpose} (write : p.isWrite = true ∧ p ≠ .writeBack) (s : State)
    (block line first count : Nat) (words : List StoredWord) :
    (s.issue p block line first count words).port.outstanding = some
      { purpose := p, block := block, line := line, first := first, count := count, words := words,
        tag := nextTag s.port.lastTag s.port.abandoned, elapsed := 0, discarded := false } := by
  rw [State.issue_store write]

/-- The grant of a run whose forms the armed record has fixed: the access, and for a dual store the pending spare access, carry them. -/
theorem State.grantRun_access {s u : State} {address : Nat} {work : StoreWork} {run : StoreRun} {forms : List StoredWord}
    (hi : s.applyInjection (256 * blockOf address + 16 * lineOf address + run.first) run.forms = (u, forms)) :
    ∃ v a, s.grantRun address work run = v ∧ v.port.outstanding = some a ∧ a.first = run.first ∧ a.words = forms
      ∧ a.line = lineOf address
      ∧ (∀ block spare?, storeRoute s.settings.visible s.remap (blockOf address) (lineOf address) = (block, spare?) →
          a.block = block
            ∧ (spare? = none → a.purpose = .storeSingle ∧ v.upstream = s.upstream)
            ∧ ∀ spare, spare? = some spare → a.purpose = .storeFirst
              ∧ v.upstream = { s.upstream with
                  progress := .store { work with dual := some { block := spare, forms := forms, fate := .inFlight } } })
      ∧ v.injection = u.injection ∧ v.records = u.records := by
  obtain ⟨single, dual⟩ := State.grantRun_eq (work := work) rfl rfl hi rfl
  have upstream : u.upstream = s.upstream := by
    have := s.applyInjection_upstream (256 * blockOf address + 16 * lineOf address + run.first) run.forms
    rwa [hi] at this
  cases hr : storeRoute s.settings.visible s.remap (blockOf address) (lineOf address) with
  | mk block spare? =>
    cases spare? with
    | none =>
      refine ⟨_, _, single block hr, State.issue_store_outstanding (by decide) _ _ _ _ _ _, rfl, rfl, rfl, ?_, by simp, by simp⟩
      rintro b spare? ⟨rfl, rfl⟩
      exact ⟨rfl, fun _ => ⟨rfl, by simp [upstream]⟩, nofun⟩
    | some spare =>
      refine ⟨_, _, dual block spare hr, State.issue_store_outstanding (by decide) _ _ _ _ _ _, rfl, rfl, rfl, ?_, by simp, by simp⟩
      rintro b spare? ⟨rfl, rfl⟩
      refine ⟨rfl, nofun, fun x hx => ⟨rfl, ?_⟩⟩
      obtain rfl := Option.some.inj hx
      simp [upstream]

/-- Settles O23: INJECT arms what its arguments name, and the grant of a run applies the armed record to the word it names, if the run
holds it. -/
theorem injectionArmedAndApplied : Obligations.InjectionArmedAndApplied := by
  refine ⟨fun s a0 a1 a2 a3 kind p q a ha => ⟨fun refused => ?_, fun inside => ⟨fun hp => ?_, fun hp hq ne => ?_, ?_⟩⟩, ?_⟩
  · rw [exec_inject, ha, State.inject_refused (s := s.onBus true []) (refused.imp id injectKindOf_eq_none)]
    rfl
  · rw [exec_inject, ha, show injectKindOf 1 p q = some (.one p.toNat) from if_pos hp, State.inject_armed (s := s.onBus true []) inside]
    rfl
  · rw [exec_inject, ha, show injectKindOf 2 p q = some (.two p.toNat q.toNat) from if_pos ⟨hp, hq, ne⟩,
      State.inject_armed (s := s.onBus true []) inside]
    rfl
  · rw [exec_inject, ha, show injectKindOf 3 p q = some .poison from rfl, State.inject_armed (s := s.onBus true []) inside]
    rfl
  · intro s t work run rest armed free choice hp hc hr hd hi
    have granted : exec .arbiterGrant s
        = .next ((s.countPassOver [] .upstream).grantRun (firstAddress t) work run) := by
      rw [← State.grantUpstream_run (s := s.countPassOver [] .upstream) hp hc hr hd]
      exact congrArg Host.Outcome.next (State.grant_upstream free choice)
    obtain ⟨base, hbase⟩ : ∃ base, base = 256 * blockOf (firstAddress t) + 16 * lineOf (firstAddress t) + run.first := ⟨_, rfl⟩
    by_cases holds : base ≤ armed.address ∧ armed.address < base + run.forms.length
    · have applied := State.applyInjection_of_hit (s := s.countPassOver [] .upstream) hi holds.1 holds.2
      rw [hbase] at applied
      obtain ⟨v, a, hv, ho, first, words, line, routes, injection, records⟩ := State.grantRun_access (work := work) applied
      refine ⟨v, a, granted.trans (congrArg _ hv), ho, first, by rw [words, injectRun_length], line, ?_, ?_⟩
      · rw [words]; exact routes
      · rintro b rfl
        refine ⟨fun _ _ => ⟨injection, records, fun k form hk => ?_⟩, fun away => by omega⟩
        rw [words, injectRun_getElem?, hk]
        rfl
    · have missed := State.applyInjection_of_miss (s := s.countPassOver [] .upstream) (address := base) (forms := run.forms)
        fun i h => by
          obtain rfl : armed = i := Option.some.inj (hi.symm.trans h)
          omega
      rw [hbase] at missed
      obtain ⟨v, a, hv, ho, first, words, line, routes, injection, records⟩ := State.grantRun_access (work := work) missed
      refine ⟨v, a, granted.trans (congrArg _ hv), ho, first, by rw [words], line, ?_, ?_⟩
      · rw [words]; exact routes
      · rintro b rfl
        exact ⟨fun least below => by omega, fun _ => ⟨injection.trans hi, records, words⟩⟩

/-! ## The ends of a store -/

/-- A try that is not due stays so while no spare write was pending, and the mode, the engine, the queue and the link stay. -/
theorem State.mayTry_of_settled {s t : State} (settled : s.settledLaw) (single : s.dualPending = false) (mode : t.mode = s.mode)
    (migration : t.migration = s.migration) (link : t.port.link = s.port.link) : t.mayTry = false := by
  have still : s.mayTry = false := settled
  simp only [State.mayTry, single, mode, migration, link] at still ⊢
  simp only [Bool.not_false, Bool.and_true] at still
  simp [still]

/-- Whether a try is due depends on the mode, the engine, the queue, the upstream port and the link alone. -/
theorem State.mayTry_congr {s t : State} (mode : t.mode = s.mode) (migration : t.migration = s.migration)
    (upstream : t.upstream = s.upstream) (link : t.port.link = s.port.link) : t.mayTry = s.mayTry := by
  simp [State.mayTry, State.dualPending, mode, migration, upstream, link]

/-- With the engine COPYING no try is due. -/
theorem State.mayTry_of_copying {s : State} {work : CopyWork} (h : s.migration.engine = .copying work) : s.mayTry = false := by
  simp [State.mayTry, h]

theorem State.dualPending_of_store {s : State} {work : StoreWork} (hp : s.upstream.progress = .store work) :
    s.dualPending = work.dual.isSome := by simp [State.dualPending, hp]

/-- The end of a store access goes to the run it belongs to. -/
theorem State.hand_store {s : State} {a : Access} {t : Transaction} {work : StoreWork} (taken : a.discarded = false)
    (hp : s.upstream.progress = .store work) (hc : s.current = some t) (ending : Ending) :
    (a.purpose = .storeSingle ∨ a.purpose = .storeFirst → s.hand a ending = s.endStore t work false ending)
      ∧ (a.purpose = .storeSpare → s.hand a ending = s.endStore t work true ending) := by
  refine ⟨?_, fun spare => ?_⟩
  · rintro (single | first)
    · simp [State.hand, taken, single, State.endUpstream, hp, hc]
    · simp [State.hand, taken, first, State.endUpstream, hp, hc]
  · simp [State.hand, taken, spare, State.endUpstream, hp, hc]

/-- A single access, or the first of two, that fails: the run fails with the later ones (R101, R102). -/
theorem State.endStore_failed (s : State) (t : Transaction) (work : StoreWork) : s.endStore t work false .failed
    = { s with upstream := { s.upstream with progress := work.failed (firstAddress t % 16) } } := by
  simp only [State.endStore, State.failRun_eq]
  rfl

/-- The spare access that ends OK: the run has succeeded (R99). -/
theorem State.endStore_spare_ok (s : State) (t : Transaction) {work : StoreWork} {run : StoreRun} {rest : List StoreRun}
    {dual : DualWrite} (hr : work.runs = run :: rest) (hd : work.dual = some dual) (words : List StoredWord) :
    s.endStore t work true (.ok words) = { s with upstream := { s.upstream with progress := work.succeeded rest } } := by
  simp only [State.endStore, hd, State.endSpareStore]
  exact s.finishRun_eq (work := { work with dual := none }) hr

theorem State.current_congr {s t : State} (h : t.upstream = s.upstream) : t.current = s.current := by
  rw [State.current, State.current, h]

/-- A write access that ends OK, with no grant taken first: its requester takes the ending over the freed slot. -/
theorem exec_write_ok {s : State} {a : Access} (ho : s.port.outstanding = some a) (write : a.purpose.isWrite = true) :
    exec (.memoryResponse a.tag .ok [] false) s = .next (s.freeSlot.hand a (.ok [])).settle := exec_ok_of_write ho write

section
variable {s : State} {a : Access} {t : Transaction} {work : StoreWork} (ho : s.port.outstanding = some a)
  (taken : a.discarded = false) (hp : s.upstream.progress = .store work) (hc : s.current = some t)
include ho taken hp hc

/-- A single access, or the first of two, that fails with no grant taken first, and the try that follows. -/
theorem exec_store_failed (up : s.port.link = .up) (mine : a.purpose = .storeSingle ∨ a.purpose = .storeFirst) {c : Instr} {u : State}
    (fails : s.failsBy a c u) : exec c s = exec .migrationStart
      { u with upstream := { s.upstream with progress := work.failed (firstAddress t % 16) } } := by
  obtain ⟨-, -, -, -, -, upstream, link, -⟩ := State.failsBy_keeps fails
  rw [exec_of_failsBy ho fails,
    (State.hand_store taken (upstream ▸ hp) ((State.current_congr upstream).trans hc) .failed).1 mine,
    State.endStore_failed, upstream]
  exact State.settle_eq_try (link.trans up)

/-- A store access that ends OK, with no grant taken first: the run takes the ending. -/
theorem exec_store_ok :
    (a.purpose = .storeSingle ∨ a.purpose = .storeFirst →
        exec (.memoryResponse a.tag .ok [] false) s = .next (s.freeSlot.endStore t work false (.ok [])).settle)
      ∧ (a.purpose = .storeSpare →
        exec (.memoryResponse a.tag .ok [] false) s = .next (s.freeSlot.endStore t work true (.ok [])).settle) := by
  obtain ⟨run, spare⟩ := State.hand_store (s := s.freeSlot) taken hp hc (.ok [])
  refine ⟨fun mine => ?_, fun mine => ?_⟩
  · rw [exec_write_ok ho (by rcases mine with h | h <;> rw [h] <;> rfl), run mine]
  · rw [exec_write_ok ho (by rw [mine]; rfl), spare mine]

end

/-- A pending spare access waits on no held line (R100). -/
theorem State.waitsOnHeldLine_of_dual {s : State} {work : StoreWork} {dual : DualWrite} (hp : s.upstream.progress = .store work)
    (hd : work.dual = some dual) : s.waitsOnHeldLine = false := by
  unfold State.waitsOnHeldLine
  rw [hp]
  cases s.current with
  | none => rfl
  | some t => simp [hd]

/-! ## The end of a write-back -/

/-- A run of one word covers the entry of that word. -/
theorem coveredBy_one (e : WriteBack) (block line word : Nat) :
    e.coveredBy block line word 1 = (e.block == block && e.line == line && e.word == word) := by
  have one : (decide (word ≤ e.word) && decide (e.word < word + 1)) = (e.word == word) := by
    rw [Bool.eq_iff_iff]
    simp
    omega
  simp only [WriteBack.coveredBy, Bool.and_assoc, one]

/-- The write-back buffer after the end of the write-back `a` (R120). -/
theorem State.hand_writeBack {s : State} {a : Access} (mine : a.purpose = .writeBack) (ending : Ending) :
    s.hand a ending = { s with
      writeBack := if a.discarded then s.writeBack
        else { s.writeBack with
          entries := s.writeBack.entries.filter fun e =>
            !(e.block == a.block && e.line == a.line && e.word == a.first) } } := by
  cases hd : a.discarded with
  | true => simp [State.hand, hd]
  | false => simp [State.hand, hd, mine, State.endWriteBack, coveredBy_one]

/-- Settles O29: each end goes to the present run (`State.hand_store`), and a try follows, which is not due while the engine was settled
or a spare write is pending. -/
theorem storeRunEnds : Obligations.StoreRunEnds := by
  refine ⟨fun s a t work run rest up ho taken hp hc hr =>
      ⟨fun mine single settled => ?_, fun dual mine hd => ?_, fun dual mine hd => ?_⟩,
    fun s a left up settled ho mine hl => ?_⟩
  · have quiet : s.dualPending = false := by simp [State.dualPending_of_store hp, single]
    refine ⟨?_, fun c u fails => ?_⟩
    · rw [(exec_store_ok ho taken hp hc).1 (.inl mine)]
      simp only [State.endStore, single]
      rw [State.finishRun_eq _ hr]
      exact congrArg _ (State.settle_of_settled up (State.mayTry_of_settled settled quiet rfl rfl rfl))
    · rw [exec_store_failed ho taken hp hc up (.inl mine) fails, exec_migrationStart, State.tryStart_of_settled]
      obtain ⟨mode, -, -, migration, -, -, link, -⟩ := State.failsBy_keeps fails
      exact State.mayTry_of_settled settled quiet mode migration link
  · refine ⟨fun asked hasked => ?_, fun c u fails => exec_store_failed ho taken hp hc up (.inr mine) fails⟩
    have store : asked.upstream.progress = .store work := by rw [hasked]; exact hp
    have pending : asked.dualPending = true := by rw [State.dualPending_of_store store, hd]; rfl
    have ask : s.freeSlot = asked := hasked.symm
    refine ⟨?_, ?_⟩
    · rw [(exec_store_ok ho taken hp hc).1 (.inr mine), ask]
      simp only [State.endStore, hd]
      rw [State.settle_of_settled (by rw [hasked]; exact up) (by simp [State.mayTry, pending])]
    · have free : asked.awaiting .upstream = false := by rw [hasked]; rfl
      have link : asked.port.link = .up := by rw [hasked]; exact up
      simp [State.waiting, link, store, Progress.needsAccess, free, State.waitsOnHeldLine_of_dual store hd]
  · rw [(exec_store_ok ho taken hp hc).2 mine, State.endStore_spare_ok _ _ hr hd]
    exact State.settle_eq_try up
  · subst hl
    refine ⟨?_, fun c u fails => ?_⟩
    · rw [exec_write_ok ho (by rw [mine]; rfl), State.hand_writeBack mine]
      exact congrArg _ (State.settle_of_settled up settled)
    · obtain ⟨mode, -, -, migration, -, upstream, link, -, writeBack, -⟩ := State.failsBy_keeps fails
      rw [exec_of_failsBy ho fails, State.hand_writeBack mine, writeBack]
      exact congrArg _ (State.settle_of_settled (link.trans up)
        ((State.mayTry_congr (s := s) mode migration upstream link).trans settled))

/-! ## The failed spare access of a dual store -/

/-- The spare access that fails, by what became of its migration: it aborts one in flight, and the run fails only after one completed
(R23, R50). -/
theorem State.endStore_spare_failed (s : State) (t : Transaction) {work : StoreWork} {run : StoreRun} {rest : List StoreRun}
    {dual : DualWrite} (hr : work.runs = run :: rest) (hd : work.dual = some dual) :
    (dual.fate = .completed → s.endStore t work true .failed
        = { s with upstream := { s.upstream with progress := work.failed (firstAddress t % 16) } })
      ∧ (dual.fate = .aborted → s.endStore t work true .failed
        = { s with upstream := { s.upstream with progress := work.succeeded rest } })
      ∧ (dual.fate = .inFlight → s.endStore t work true .failed
        = State.abortMigration { s with upstream := { s.upstream with progress := work.succeeded rest } } .targetFailed) := by
  have stands := s.finishRun_eq (work := { work with dual := none }) hr
  refine ⟨fun fate => ?_, fun fate => ?_, fun fate => ?_⟩
  all_goals
    simp only [State.endStore, hd, State.endSpareStore, fate, stands, State.failRun_eq]
    rfl

/-- The access an issue leaves outstanding has the purpose given. -/
theorem State.issue_purpose (s : State) (p : Purpose) (block line first count : Nat) (words : List StoredWord) :
    ∀ b ∈ (s.issue p block line first count words).port.outstanding, b.purpose = p := by
  unfold State.issue
  dsimp only
  split <;> simp

/-- Whatever is outstanding after the change from `s` to `t` was so before, or is `r`'s. -/
def State.AsksFor (s t : State) (r : Requester) : Prop :=
  ∀ b ∈ t.port.outstanding, b ∈ s.port.outstanding ∨ b.purpose.requester = r

theorem State.asksFor_self (s : State) (r : Requester) : s.AsksFor s r := fun _ h => .inl h

theorem State.asksFor_issue (s t : State) (p : Purpose) (block line first count : Nat) (words : List StoredWord) :
    s.AsksFor (t.issue p block line first count words) p.requester :=
  fun b hb => .inr (congrArg _ (t.issue_purpose p block line first count words b hb))

theorem State.asksFor_grantRun (s : State) (address : Nat) (work : StoreWork) (run : StoreRun) :
    s.AsksFor (s.grantRun address work run) .upstream := by
  unfold State.grantRun
  dsimp only
  split <;> exact State.asksFor_issue _ _ _ _ _ _ _ _

theorem State.asksFor_grantUpstream (s : State) : s.AsksFor s.grantUpstream .upstream := by
  unfold State.grantUpstream
  split
  · exact State.asksFor_issue _ _ _ _ _ _ _ _
  · split
    · exact State.asksFor_issue _ _ _ _ _ _ _ _
    · exact s.asksFor_self _
  · split
    · exact s.asksFor_grantRun _ _ _
    · exact State.asksFor_issue _ _ _ _ _ _ _ _
    · exact s.asksFor_self _
  · exact s.asksFor_self _

theorem State.asksFor_grantWriteBack (s : State) : s.AsksFor s.grantWriteBack .writeBack := by
  unfold State.grantWriteBack
  split
  · exact s.asksFor_self _
  · exact State.asksFor_issue _ _ _ _ _ _ _ _

theorem State.asksFor_grantMigration (s : State) : s.AsksFor s.grantMigration .migration := by
  unfold State.grantMigration State.grantCopy
  split
  · split
    · split <;> exact State.asksFor_issue _ _ _ _ _ _ _ _
    all_goals exact s.asksFor_self _
  all_goals exact s.asksFor_self _

theorem State.asksFor_grantScrub (s : State) : s.AsksFor s.grantScrub .scrub := State.asksFor_issue _ _ _ _ _ _ _ _

/-- With the slot free, what a grant leaves outstanding is no barred requester's. -/
theorem State.grant_spares_busy {s : State} (free : s.port.outstanding = none) (busy : List Requester) :
    ∀ b ∈ (s.grant busy).port.outstanding, b.purpose.requester ∉ busy := by
  intro b hb
  unfold State.grant at hb
  rw [free] at hb
  cases choice : s.choose busy with
  | none => simp [choice, free] at hb
  | some r =>
    obtain ⟨apart, -⟩ := State.choose_some choice
    have asks : ∀ t : State, (s.countPassOver busy r).AsksFor t r → b ∈ t.port.outstanding → b.purpose.requester ∉ busy := by
      intro t h hb
      rcases h b hb with old | mine
      · simp [State.countPassOver, free] at old
      · rwa [mine]
    simp only [choice] at hb
    cases r with
    | upstream => exact asks _ (State.asksFor_grantUpstream _) hb
    | writeBack => exact asks _ (State.asksFor_grantWriteBack _) hb
    | migration => exact asks _ (State.asksFor_grantMigration _) hb
    | scrub => exact asks _ (State.asksFor_grantScrub _) hb

/-- The ending that aborts the engine's migration leaves no copy access outstanding, whichever of it and the next grant comes first. -/
theorem State.no_copy_after_abort {s : State} {a : Access} (free : s.port.outstanding = none)
    (aborts : s.abortsCopy a true = true) (grantFirst : Bool) :
    ∀ b ∈ ((s.grantIfFirst grantFirst a true).hand a .failed).settle.port.outstanding,
      b.purpose ≠ .copyRead ∧ b.purpose ≠ .copyWrite := by
  have granted : ∀ b ∈ (s.grantIfFirst grantFirst a true).port.outstanding, b.purpose.requester ≠ .migration := by
    intro b hb
    cases grantFirst with
    | false => simp [State.grantIfFirst, free] at hb
    | true =>
      intro mine
      exact State.grant_spares_busy free _ b hb (by simp [mine, State.busyAfter, aborts])
  intro b hb
  obtain ⟨b', hb', p, -⟩ := ((State.settle_within _).trans (State.hand_failed_within _ a)).outstanding b hb
  have := granted b' hb'
  rw [p]
  constructor <;> intro copy <;> simp [copy, Purpose.requester] at this

/-- Settles O30: the run takes the failed ending by the fate of its migration; and the grant that comes first passes the engine over. -/
theorem spareStoreFails : Obligations.SpareStoreFails := by
  intro s a t work run rest dual up ho mine taken hp hc hr hd
  refine ⟨fun c u fails => ?_, fun grantFirst c flying hcmd => ?_⟩
  · obtain ⟨-, -, remap, migration, -, upstream, link, -⟩ := State.failsBy_keeps fails
    obtain ⟨completed, aborted, aborts⟩ := State.endStore_spare_failed u t hr hd
    rw [upstream] at completed aborted aborts
    rw [exec_of_failsBy ho fails,
      (State.hand_store taken (upstream ▸ hp) ((State.current_congr upstream).trans hc) .failed).2 mine]
    refine ⟨fun fate => ?_, fun stands hs => ⟨fun fate => ?_, fun copy r behind table fate hm hab => ?_⟩⟩
    · rw [completed fate]
      exact State.settle_eq_try (link.trans up)
    · rw [aborted fate, hs]
      exact State.settle_eq_try (link.trans up)
    · rw [aborts fate, ← hs, State.abortMigration_eq (by rw [hs]; exact migration.trans hm) (left := .retired .writeFailed) (by simp)
        (table := table) (by rw [hs]; simpa only [State.abortsTo, remap] using hab)]
      simp only [State.disposeRequest, State.failRequest_eq]
      refine State.settle_eq_try ?_
      rw [(State.afterFailure_keeps _ _ _ _).1, hs]
      exact link.trans up
  · have aborts : ∀ v : State, v.upstream = s.upstream → v.abortsCopy a true = true := by
      intro v same
      simp [State.abortsCopy, taken, mine, same, hp, hd, flying]
    rcases hcmd with rfl | rfl
    · simp only [exec, execMemoryResponse, State.takeResponse, ho, if_true, State.answerAccess]
      refine ⟨_, rfl, State.no_copy_after_abort ?_ (aborts _ ?_) grantFirst⟩
      all_goals rfl
    · simp only [exec, execResponseTimerExpiry, State.expireResponse, ho]
      refine ⟨_, rfl, State.no_copy_after_abort ?_ (aborts _ ?_) grantFirst⟩
      all_goals split <;> rfl

/-! ## The expiry that takes the link DOWN -/

/-- `t` has the link, the tag last given and the abandoned set of `s`. -/
def State.SameLink (t s : State) : Prop :=
  t.port.link = s.port.link ∧ t.port.lastTag = s.port.lastTag ∧ t.port.abandoned = s.port.abandoned

theorem State.SameLink.of_port {t s : State} (h : t.port = s.port) : t.SameLink s := by simp [State.SameLink, h]

theorem State.SameLink.trans {u t s : State} (h : u.SameLink t) (k : t.SameLink s) : u.SameLink s := by
  obtain ⟨h₁, h₂, h₃⟩ := h
  obtain ⟨k₁, k₂, k₃⟩ := k
  exact ⟨h₁.trans k₁, h₂.trans k₂, h₃.trans k₃⟩

theorem State.abortMigration_sameLink (s : State) (cause : AbortCause) : (s.abortMigration cause).SameLink s := by
  unfold State.abortMigration
  split
  · simp [State.SameLink, State.discardMigration_eq]
  all_goals exact .of_port rfl

theorem State.endStore_failed_sameLink (s : State) (t : Transaction) (work : StoreWork) (spare : Bool) :
    (s.endStore t work spare .failed).SameLink s := by
  unfold State.endStore State.endSpareStore
  split
  · split
    · exact .of_port (by simp)
    · exact (State.abortMigration_sameLink _ _).trans (.of_port (by simp))
    · exact .of_port (by simp)
    · exact .of_port (by simp)
  · exact .of_port rfl
  · exact .of_port (by simp)

theorem State.endUpstream_failed_sameLink (s : State) (spare : Bool) (block : Nat) :
    (s.endUpstream spare block .failed).SameLink s := by
  unfold State.endUpstream
  split
  · exact .of_port rfl
  · exact .of_port rfl
  · exact s.endStore_failed_sameLink _ _ _
  · exact .of_port rfl

theorem State.hand_failed_sameLink (s : State) (a : Access) : (s.hand a .failed).SameLink s := by
  unfold State.hand
  split
  · exact .of_port rfl
  · split
    iterate 5 exact s.endUpstream_failed_sameLink _ _
    · unfold State.endCopyRead
      split
      · contradiction
      · split
        · exact .of_port rfl
        · exact s.abortMigration_sameLink _
      all_goals exact .of_port rfl
    · unfold State.endCopyWrite
      split
      · contradiction
      · exact s.abortMigration_sameLink _
      all_goals exact .of_port rfl
    · exact .of_port (by simp)
    · exact .of_port rfl

theorem State.settle_sameLink (s : State) : s.settle.SameLink s := by
  have ended : ∀ t : State, t.endWithoutIssue.SameLink t := by
    intro t
    unfold State.endWithoutIssue
    split
    · exact t.endUpstream_failed_sameLink _ _
    · exact .of_port rfl
  have tried : s.settle.SameLink s.endWithoutIssue.endWithoutIssue := .of_port (State.tryStart_port _)
  exact tried.trans ((ended _).trans (ended s))

/-- With nothing outstanding, a failed ending leaves nothing outstanding. -/
theorem State.Within.free {t s : State} (h : t.Within s) (free : s.port.outstanding = none) : t.port.outstanding = none := by
  cases ho : t.port.outstanding with
  | none => rfl
  | some b =>
    obtain ⟨c, hc, -⟩ := h.outstanding b ho
    simp [free] at hc

/-- A scrub read that fails moves the position on (R129). -/
theorem State.endScrub_failed {s : State} {block line : Nat} (hl : s.scrubber.line ≤ 15)
    (hb : s.scrubber.block < s.settings.visible) : s.endScrub block line .failed = s.scrubMoved := by
  simp only [State.endScrub, State.advanceScrub, State.scrubMoved]
  by_cases low : s.scrubber.line < 15
  · simp [low, show s.scrubber.line ≠ 15 by omega]
  · by_cases inside : s.scrubber.block + 1 < s.settings.visible
    · simp [low, inside, show s.scrubber.block + 1 ≠ s.settings.visible by omega]
    · simp [State.endPass, show s.scrubber.line = 15 by omega,
        show s.scrubber.block + 1 = s.settings.visible by omega]

/-- An access that fails leaves the scrubber alone, unless it is the scrubber's. -/
theorem State.hand_scrubber {s : State} {a : Access} (other : a.purpose ≠ .scrubRead) (ending : Ending) :
    (s.hand a ending).scrubber = s.scrubber := by
  unfold State.hand
  split
  · rfl
  · split
    case h_8 scrub => exact absurd scrub other
    all_goals simp

theorem State.hand_failed_timer (s : State) (a : Access) : (s.hand a .failed).scrubber.timer = s.scrubber.timer := by
  by_cases mine : a.purpose = .scrubRead
  · unfold State.hand
    rw [mine]
    split
    · rfl
    · simp only [State.endScrub, State.advanceScrub]
      (repeat' split) <;> rfl
  · rw [State.hand_scrubber mine]

/-! ### A request that ends without issue after its access has failed -/

/-- While the link is DOWN, once no spare access is pending the first end without issue is the last. -/
theorem State.endWithoutIssue_twice {s : State} (down : s.port.link = .down) (free : s.port.outstanding = none)
    (single : s.dualPending = false) : s.endWithoutIssue.endWithoutIssue = s.endWithoutIssue := by
  cases asks : s.upstream.progress.needsAccess with
  | false => rw [State.endWithoutIssue_of_quiet asks, State.endWithoutIssue_of_quiet asks]
  | true =>
    have ended := State.endWithoutIssue_of_down down free asks
    rw [single] at ended
    have quiet : s.endUpstream false 0 .failed = s ∨ (s.endUpstream false 0 .failed).upstream.progress.needsAccess = false := by
      unfold State.endUpstream
      split
      · exact .inr rfl
      · exact .inr rfl
      · exact .inr (by rw [State.endStore_failed]; rfl)
      · exact .inl rfl
    rcases quiet with same | done
    · rw [ended, same, ended, same]
    · rw [ended, State.endWithoutIssue_of_quiet done]

/-- No spare access comes to be pending where places are only given up. -/
theorem State.Within.single {t s : State} (h : t.Within s) (single : s.dualPending = false) : t.dualPending = false := by
  have inside := h.progress.2
  unfold State.dualPending at single ⊢
  split
  · rename_i work hp
    obtain ⟨was, hwas, -, dual⟩ := inside work (by rw [hp]; rfl)
    obtain hs : s.upstream.progress = .store was := by
      cases hq : s.upstream.progress <;> simp_all [Progress.store?]
    rw [hs] at single
    cases hd : work.dual with
    | none => rfl
    | some d =>
      obtain ⟨-, e, he, -⟩ := dual d hd
      simp [Option.mem_def.mp he] at single
  all_goals rfl

/-- A run whose spare access has failed has none pending. -/
theorem State.dualPending_endStore_spare {s : State} {t : Transaction} {work : StoreWork} {run : StoreRun} {rest : List StoreRun}
    {dual : DualWrite} (hr : work.runs = run :: rest) (hd : work.dual = some dual) :
    (s.endStore t work true .failed).dualPending = false := by
  have stood : State.dualPending { s with upstream := { s.upstream with progress := work.succeeded rest } } = false := by
    cases rest <;> rfl
  obtain ⟨completed, aborted, aborts⟩ := State.endStore_spare_failed s t hr hd
  cases fate : dual.fate with
  | completed =>
    rw [completed fate]
    rfl
  | aborted =>
    rw [aborted fate]
    exact stood
  | inFlight =>
    rw [aborts fate]
    exact (State.abortMigration_within _ _).single stood

theorem State.endUpstream_failed_block (s : State) (spare : Bool) (block block' : Nat) :
    s.endUpstream spare block .failed = s.endUpstream spare block' .failed := by
  unfold State.endUpstream
  split <;> rfl

theorem Progress.store?_eq_some {p : Progress} {work : StoreWork} (h : p.store? = some work) : p = .store work := by
  cases p <;> simp_all [Progress.store?]

/-- The access the upstream port's phase calls for, the first of a dual store apart: its failed ending is the one the request takes without
issue. -/
theorem State.hand_of_called {s : State} {a : Access} (taken : a.discarded = false) (called : s.calledFor a = true)
    (mine : a.purpose = .fetch ∨ a.purpose = .mergeRead ∨ a.purpose = .storeSingle ∨ a.purpose = .storeSpare) :
    s.upstream.progress.needsAccess = true ∧ s.hand a .failed = s.endUpstream s.dualPending 0 .failed
      ∧ ∀ work, s.upstream.progress = .store work → work.runs ≠ [] := by
  rw [s.endUpstream_failed_block _ 0 a.block]
  rcases mine with h | h | h | h
  · have hp : s.upstream.progress = .fetch := by simpa [State.calledFor, h] using called
    simp [State.hand, taken, h, State.dualPending, hp, Progress.needsAccess]
  · have hp : s.upstream.progress = .mergeRead := by simpa [State.calledFor, h] using called
    simp [State.hand, taken, h, State.dualPending, hp, Progress.needsAccess]
  · obtain ⟨work, store, single, runs⟩ :
        ∃ work, s.upstream.progress.store? = some work ∧ work.dual = none ∧ work.runs ≠ [] := by
      simpa [State.calledFor, h, Option.any_eq_true] using called
    have hp := Progress.store?_eq_some store
    simpa [State.hand, taken, h, State.dualPending, hp, Progress.needsAccess, single] using runs
  · obtain ⟨work, store, pending, runs⟩ :
        ∃ work, s.upstream.progress.store? = some work ∧ work.dual.isSome = true ∧ work.runs ≠ [] := by
      simpa [State.calledFor, h, Option.any_eq_true] using called
    have hp := Progress.store?_eq_some store
    simpa [State.hand, taken, h, State.dualPending, hp, Progress.needsAccess, pending] using runs

/-- While the link is DOWN, the failed access of a request leaves what the request's end without issue leaves. -/
theorem State.settle_hand_of_called {s : State} {a : Access} (down : s.port.link = .down) (free : s.port.outstanding = none)
    (taken : a.discarded = false) (called : s.calledFor a = true)
    (mine : a.purpose = .fetch ∨ a.purpose = .mergeRead ∨ a.purpose = .storeSingle ∨ a.purpose = .storeSpare) :
    (s.hand a .failed).settle = s.settle := by
  obtain ⟨asks, taken, runs⟩ := State.hand_of_called taken called mine
  have handed : s.hand a .failed = s.endWithoutIssue := taken.trans (State.endWithoutIssue_of_down down free asks).symm
  have once : s.hand a .failed = s ∨ (s.hand a .failed).dualPending = false := by
    cases single : s.dualPending with
    | false => exact .inr ((s.hand_failed_within a).single single)
    | true =>
      rw [taken, single]
      unfold State.endUpstream
      split
      · exact .inr rfl
      · exact .inr rfl
      · rename_i work t hp _
        obtain ⟨dual, hd⟩ := Option.isSome_iff_exists.mp ((State.dualPending_of_store hp).symm.trans single)
        obtain ⟨run, rest, hr⟩ := List.exists_cons_of_ne_nil (runs work hp)
        exact .inr (State.dualPending_endStore_spare hr hd)
      · exact .inl rfl
  rcases once with same | single
  · rw [same]
  · have here : (s.hand a .failed).port.link = .down := (s.hand_failed_sameLink a).1.trans down
    rw [State.settle, State.endWithoutIssue_twice here ((s.hand_failed_within a).free free) single, handed]
    rfl

/-- With the link DOWN, a failed ending and what follows it leave it so, and nothing outstanding or waiting. -/
theorem State.settle_hand_of_down {s : State} (down : s.port.link = .down) (free : s.port.outstanding = none) (a : Access) :
    (s.hand a .failed).settle.SameLink s ∧ (s.hand a .failed).settle.port.outstanding = none
      ∧ (∀ r, (s.hand a .failed).settle.waiting r = false) ∧ (s.hand a .failed).settle.flags.linkDown = true
      ∧ (s.hand a .failed).requestEnds (s.hand a .failed).settle := by
  have same := (State.settle_sameLink (s.hand a .failed)).trans (s.hand_failed_sameLink a)
  have link : (s.hand a .failed).settle.port.link = .down := same.1.trans down
  have handed := (s.hand_failed_within a).free free
  exact ⟨same, (State.settle_within _).free handed, fun r => by simp [State.waiting, link], by simp [State.flags, link],
    State.settle_requestEnds ((s.hand_failed_sameLink a).1.trans down) handed⟩

/-- Settles O28: the requester takes its failed ending with the link DOWN, and the request that then waits ends without issue
(`State.settle_requestEnds`). -/
theorem eighthTagTakesLinkDown : Obligations.EighthTagTakesLinkDown := by
  intro s a grantFirst ho eighth
  obtain ⟨⟨link, tag, abandoned⟩, free, quiet, flag, ends⟩ := State.settle_hand_of_down (s := s.linkLost a) rfl rfl a
  refine ⟨_, exec_expiry_of_eighth ho eighth grantFirst, link, abandoned, free, tag, quiet, ?_, flag, ?_, ?_, ?_, ?_, ?_⟩
  · rw [State.settle_scrubber, State.hand_failed_timer]
    rfl
  · rw [State.settle_mode, State.hand_mode]
    rfl
  · rw [State.settle_settings, State.hand_settings]
    rfl
  · rw [State.settle_management, State.hand_management]
    rfl
  · intro due other
    rw [State.settle_scrubber, State.hand_scrubber other]
    simp [State.linkLost, due]
  rintro lost hlost
  rw [← hlost] at ends ⊢
  have migration : lost.migration = s.migration := by rw [hlost]; rfl
  refine ⟨fun discarded => ?_, fun taken => ⟨fun mine hl hb => ?_, fun mine => ?_, fun copy mine hw low => ?_,
    fun copy r behind detail left table hm how hab => ?_, fun mine called => ?_, fun transaction work mine hp hc => ?_⟩⟩
  · have handed : lost.hand a .failed = lost := by simp [State.hand, discarded]
    rwa [handed] at ends ⊢
  · have handed : lost.hand a .failed = lost.scrubMoved := by
      simp only [State.hand, taken, mine]
      exact State.endScrub_failed (block := a.block) (line := a.line) (by rw [hlost]; exact hl) (by rw [hlost]; exact hb)
    rwa [handed] at ends ⊢
  · have writeBack : lost.writeBack = s.writeBack := by rw [hlost]; rfl
    rw [State.hand_writeBack mine, taken, writeBack] at ends ⊢
    exact ends
  · have handed : lost.hand a .failed = { lost with
        migration := { s.migration with
          engine := .copying { copy with attempt := copy.attempt + 1, inFlight := false, overtaken := false } } } := by
      simp [State.hand, taken, mine, State.endCopyRead, migration, hw, low]
    rwa [handed] at ends ⊢
  · have aborted : ∀ cause : AbortCause, cause.detail = detail →
        (left = if cause = .targetFailed then .retired .writeFailed else .free) →
        (∀ (v : State) r' rest target, v.disposeRequest cause r' rest target = v.afterFailure r' rest target) →
        lost.abortMigration cause = (lost.afterAbort copy r table detail).afterFailure r behind copy.target := by
      rintro cause rfl hleft hdispose
      rw [State.abortMigration_eq (migration.trans hm) hleft (table := table) (by rw [hlost]; exact hab), hdispose]
    have handed : lost.hand a .failed = (lost.afterAbort copy r table detail).afterFailure r behind copy.target := by
      rcases how with ⟨mine, attempts, rfl, rfl⟩ | ⟨mine, rfl, rfl⟩
      · rw [← aborted .readFailed rfl (by simp) State.failRequest_eq]
        simp [State.hand, taken, mine, State.endCopyRead, migration, hm, show ¬ copy.attempt < 3 by omega]
      · rw [← aborted .targetFailed rfl (by simp) State.failRequest_eq]
        simp [State.hand, taken, mine, State.endCopyWrite, migration, hm]
    rwa [handed] at ends ⊢
  · have down : lost.port.link = .down ∧ lost.port.outstanding = none := by rw [hlost]; exact ⟨rfl, rfl⟩
    have calls : lost.calledFor a = true := by
      rw [hlost]
      rcases mine with h | h | h | h <;> simpa only [State.calledFor, h, State.linkLost] using called
    rw [State.settle_hand_of_called down.1 down.2 taken calls mine]
    exact State.settle_requestEnds down.1 down.2
  · have upstream : lost.upstream = s.upstream := by rw [hlost]; rfl
    have handed := (State.hand_store taken (s := lost) (by rw [upstream]; exact hp)
      ((State.current_congr upstream).trans hc) .failed).1 (.inr mine)
    rw [State.endStore_failed, upstream] at handed
    rw [handed] at ends ⊢
    exact ends.1 rfl

/-! ## The ends of a copy read -/

/-- A word that is not CORRECTED is read as it is stored (R80). -/
theorem classify_data {w : StoredWord} (h : (classify w).1 ≠ .corrected) : (classify w).2 = storedData w := by
  revert h
  unfold classify
  dsimp only
  (repeat' split) <;> simp

/-- The line buffer's form of a word: clean for a CLEAN or CORRECTED word, else a poison form over its stored data (R43). -/
theorem copyForm_eq (w : StoredWord) : copyForm w
    = if (classify w).1 = .clean ∨ (classify w).1 = .corrected then cleanForm (classify w).2 else poisonForm (storedData w) := by
  have data := classify_data (w := w)
  unfold copyForm
  split <;> simp_all

/-- The words of a full response are those the read takes (R111). -/
theorem State.receive_of_full (s : State) {a : Access} {words : List StoredWord} (full : words.length = a.count) :
    s.receive a words = (s, words) := by simp [State.receive, ← full]

/-- A read access that ends OK with all its words, and no grant taken first: its requester takes them over the freed slot. -/
theorem exec_read_ok {s : State} {a : Access} {words : List StoredWord} (ho : s.port.outstanding = some a)
    (taken : a.discarded = false) (read : a.purpose.isWrite = false) (full : words.length = a.count) :
    exec (.memoryResponse a.tag .ok words false) s = .next (s.freeSlot.hand a (.ok words)).settle := by
  simp [exec, execMemoryResponse, State.takeResponse, ho, State.answerAccess, State.grantIfFirst, State.handOk, taken, read,
    State.receive_of_full _ full]

/-- `t` has the engine COPYING `work`, and the table and the write-back buffer of `s`. -/
def State.CopiesOn (t s : State) (work : CopyWork) : Prop :=
  t.migration.engine = .copying work ∧ t.remap = s.remap ∧ t.writeBack = s.writeBack

theorem State.CopiesOn.trans {u t s : State} {work : CopyWork} (h : u.CopiesOn t work) (k : t.CopiesOn s work) :
    u.CopiesOn s work := by
  obtain ⟨engine, remap, writeBack⟩ := h
  obtain ⟨-, remap', writeBack'⟩ := k
  exact ⟨engine, remap.trans remap', writeBack.trans writeBack'⟩

section
variable {s : State} {work : CopyWork} (hw : s.migration.engine = .copying work)
include hw

/-- A candidate does not move an engine that is COPYING: the try its request brings is not made (R38, R63). -/
theorem State.becomeCandidate_copiesOn (source : RecordSource) (l : Location) (offset : Nat) :
    (s.becomeCandidate source l offset).CopiesOn s work := by
  unfold State.becomeCandidate
  dsimp only
  split
  · exact ⟨hw, rfl, rfl⟩
  · split
    · rw [State.tryStart_of_settled]
      · exact ⟨hw, rfl, rfl⟩
      · exact State.mayTry_of_copying hw
    · exact ⟨hw, rfl, rfl⟩

theorem State.countOutcome_copiesOn (source : RecordSource) (l : Location) (offset : Nat) (bad full : Bool) :
    (s.countOutcome source l offset bad full).1.CopiesOn s work := by
  unfold State.countOutcome
  split
  · split <;> exact ⟨hw, rfl, rfl⟩
  · split
    · exact ⟨hw, rfl, rfl⟩
    · dsimp only
      split
      · refine .trans (State.becomeCandidate_copiesOn ?_ _ _ _) ?_
        · exact hw
        · exact ⟨hw, rfl, rfl⟩
      · exact ⟨hw, rfl, rfl⟩

theorem State.takeWord_copiesOn {use : ReadUse} (quiet : use.offers = false) (word : Nat) (w : StoredWord) (full : Bool) :
    (s.takeWord use word w full).1.CopiesOn s work := by
  have noted : ∀ t : State, t.CopiesOn s work → ∀ bad, (t.countOutcome use.source (locationOf s.settings use.block)
      (16 * use.line + word) bad full).1.CopiesOn s work :=
    fun t h bad => (State.countOutcome_copiesOn h.1 _ _ _ _ _).trans h
  have same : s.CopiesOn s work := ⟨hw, rfl, rfl⟩
  unfold State.takeWord
  dsimp only
  split
  · exact same
  · simp only [quiet, Bool.false_eq_true, if_false]
    refine noted _ ?_ _
    split <;> exact same
  · refine noted _ ?_ _
    exact same
  · split <;> exact same

end

/-- What reading words that are offered to no one leaves alone while the engine is COPYING. -/
theorem State.takeWords_copiesOn {use : ReadUse} (quiet : use.offers = false) {work : CopyWork} (words : List StoredWord) (s : State)
    (word : Nat) (full : Bool) (hw : s.migration.engine = .copying work) : (s.takeWords use word words full).CopiesOn s work := by
  induction words generalizing s word full with
  | nil => exact ⟨hw, rfl, rfl⟩
  | cons w words ih =>
    have one := State.takeWord_copiesOn hw quiet word w full
    exact (ih _ _ _ one.1).trans one

/-- A copy read that fails is made again below the third attempt, and else aborts the migration (R45). -/
theorem State.endCopyRead_failed {s : State} {work : CopyWork} (hw : s.migration.engine = .copying work) (block line : Nat) :
    s.endCopyRead block line .failed
      = if work.attempt < 3 then
          { s with
            migration := { s.migration with
              engine := .copying { work with attempt := work.attempt + 1, inFlight := false, overtaken := false } } }
        else s.abortMigration .readFailed := by
  simp only [State.endCopyRead, hw]

/-- An access that fails aborts the migration, with no grant taken first; then the engine tries (R51 to R53). -/
theorem exec_abort {s u : State} {a : Access} {c : Instr} {work : CopyWork} {r : Request} {rest : List Request} {cause : AbortCause}
    {left : RemapEntry} {table : RemapTable} (ho : s.port.outstanding = some a) (fails : s.failsBy a c u) (up : s.port.link = .up)
    (hand : u.hand a .failed = u.abortMigration cause) (hcause : cause = .targetFailed ∨ cause = .readFailed)
    (hm : s.migration = { queue := r :: rest, engine := .copying work })
    (hl : left = if cause = .targetFailed then .retired .writeFailed else .free) (hab : s.abortsTo work.target left table) :
    exec c s = exec .migrationStart ((u.afterAbort work r table cause.detail).afterFailure r rest work.target) := by
  obtain ⟨-, -, remap, migration, -, -, link, -⟩ := State.failsBy_keeps fails
  have dispose : ∀ v : State, v.disposeRequest cause r rest work.target = v.afterFailure r rest work.target := by
    intro v
    rw [← State.failRequest_eq]
    rcases hcause with rfl | rfl <;> rfl
  rw [exec_of_failsBy ho fails, hand,
    State.abortMigration_eq (migration.trans hm) hl (table := table) (by simpa only [State.abortsTo, remap] using hab), dispose]
  refine State.settle_eq_try ?_
  rw [(State.afterFailure_keeps _ _ _ _).1]
  exact link.trans up

/-- Settles O37: the line buffer takes the words' forms, and reading them moves neither the engine nor the table
(`State.takeWords_copiesOn`). -/
theorem copyReadEnds : Obligations.CopyReadEnds := by
  intro s a work words up ho mine taken count hw
  have handed : ∀ (v : State) ending, v.hand a ending = v.endCopyRead a.block a.line ending := by
    intro v ending
    simp [State.hand, taken, mine]
  refine ⟨fun full => ?_, fun c u fails => ⟨fun low => ?_, fun r rest table high hq hab => ?_⟩⟩
  · obtain ⟨filled, hfilled⟩ : ∃ v : State, v = { s.freeSlot with
        migration := { s.migration with engine := .copying { work with phase := .writing (words.map copyForm) } } } := ⟨_, rfl⟩
    have read := exec_read_ok ho taken (by rw [mine]; rfl) (full.trans count.symm)
    have ended : s.freeSlot.hand a (.ok words) = filled.takeWords
        { source := .copy, block := a.block, line := a.line, recordsPoison := false, offers := false } 0 words false := by
      rw [handed, hfilled]
      simp only [State.endCopyRead, State.freeSlot_migration, hw]
    have copying : filled.migration.engine = .copying { work with phase := .writing (words.map copyForm) } := by rw [hfilled]
    obtain ⟨engine, remap, writeBack⟩ := State.takeWords_copiesOn
      (use := { source := .copy, block := a.block, line := a.line, recordsPoison := false, offers := false }) rfl words filled 0 false
      copying
    have port : filled.port = { s.port with outstanding := none } := by rw [hfilled]; rfl
    rw [← ended] at engine remap writeBack
    have same : (s.freeSlot.hand a (.ok words)).port = { s.port with outstanding := none } := by
      rw [ended, State.takeWords_port, port]
    rw [State.settle_of_settled (by rw [same]; exact up) (State.mayTry_of_copying engine)] at read
    refine ⟨⟨_, words.map copyForm, read, by rw [same], engine, by simp [full], by rw [remap, hfilled]; rfl,
      by rw [writeBack, hfilled]; rfl, fun k w hk => by simp [hk, copyForm_eq]⟩, fun clean => ?_⟩
    have forms : words.map copyForm = words.map fun w => cleanForm (storedData w) := by
      refine List.map_congr_left fun w hmem => ?_
      rw [copyForm_eq, if_pos (.inl (clean w hmem)), classify_data (by rw [clean w hmem]; decide)]
    rw [read, ended, State.takeWords_clean clean, hfilled, forms]
    rfl
  · obtain ⟨mode, settings, remap, migration, watch, upstream, link, -⟩ := State.failsBy_keeps fails
    rw [exec_of_failsBy ho fails, handed, State.endCopyRead_failed (by rw [migration]; exact hw), if_pos low, migration]
    rw [State.settle_of_settled]
    · exact link.trans up
    · exact State.mayTry_of_copying rfl
  · obtain ⟨-, -, -, migration, -⟩ := State.failsBy_keeps fails
    have hm : s.migration = { queue := r :: rest, engine := .copying work } := by rw [← hq, ← hw]
    refine exec_abort (cause := .readFailed) ho fails up ?_ (.inr rfl) hm (by simp) hab
    rw [handed, State.endCopyRead_failed (by rw [migration]; exact hw), if_neg (by omega)]

/-! ## The ends of a copy write -/

/-- The engine's request barred, a waiting upstream request is granted before a scrub that is not overdue (R117). -/
theorem State.choose_upstream {s : State} (asks : s.waiting .upstream = true)
    (scrub : s.waiting .scrub = true → s.port.scrubPassed ≠ 32) : s.choose [.migration] = some .upstream := by
  have upstream : s.candidate [.migration] .upstream = true := by simp [State.candidate, asks]
  have migration : s.candidate [.migration] .migration = false := by simp [State.candidate]
  have overdue : ¬ (s.candidate [.migration] .scrub = true ∧ s.port.scrubPassed = 32) := by
    rintro ⟨candidate, passed⟩
    exact scrub (by simpa [State.candidate] using candidate) passed
  simp [State.choose, migration, overdue, upstream]

/-- A copy write that ends OK over an overtaken line: the line is copied again, and held from the fourth overtake (R44, R47, R48). -/
theorem State.endCopyWrite_overtaken {s : State} {work : CopyWork} (hw : s.migration.engine = .copying work)
    (overtaken : work.overtaken = true) (line : Nat) (words : List StoredWord) : s.endCopyWrite line (.ok words)
      = { s with
          migration := { s.migration with engine := .copying (CopyWork.attemptAt work.target (work.overtakes + 1)) } } := by
  simp [State.endCopyWrite, hw, overtaken]

/-- Settles O38: the line ends overtaken or not; the store granted first overtakes it (`State.grantRun_overtakes`). -/
theorem copyWriteEnds : Obligations.CopyWriteEnds := by
  intro s a work source cursor copyFrom origin up ho mine taken hw entry hline
  have handed : ∀ (v : State) ending, v.hand a ending = v.endCopyWrite a.line ending := by
    intro v ending
    simp [State.hand, taken, mine]
  refine ⟨fun overtaken => ?_, fun clear below => ?_,
    fun freed t store run rest hfreed asks scrub hp hc hr hd miss routes hb hl flying => ?_⟩
  · rw [exec_write_ok ho (by rw [mine]; rfl), handed, State.endCopyWrite_overtaken (s := s.freeSlot) hw overtaken,
      State.settle_of_settled]
    · rfl
    · exact up
    · exact State.mayTry_of_copying rfl
  · have advanced : s.freeSlot.endCopyWrite a.line (.ok []) = { s.freeSlot with
        remap := setEntry s.remap work.target (.copying source copyFrom (cursor + 1) origin)
        migration := { s.migration with engine := .copying (CopyWork.attemptAt work.target 0) } } := by
      simp [State.endCopyWrite, hw, clear, hline, below, advanceCursor, entry]
    rw [exec_write_ok ho (by rw [mine]; rfl), handed, advanced, State.settle_of_settled]
    · rfl
    · exact up
    · exact State.mayTry_of_copying rfl
  · have same : s.freeSlot = freed := hfreed.symm
    have granted : freed.grantIfFirst true a false = State.issue
        { freed.countPassOver [.migration] .upstream with
          migration := { s.migration with engine := .copying { work with overtaken := true } } } .storeSingle
        (fromBlock s.settings.visible source copyFrom) cursor run.first run.forms.length run.forms := by
      have busy : freed.busyAfter a false = [.migration] := by simp [State.busyAfter, mine, taken, State.abortsCopy]; rfl
      have choice : freed.choose [.migration] = some .upstream := State.choose_upstream asks (by rw [hfreed] at scrub ⊢; exact scrub)
      have counted : ∃ v : State, v = freed.countPassOver [.migration] .upstream ∧ v.upstream = s.upstream
          ∧ v.migration = s.migration ∧ v.remap = s.remap ∧ v.injection = s.injection ∧ v.settings = s.settings :=
        ⟨_, rfl, by rw [hfreed]; exact ⟨rfl, rfl, rfl, rfl, rfl⟩⟩
      obtain ⟨v, hv, upstream, migration, remap, injection, settings⟩ := counted
      rw [State.grantIfFirst, if_pos rfl, busy, State.grant_upstream (by rw [hfreed]) choice, ← hv,
        State.grantUpstream_run (t := t) (by rw [upstream, hp]) ((State.current_congr upstream).trans hc) hr hd,
        State.grantRun_overtakes (by rw [migration, hw]) (by rw [remap, entry]) (by rw [remap, routes]) hb.symm hl.symm flying
          (by rwa [injection]), migration, ← settings]
    have ended : exec (.memoryResponse a.tag .ok [] true) s
        = .next ((freed.grantIfFirst true a false).hand a (.ok [])).settle := by
      simp [exec, execMemoryResponse, State.takeResponse, ho, State.answerAccess, same, State.handOk, mine, Purpose.isWrite]
    rw [ended, granted, handed, State.issue_store (by decide), State.endCopyWrite_overtaken rfl rfl, State.settle_of_settled]
    · subst hfreed
      rfl
    · subst hfreed
      exact up
    · exact State.mayTry_of_copying rfl

/-- The completion of a migration, with the table it leaves (R25, R49). -/
theorem State.completeMigration_eq {s : State} {work : CopyWork} {r : Request} {rest : List Request} (hq : s.migration.queue = r :: rest) :
    s.completeMigration work = State.placeFreed { s with
      remap := completeEntries s.remap work.target
      migration := { queue := rest, engine := .idle }
      watch := s.watch.remove r.location
      upstream := { s.upstream with progress := s.upstream.progress.withFate .completed }
      records := s.records.take
        { kind := .migrationDone, source := .engine, location := some r.location, spare := some work.target } } := by
  simp only [State.completeMigration, hq, State.settleFate_eq]
  rfl

/-- Settles O39: the copy of line 15 completes the migration, and the try follows. -/
theorem migrationCompletes : Obligations.MigrationCompletes := by
  intro s a work r rest source origin up ho mine taken line hm clear table done hdone hentry
  have entries : completeEntries s.remap work.target = table := by
    rcases hentry with ⟨entry, rfl⟩ | ⟨j, old, entry, left, rfl⟩
    · simp only [completeEntries, entry, settleLeaving]
    · simp only [completeEntries, entry, settleLeaving, left]
  have completed : s.freeSlot.hand a (.ok []) = done.placeFreed := by
    have ended : s.freeSlot.hand a (.ok []) = s.freeSlot.completeMigration work := by
      simp [State.hand, taken, mine, State.endCopyWrite, hm, clear, line]
    rw [ended, State.completeMigration_eq (s := s.freeSlot) (by rw [State.freeSlot_migration, hm]), hdone, ← entries]
    rfl
  rw [exec_write_ok ho (by rw [mine]; rfl), completed]
  refine State.settle_eq_try ?_
  rw [State.placeFreed_port, hdone]
  exact up

/-- Settles O40: the failed copy write aborts with target failure, and the request takes its first or its second failure. -/
theorem secondFailureDropsRequest : Obligations.SecondFailureDropsRequest := by
  intro s a work r rest table c u up ho mine taken hm hab fails aborted haborted
  obtain ⟨-, -, -, migration, watch, -⟩ := State.failsBy_keeps fails
  have tried : exec c s = exec .migrationStart (aborted.afterFailure r rest work.target) := by
    rw [haborted]
    refine exec_abort (cause := .targetFailed) ho fails up ?_ (.inl rfl) hm rfl hab
    simp [State.hand, taken, mine, State.endCopyWrite, migration, hm]
  rw [tried, haborted]
  refine ⟨fun first => ?_, fun second => ?_⟩
  · rw [State.afterFailure, if_pos first]
    rfl
  · rw [State.afterFailure, if_neg (by simp [second]), ← watch]
    rfl

/-! ## What the ends of a mode leave -/

theorem State.discardOutstanding_eq (s : State) (r : Requester) : s.discardOutstanding r = { s with
    port := { s.port with
      outstanding := s.port.outstanding.map fun a =>
        { a with discarded := a.discarded || a.purpose.requester == r } } } := by
  unfold State.discardOutstanding
  obtain ⟨_, _, _, _, _, _, _, ⟨outstanding, _, _, _, _, _⟩, _, _, _, _, _, _⟩ := s
  cases outstanding with
  | none => rfl
  | some a =>
    by_cases h : a.purpose.requester = r
    · simp [h]
    · simp [h, beq_eq_false_iff_ne.mpr h]

/-- The withdrawal of a scrub: IDLE with its position kept, and the result of a PENDING one's read discarded (R130). -/
theorem State.withdrawScrub_eq (s : State) : s.withdrawScrub = { s with
    scrubber := { s.scrubber with state := .idle }
    port := { s.port with
      scrubPassed := 0
      outstanding := s.port.outstanding.map fun a =>
        { a with discarded := a.discarded || (a.purpose == .scrubRead && s.scrubber.state == .pending) } } } := by
  have mine : ∀ p : Purpose, (p.requester == .scrub) = (p == .scrubRead) := by
    intro p
    cases p <;> rfl
  unfold State.withdrawScrub
  cases hs : s.scrubber.state with
  | pending =>
    simp only [State.discardOutstanding_eq, mine]
    simp
  | idle => simp [show (ScrubState.idle == ScrubState.pending) = false from rfl]
  | due => simp [show (ScrubState.due == ScrubState.pending) = false from rfl]

/-- An engine with no migration in flight that is stopped is IDLE (R40). -/
theorem State.stopEngine_of_rest {s : State} (h : s.migration.engine = .idle ∨ s.migration.engine = .blocked) (cause : AbortCause) :
    s.stopEngine cause = { s with migration := { s.migration with engine := .idle } } := by
  rcases h with idle | blocked
  · simp only [State.stopEngine, idle]
    rw [← idle]
  · simp only [State.stopEngine, blocked]

/-- A migration in flight that is stopped or reset is aborted, its request kept at the head unstarted (R51 to R53). -/
theorem State.stopEngine_of_copying {s : State} {work : CopyWork} {r : Request} {rest : List Request} {cause : AbortCause}
    {table : RemapTable} (hm : s.migration = { queue := r :: rest, engine := .copying work })
    (hcause : cause = .stopped ∨ cause = .reset) (hab : s.abortsTo work.target .free table) :
    s.stopEngine cause = { s.afterAbort work r table cause.detail with
      migration := { queue := { r with started := false } :: rest, engine := .idle } } := by
  have aborted : s.stopEngine cause = s.abortMigration cause := by simp only [State.stopEngine, hm]
  rw [aborted, State.abortMigration_eq hm (left := .free) (table := table) (by rcases hcause with rfl | rfl <;> simp) hab]
  rcases hcause with rfl | rfl <;> rfl

/-- The changes of GO_OFFLINE behind the engine's: the mode left at once where nothing is served (R149). -/
theorem State.leaves_eq {v : State} (stopping : v.mode = .stopping) :
    v.withdrawScrub.followTimer.emptyWriteBack.endStopping = { v with
      mode := if ∃ h ∈ v.upstream.held, h.mark = .serve then .stopping else .offline
      scrubber := { v.scrubber with timer := none, state := .idle }
      port := { v.port with
        scrubPassed := 0
        outstanding := v.port.outstanding.map fun a =>
          { a with
            discarded := a.discarded || a.purpose == .writeBack
              || (a.purpose == .scrubRead && v.scrubber.state == .pending) } }
      writeBack := { v.writeBack with entries := [] } } := by
  have order : ∀ a : Access, (a.discarded || (a.purpose == .scrubRead && v.scrubber.state == .pending)
      || a.purpose == .writeBack) = (a.discarded || a.purpose == .writeBack
        || (a.purpose == .scrubRead && v.scrubber.state == .pending)) := fun a => Bool.or_right_comm ..
  rw [State.withdrawScrub_eq, State.followTimer_eq, State.emptyWriteBack_eq]
  simp only [State.endStopping, State.holdsServe, stopping, Option.map_map, Function.comp_def, order, reduceCtorEq, false_and,
    if_false, true_and]
  by_cases serves : ∃ h ∈ v.upstream.held, h.mark = .serve
  · rw [if_pos serves, if_neg (by simpa using serves)]
  · rw [if_neg serves, if_pos (by simpa using serves)]

theorem exec_goOffline (s : State) :
    exec (.goOffline s.management.address []) s = .next (s.onBus true []).goOffline :=
  congrArg Host.Outcome.next (s.takeCommand_own [] State.goOffline)

/-- Settles O44: the engine is stopped, and the rest of the mode's work goes with it (`State.leaves_eq`). -/
theorem goOfflineByMode : Obligations.GoOfflineByMode := by
  intro s
  rw [exec_goOffline]
  refine ⟨fun other => ?_, fun online left hleft => ⟨fun rests => ?_, fun work r rest table hm hab => ?_⟩⟩
  · cases hmode : s.mode with
    | online => exact absurd hmode other
    | offline => simp only [State.goOffline, State.onBus_mode, hmode, State.onBus_answerStatus]
    | stopping => simp only [State.goOffline, State.onBus_mode, hmode, State.onBus_answerStatus]
  all_goals
    obtain ⟨v, hv⟩ : ∃ v : State, v = { s.onBus true [] with mode := .stopping } := ⟨_, rfl⟩
    have leaves : (s.onBus true []).goOffline
        = ((v.stopEngine .stopped).withdrawScrub.followTimer.emptyWriteBack.endStopping).answerStatus .ok := by
      simp only [State.goOffline, State.onBus_mode, online, hv]
      rfl
    rw [leaves, State.leaves_eq (by simp [hv])]
  · rw [State.stopEngine_of_rest (by rw [hv]; exact rests), hv, hleft]
    rfl
  · have order : ∀ a : Access, (a.discarded || a.purpose == .copyRead || a.purpose == .copyWrite || a.purpose == .writeBack
        || (a.purpose == .scrubRead && s.scrubber.state == .pending))
          = (a.discarded || a.purpose == .writeBack || (a.purpose == .scrubRead && s.scrubber.state == .pending)
            || a.purpose == .copyRead || a.purpose == .copyWrite) := fun a => by ac_rfl
    rw [State.stopEngine_of_copying (by rw [hv]; exact hm) (.inl rfl) (table := table) (by rw [hv]; exact hab), hv, hleft]
    simp only [State.afterAbort, State.onBus, State.answerStatus, State.respond, State.answered, Option.map_map, Function.comp_def,
      order]
    rfl

/-! ## The system reset -/

/-- What a system reset makes of `v`, in which the transactions are dropped and the engine is stopped (R153). -/
def State.resetRest (v : State) : State :=
  { v with
    mode := if v.mode = .online then .online else .offline
    injection := none
    writeBack := { v.writeBack with entries := [] }
    port := { v.port with
      outstanding := v.port.outstanding.map fun a => { a with discarded := a.discarded || a.purpose.requester != .upstream }
      migrationPassed := 0
      scrubPassed := 0 }
    scrubber := { v.scrubber with
      state := .idle
      timer := if v.mode = .online ∧ v.settings.scrubEnable = true ∧ v.port.link = .up then some 0 else none } }

/-- Every access of another requester than the upstream port is discarded by one of the reset's steps. -/
theorem discarded_rest (a : Access) (pending : Bool) :
    (a.discarded || a.purpose == .writeBack || a.purpose.requester == .migration || (a.purpose == .scrubRead && pending)
        || a.purpose.requester == .scrub)
      = (a.discarded || a.purpose.requester != .upstream) := by
  cases a.discarded <;> cases a.purpose <;> cases pending <;> rfl

theorem State.systemReset_eq (s : State) : s.systemReset = (s.dropTransactions.stopEngine .reset).resetRest := by
  generalize hv : s.dropTransactions.stopEngine .reset = v
  have mode : modeAfterReset v.mode = if v.mode = .online then .online else .offline := by cases v.mode <;> rfl
  have online : (modeAfterReset v.mode = .online) = (v.mode = .online) := by cases v.mode <;> simp [modeAfterReset]
  simp only [State.systemReset, hv, State.emptyWriteBack_eq, State.discardOutstanding_eq, State.withdrawScrub_eq, Option.map_map,
    Function.comp_def, discarded_rest, State.restartTimer, State.timerMayRun, State.resetRest, Bool.and_eq_true, beq_iff_eq, online,
    and_assoc, ← mode]

/-- The transactions dropped, and the engine stopped: with no phase to tell of it, an abort leaves the upstream port alone, and the copy
access it discards is one a reset discards. -/
theorem State.stopEngine_traffic {s : State} (idle : s.upstream.progress = .idle) (cause : AbortCause) :
    (s.stopEngine cause).upstream = s.upstream
      ∧ (s.stopEngine cause).resetRest.port = { s.port with
        outstanding := s.port.outstanding.map fun a => { a with discarded := a.discarded || a.purpose.requester != .upstream }
        migrationPassed := 0
        scrubPassed := 0 } := by
  have copies : ∀ a : Access, (a.discarded || a.purpose == .copyRead || a.purpose == .copyWrite || a.purpose.requester != .upstream)
      = (a.discarded || a.purpose.requester != .upstream) := by
    intro a
    cases a.discarded <;> cases a.purpose <;> rfl
  have told : ({ s.upstream with progress := s.upstream.progress.withFate .aborted } : Upstream) = s.upstream := by
    rw [idle, Progress.withFate, ← idle]
  unfold State.stopEngine State.abortMigration
  split
  · split
    · simp only [State.discardMigration_eq, State.settleFate_eq, State.resetRest, State.disposeRequest_port,
        State.disposeRequest_upstream, State.makeRecord_port, State.makeRecord_upstream, told, Option.map_map, Function.comp_def, copies]
      trivial
    all_goals exact ⟨rfl, rfl⟩
  all_goals exact ⟨rfl, rfl⟩

/-- An access is the upstream port's, which the dropped transactions discard, or another's. -/
theorem discarded_all (o : Option Access) :
    ((o.map fun a : Access => { a with discarded := a.discarded || a.purpose.requester == .upstream }).map fun a : Access =>
        { a with discarded := a.discarded || a.purpose.requester != .upstream })
      = o.map fun a : Access => { a with discarded := true } := by
  have either : ∀ a : Access, (a.discarded || a.purpose.requester == .upstream || a.purpose.requester != .upstream) = true := by
    intro a
    cases a.discarded <;> cases a.purpose <;> rfl
  simp only [Option.map_map, Function.comp_def, either]

theorem State.dropTransactions_eq (s : State) : s.dropTransactions = { s with
    upstream := { held := [], progress := .idle }
    port := { s.port with
      outstanding := s.port.outstanding.map fun a =>
        { a with discarded := a.discarded || a.purpose.requester == .upstream } } } := by
  rw [State.dropTransactions, State.discardOutstanding_eq]

/-- Settles O42: the transactions go, the engine is stopped, and the rest is `State.resetRest`; then the try. -/
theorem systemResetKeepsRepairs : Obligations.SystemResetKeepsRepairs := by
  intro s
  have reset : exec .systemReset s = .next (s.dropTransactions.stopEngine .reset).resetRest.tryStart := by
    rw [← State.systemReset_eq]
    rfl
  have rests : s.migration.engine = .idle ∨ s.migration.engine = .blocked →
      s.dropTransactions.stopEngine .reset = { s.dropTransactions with migration := { s.migration with engine := .idle } } := by
    intro h
    rw [State.stopEngine_of_rest (by rw [State.dropTransactions_migration]; exact h), State.dropTransactions_migration]
  refine ⟨⟨_, reset, ?_⟩, fun cleared hcleared => ⟨fun h => ?_, fun work r rest table hm hab kept hkept => ?_⟩⟩
  · obtain ⟨upstream, port⟩ := State.stopEngine_traffic (s := s.dropTransactions) rfl .reset
    have cleared : (s.dropTransactions.stopEngine .reset).resetRest.port = { s.port with
        outstanding := s.port.outstanding.map fun a => { a with discarded := true }
        migrationPassed := 0
        scrubPassed := 0 } := by
      rw [port, State.dropTransactions_eq]
      simp only [discarded_all]
    have link : (s.dropTransactions.stopEngine .reset).port.link = s.port.link := by
      have same := congrArg MemoryPort.link cleared
      exact same
    simp only [State.tryStart_mode, State.tryStart_settings, State.tryStart_injection, State.tryStart_upstream, State.tryStart_writeBack,
      State.tryStart_port, State.tryStart_scrubber, State.tryStart_management, cleared]
    refine ⟨?_, ?_, rfl, upstream.trans rfl, ?_, trivial, ?_, ?_, fun idle empty => ?_⟩
    · simp [State.resetRest]
    · simp [State.resetRest]
    · simp [State.resetRest]
    · simp [State.resetRest, link]
    · simp [State.resetRest]
    · rw [rests (.inl idle), State.tryStart_of_settled]
      · simp [State.resetRest, ← idle]
      · exact State.mayTry_of_empty empty
  · rw [reset, rests h, hcleared, State.dropTransactions_eq]
    simp only [State.resetRest, discarded_all]
    rfl
  · have stopped := State.stopEngine_of_copying (s := s.dropTransactions) (cause := .reset) (table := table)
      (by rw [State.dropTransactions_migration]; exact hm) (.inr rfl) (by simpa [State.abortsTo] using hab)
    have all : ∀ a : Access, (a.discarded || a.purpose.requester == .upstream || a.purpose == .copyRead || a.purpose == .copyWrite
        || a.purpose.requester != .upstream) = true := by
      intro a
      cases a.discarded <;> cases a.purpose <;> rfl
    have same : (s.dropTransactions.stopEngine .reset).resetRest = kept := by
      rw [stopped, State.dropTransactions_eq, hkept, hcleared]
      simp only [State.resetRest, State.afterAbort, Option.map_map, Function.comp_def, all, Bool.true_or]
      rfl
    rw [reset, same]
    refine ⟨rfl, fun down => ?_⟩
    rw [State.tryStart_of_down (by rw [hkept, hcleared]; exact down)]

/-! ## The start of a migration -/

theorem lowestFree_eq_some {t : RemapTable} {i : Nat} (hi : i < 64) (free : entryAt t i = .free)
    (lowest : ∀ j, j < i → entryAt t j ≠ .free) : lowestFree t = some i := by
  cases h : lowestFree t with
  | none => exact absurd free (lowestFree_none h hi)
  | some j =>
    obtain ⟨-, free', lowest'⟩ := lowestFree_some h
    rcases Nat.lt_trichotomy j i with below | same | above
    · exact absurd free' (lowest j below)
    · rw [same]
    · exact absurd free (lowest' i above)

/-- A try that finds a valid head and a FREE entry starts the head's migration into the lowest (R38, R39, R41). -/
theorem State.tryStart_starts {s : State} {r : Request} {rest : List Request} {target : Nat} (due : s.mayTry = true)
    (hq : s.migration.queue = r :: rest) (valid : s.validRequest r.location = true) (lowest : lowestFree s.remap = some target) :
    s.tryStart = s.startMigration r rest target := by
  have fuel : s.migration.queue.length + 33 = rest.length + 33 + 1 := by rw [hq, List.length_cons, Nat.add_right_comm]
  rw [State.tryStart, fuel, State.tryLoop, if_pos due]
  simp only [hq, valid, lowest, if_true]

/-- A request for a visible block is valid while no entry routes the block (R39). -/
theorem State.validRequest_visible {s : State} {b : Nat} (inside : b < s.settings.visible)
    (unrouted : ∀ i, i < 64 → (entryAt s.remap i).routed? ≠ some b) : s.validRequest (.visible b) = true := by
  simp [State.validRequest, inside, entryFor_eq_none unrouted]

/-- A request for a spare is valid while its entry is ACTIVE (R39). -/
theorem State.validRequest_spare {s : State} {j source : Nat} {origin : Origin} (inside : j < s.settings.spares)
    (active : entryAt s.remap j = .active source origin) : s.validRequest (.spare j) = true := by
  simp [State.validRequest, inside, active, RemapEntry.isActive]

/-- Settles O35: the head is valid and the target the lowest FREE entry, so the try starts it. -/
theorem migrationStarts : Obligations.MigrationStarts := by
  intro s r rest target online idle up single hq hi free lowest started hstarted
  have due : s.mayTry = true := State.mayTry_iff.mpr ⟨online, idle, by simp [hq], up, single⟩
  have least := lowestFree_eq_some hi free lowest
  subst hstarted
  refine ⟨fun b hb inside unrouted => ?_, fun j source origin hj inside active => ?_⟩
  · rw [exec_migrationStart, State.tryStart_starts due hq (by rw [hb]; exact State.validRequest_visible inside unrouted) least,
      State.startMigration_visible s hb]
    rfl
  · rw [exec_migrationStart, State.tryStart_starts due hq (by rw [hj]; exact State.validRequest_spare inside active) least,
      State.startMigration_spare hj active]
    rfl

/-! ## The repair commands -/

theorem exec_restoreRemap (s : State) (i code b0 b1 b2 : Byte) :
    exec (.restoreRemap s.management.address [i, code, b0, b1, b2]) s
      = .next ((s.onBus true []).restoreRemap i.toNat (restoreStateOf code) (leValue [b0, b1, b2])) :=
  congrArg Host.Outcome.next (s.takeCommand_own [i, code, b0, b1, b2] _)

theorem exec_dropRemap (s : State) (i : Byte) :
    exec (.dropRemap s.management.address [i]) s = .next ((s.onBus true []).dropRemap i.toNat) :=
  congrArg Host.Outcome.next (s.takeCommand_own [i] _)

theorem exec_releaseSpare (s : State) (i : Byte) :
    exec (.releaseSpare s.management.address [i]) s = .next ((s.onBus true []).releaseSpare i.toNat) :=
  congrArg Host.Outcome.next (s.takeCommand_own [i] _)

theorem State.restoreRemap_online {s : State} (h : s.mode ≠ .offline) (i : Nat) (state : Option RestoreState) (source : Nat) :
    s.restoreRemap i state source = s.answerStatus .wrongMode := by simp [State.restoreRemap, h]

theorem State.dropRemap_online {s : State} (h : s.mode ≠ .offline) (i : Nat) : s.dropRemap i = s.answerStatus .wrongMode := by
  simp [State.dropRemap, h]

theorem State.restoreRemap_outside {s : State} {i : Nat} (offline : s.mode = .offline) (h : s.settings.spares ≤ i)
    (state : Option RestoreState) (source : Nat) : s.restoreRemap i state source = s.answerStatus .badArgument := by
  simp [State.restoreRemap, offline, h]

theorem State.dropRemap_outside {s : State} {i : Nat} (offline : s.mode = .offline) (h : s.settings.spares ≤ i) :
    s.dropRemap i = s.answerStatus .badArgument := by simp [State.dropRemap, offline, h]

section
variable {s : State} {i : Nat} (offline : s.mode = .offline) (inside : i < s.settings.spares)
include offline inside

/-- RESTORE_REMAP to RETIRED, behind the checks of the mode and the index (R27). -/
theorem State.restoreRemap_retired (source : Nat) : s.restoreRemap i (some .retired) source
    = if entryAt s.remap i ≠ .free then s.answerStatus .conflict
      else State.answerStatus { s with remap := setEntry s.remap i (.retired .restored) } .ok := by
  rw [State.restoreRemap, if_neg (by simp [offline]), if_neg (by omega)]

/-- RESTORE_REMAP to ACTIVE, behind the checks of the mode and the index (R27). -/
theorem State.restoreRemap_active (source : Nat) : s.restoreRemap i (some .active) source
    = if s.settings.visible ≤ source then s.answerStatus .badArgument
      else if entryAt s.remap i ≠ .free then s.answerStatus .conflict
      else if namesSource s.remap source then s.answerStatus .duplicate
      else State.answerStatus { s with remap := setEntry s.remap i (.active source .restored) } .ok := by
  rw [State.restoreRemap, if_neg (by simp [offline]), if_neg (by omega)]

theorem State.restoreRemap_none (source : Nat) : s.restoreRemap i none source = s.answerStatus .badArgument := by
  rw [State.restoreRemap, if_neg (by simp [offline]), if_neg (by omega)]

theorem State.dropRemap_inside : s.dropRemap i = if (entryAt s.remap i).isActive = false then s.answerStatus .conflict
    else State.answerStatus { s with remap := setEntry s.remap i .free } .ok := by
  rw [State.dropRemap, if_neg (by simp [offline]), if_neg (by omega)]

end

theorem RemapEntry.isActive_iff {e : RemapEntry} : e.isActive = true ↔ ∃ source origin, e = .active source origin := by
  cases e <;> simp [RemapEntry.isActive]

theorem RemapEntry.isRetired_iff {e : RemapEntry} : e.isRetired = true ↔ ∃ reason, e = .retired reason := by
  cases e <;> simp [RemapEntry.isRetired]

theorem restoreStateOf_eq_none {code : Byte} (h3 : code ≠ 3) (h5 : code ≠ 5) : restoreStateOf code = none := by
  unfold restoreStateOf
  split
  · exact absurd rfl h3
  · exact absurd rfl h5
  · rfl

/-- RELEASE_SPARE behind its check of the index (R29). -/
theorem State.releaseSpare_inside {s : State} {i : Nat} (inside : i < s.settings.spares) :
    s.releaseSpare i = if (entryAt s.remap i).isRetired = false then s.answerStatus .conflict
      else (State.unblock { s with remap := setEntry s.remap i .free }).answerStatus .ok := by
  rw [State.releaseSpare, if_neg (by omega)]

theorem State.unblock_of_blocked {s : State} (h : s.migration.engine = .blocked) :
    s.unblock = State.tryStart { s with migration := { s.migration with engine := .idle } } := by simp [State.unblock, h]

theorem State.unblock_of_other {s : State} (h : s.migration.engine ≠ .blocked) : s.unblock = s := by
  unfold State.unblock
  split
  · contradiction
  all_goals rfl

theorem setEntry_setEntry (t : RemapTable) (i : Nat) (e e' : RemapEntry) : setEntry (setEntry t i e) i e' = setEntry t i e' := by
  simp [setEntry]

/-- An entry set FREE routes no block. -/
theorem unrouted_setEntry {t : RemapTable} {i b : Nat} (hi : i < 64) (unrouted : ∀ j, j < 64 → (entryAt t j).routed? ≠ some b) :
    ∀ j, j < 64 → (entryAt (setEntry t i .free) j).routed? ≠ some b := by
  intro j hj
  by_cases same : j = i
  · rw [same, entryAt_setEntry_same hi]
    exact nofun
  · rw [entryAt_setEntry_other same]
    exact unrouted j hj

/-- With every other entry in use, an entry set FREE is the lowest. -/
theorem lowestFree_setEntry {t : RemapTable} {i : Nat} (hi : i < 64) (full : ∀ j, j < 64 → entryAt t j ≠ .free) :
    lowestFree (setEntry t i .free) = some i := by
  refine lowestFree_eq_some hi (entryAt_setEntry_same hi _) fun j below => ?_
  rw [entryAt_setEntry_other (by omega)]
  exact full j (by omega)

/-- Settles O51: each check is met as the statement says it, and a release that finds the engine BLOCKED is followed by the start. -/
theorem repairCommands : Obligations.RepairCommands := by
  intro s i code b0 b1 b2 b hb
  simp only [exec_restoreRemap, exec_dropRemap, exec_releaseSpare, hb]
  refine ⟨fun other => ⟨?_, ?_⟩, fun offline outside => ⟨?_, ?_⟩,
    fun offline inside => ⟨fun h3 h5 => ?_, fun used => ?_, fun free => ?_, fun outside => ?_, fun below used => ?_, fun below free named => ?_, fun below free unnamed => ?_, fun other => ?_,
    fun source origin active => ?_⟩, fun outside => ?_, fun inside other => ?_, fun reason inside retired => ⟨fun unblocked => ?_,
    fun r rest n hm online up single full hn inVisible unrouted => ?_⟩⟩
  · exact congrArg _ (State.restoreRemap_online (s := s.onBus true []) other _ _ _)
  · exact congrArg _ (State.dropRemap_online (s := s.onBus true []) other _)
  · exact congrArg _ (State.restoreRemap_outside (s := s.onBus true []) offline outside _ _)
  · exact congrArg _ (State.dropRemap_outside (s := s.onBus true []) offline outside)
  · rw [restoreStateOf_eq_none h3 h5]
    exact congrArg _ (State.restoreRemap_none (s := s.onBus true []) offline inside _)
  · exact congrArg _ ((State.restoreRemap_retired (s := s.onBus true []) offline inside _).trans (if_pos used))
  · exact congrArg _ ((State.restoreRemap_retired (s := s.onBus true []) offline inside _).trans (if_neg (not_not.mpr free)))
  · exact congrArg _ ((State.restoreRemap_active (s := s.onBus true []) offline inside _).trans (if_pos outside))
  · exact congrArg _ ((State.restoreRemap_active (s := s.onBus true []) offline inside _).trans
      ((if_neg (Nat.not_le.mpr below)).trans (if_pos used)))
  · exact congrArg _ ((State.restoreRemap_active (s := s.onBus true []) offline inside _).trans
      ((if_neg (Nat.not_le.mpr below)).trans ((if_neg (not_not.mpr free)).trans (if_pos (namesSource_iff.mpr named)))))
  · have absent : ¬ namesSource s.remap b = true := fun h => by
      obtain ⟨j, hj, names⟩ := namesSource_iff.mp h
      exact unnamed j hj names
    exact congrArg _ ((State.restoreRemap_active (s := s.onBus true []) offline inside _).trans
      ((if_neg (Nat.not_le.mpr below)).trans ((if_neg (not_not.mpr free)).trans (if_neg absent))))
  · have passive : (entryAt s.remap i.toNat).isActive = false := by
      rw [← Bool.not_eq_true, RemapEntry.isActive_iff]
      rintro ⟨source, origin, active⟩
      exact other source origin active
    exact congrArg _ ((State.dropRemap_inside (s := s.onBus true []) offline inside).trans (if_pos passive))
  · have live : ¬ (entryAt s.remap i.toNat).isActive = false := by simp [active, RemapEntry.isActive]
    exact congrArg _ ((State.dropRemap_inside (s := s.onBus true []) offline inside).trans (if_neg live))
  · exact congrArg _ (if_pos outside)
  · have usable : (entryAt s.remap i.toNat).isRetired = false := by
      rw [← Bool.not_eq_true, RemapEntry.isRetired_iff]
      rintro ⟨reason, retired⟩
      exact other reason retired
    exact congrArg _ ((State.releaseSpare_inside (s := s.onBus true []) inside).trans (if_pos usable))
  all_goals
    have gone : ¬ (entryAt s.remap i.toNat).isRetired = false := by simp [retired, RemapEntry.isRetired]
    rw [(State.releaseSpare_inside (s := s.onBus true []) inside).trans (if_neg gone)]
  · refine congrArg _ (congrArg (State.answerStatus · .ok) (State.unblock_of_other ?_))
    exact unblocked
  · have hi : i.toNat < 64 := lt_of_entryAt_eq retired nofun
    obtain ⟨v, hv⟩ : ∃ v : State, v = { s.onBus true [] with
        remap := setEntry s.remap i.toNat .free, migration := { queue := r :: rest, engine := .idle } } := ⟨_, rfl⟩
    have due : v.mayTry = true := State.mayTry_iff.mpr (by rw [hv]; exact ⟨online, rfl, List.cons_ne_nil _ _, up, single⟩)
    have valid : v.validRequest r.location = true := by
      rw [hn]
      exact State.validRequest_visible (by rw [hv]; exact inVisible) (by rw [hv]; exact unrouted_setEntry hi unrouted)
    have started := State.tryStart_starts due (r := r) (rest := rest) (target := i.toNat) (by rw [hv]) valid
      (by rw [hv]; exact lowestFree_setEntry hi full)
    have released : State.unblock { s.onBus true [] with remap := setEntry s.remap i.toNat .free } = v.tryStart := by
      rw [State.unblock_of_blocked]
      · rw [hv, State.onBus_migration, hm]
      · rw [State.onBus_migration, hm]
    refine congrArg _ ((congrArg (State.answerStatus · .ok) released).trans ?_)
    rw [started, State.startMigration_visible _ hn, hv]
    simp only [setEntry_setEntry]
    rfl

/-! ## The commands of the queue and the watch table -/

theorem locationOfBytes_eq_none {kind : Byte} (h0 : kind ≠ 0) (h1 : kind ≠ 1) (b0 b1 b2 : Byte) :
    locationOfBytes kind b0 b1 b2 = none := by
  unfold locationOfBytes
  split
  · exact absurd rfl h0
  · exact absurd rfl h1
  · rfl

theorem State.withLocation_some {kind b0 b1 b2 : Byte} {location : Location} (h : locationOfBytes kind b0 b1 b2 = some location) (s : State)
    (effect : State → Location → State) : s.withLocation [kind, b0, b1, b2] effect = effect s location := by
  have bytes : locationOfBytes ([kind, b0, b1, b2].getD 0 0) ([kind, b0, b1, b2].getD 1 0) ([kind, b0, b1, b2].getD 2 0)
      ([kind, b0, b1, b2].getD 3 0) = some location := h
  rw [State.withLocation, bytes]

theorem State.withLocation_none {kind b0 b1 b2 : Byte} (h : locationOfBytes kind b0 b1 b2 = none) (s : State)
    (effect : State → Location → State) : s.withLocation [kind, b0, b1, b2] effect = s.answerStatus .badArgument := by
  have bytes : locationOfBytes ([kind, b0, b1, b2].getD 0 0) ([kind, b0, b1, b2].getD 1 0) ([kind, b0, b1, b2].getD 2 0)
      ([kind, b0, b1, b2].getD 3 0) = none := h
  rw [State.withLocation, bytes]

theorem exec_requestSpare (s : State) (kind b0 b1 b2 : Byte) :
    exec (.requestSpare s.management.address [kind, b0, b1, b2]) s
      = .next ((s.onBus true []).withLocation [kind, b0, b1, b2] State.requestSpare) :=
  congrArg Host.Outcome.next (s.takeCommand_own [kind, b0, b1, b2] _)

theorem exec_cancelRequest (s : State) (kind b0 b1 b2 : Byte) :
    exec (.cancelRequest s.management.address [kind, b0, b1, b2]) s
      = .next ((s.onBus true []).withLocation [kind, b0, b1, b2] fun s location =>
        if s.hasRequest location then (s.cancelRequest location).tryStart.answerStatus .ok else s.answerStatus .notFound) :=
  congrArg Host.Outcome.next (s.takeCommand_own [kind, b0, b1, b2] _)

theorem exec_clearWatch (s : State) (i : Byte) :
    exec (.clearWatch s.management.address [i]) s = .next ((s.onBus true []).clearWatch i.toNat) :=
  congrArg Host.Outcome.next (s.takeCommand_own [i] _)

/-- A location of none of the areas is refused (R34). -/
theorem State.requestSpare_outside {s : State} {location : Location} (h : locationExists s.settings location = false) :
    s.requestSpare location = s.answerStatus .badArgument := by
  simp [State.requestSpare, State.requestRefusal, h]

/-- A visible block that an entry routes is spared already (R34). -/
theorem State.requestSpare_routed {s : State} {b i : Nat} (inside : b < s.settings.visible) (hi : i < 64)
    (routed : (entryAt s.remap i).routed? = some b) : s.requestSpare (.visible b) = s.answerStatus .alreadySpared := by
  have found : (entryFor s.remap b).isSome = true := by
    cases h : entryFor s.remap b with
    | some j => rfl
    | none => exact absurd (entryFor_none h hi) (by simp [RemapEntry.routes_iff.mpr routed])
  simp [State.requestSpare, State.requestRefusal, locationExists, inside, found]

/-- A spare that is not ACTIVE is refused (R34). -/
theorem State.requestSpare_passive {s : State} {j : Nat} (passive : (entryAt s.remap j).isActive = false) :
    s.requestSpare (.spare j) = s.answerStatus .badArgument := by
  simp only [State.requestSpare, State.requestRefusal, passive, if_true, ite_self]

/-- Past the checks of the location the queue decides (R34). -/
theorem State.requestSpare_valid {s : State} {location : Location} (valid : s.validRequest location = true) :
    s.requestSpare location = if s.hasRequest location = true then s.answerStatus .duplicate
      else if 8 ≤ s.migration.queue.length then s.answerStatus .full
      else ((s.queueEntry location).joinQueue location .manual).tryStart.answerStatus .ok := by
  have refusal : s.requestRefusal location = if s.hasRequest location = true then some .duplicate
      else if 8 ≤ s.migration.queue.length then some .full else none := by
    unfold State.requestRefusal
    cases location with
    | visible b =>
      obtain ⟨inside, unrouted⟩ : b < s.settings.visible ∧ entryFor s.remap b = none := by simpa [State.validRequest] using valid
      simp [locationExists, inside, unrouted]
    | spare j =>
      obtain ⟨inside, active⟩ : j < s.settings.spares ∧ (entryAt s.remap j).isActive = true := by
        simpa [State.validRequest] using valid
      simp [locationExists, inside, active]
  unfold State.requestSpare
  rw [refusal]
  by_cases named : s.hasRequest location = true
  · simp only [if_pos named]
  · by_cases full : 8 ≤ s.migration.queue.length
    · simp only [if_neg named, if_pos full]
    · simp only [if_neg named, if_neg full]

/-- A command that ends in a try of `u` ends as the try of `u` with the command's response, and in that state where none is due. -/
theorem next_of_tryStart {v s t u : State} {status : Status} (hv : v = s.tryStart.answerStatus status) (h : s = u.onBus true [])
    (ht : t = u.answered status []) :
    (Host.Outcome.next v : Host.Outcome State Fault Refusal) = exec .migrationStart t
      ∧ (t.settledLaw → (Host.Outcome.next v : Host.Outcome State Fault Refusal) = .next t) := by
  have tried := next_tryStart h ht
  rw [hv]
  refine ⟨tried, fun settled => ?_⟩
  rw [tried, exec_migrationStart, State.tryStart_of_settled settled]

theorem State.placeFreed_onBus (s : State) : (s.onBus true []).placeFreed = s.placeFreed.onBus true [] := by
  have managed := s.placeFreed_with { s.management with acknowledged := true, returned := [] } s.writeBack
  simpa [State.onBus] using managed

/-- The removal of a request that waits (R53, R54). -/
theorem State.removeRequest_eq (s : State) (location : Location) : s.removeRequest location = State.placeFreed
    { s with
      migration := { s.migration with queue := s.migration.queue.filter fun r => r.location != location }
      watch := s.watch.modify location WatchEntry.demoteCleared } := rfl

/-- CANCEL_REQUEST of the migration in flight aborts it, and its request goes (R51 to R53). -/
theorem State.abortMigration_cancelled {s : State} {work : CopyWork} {r : Request} {behind : List Request} {table : RemapTable}
    (hm : s.migration = { queue := r :: behind, engine := .copying work }) (hab : s.abortsTo work.target .free table) :
    s.abortMigration .cancelled = State.placeFreed
      { s.afterAbort work r table .cancelled with
        migration := { queue := behind, engine := .idle }
        watch := s.watch.modify r.location WatchEntry.demoteCleared } := by
  rw [State.abortMigration_eq hm (by simp) hab]
  rfl

/-- The removal of a request that waits, which brings a BLOCKED engine to IDLE if it was the head's (R40, R54). -/
theorem State.cancelRequest_waiting {s : State} {location : Location} {engine : Engine}
    (h : engine = s.migration.engine ∧ (engine = .idle ∨ ∀ r ∈ s.migration.queue.head?, r.location ≠ location)
      ∨ s.migration.engine = .blocked ∧ engine = .idle ∧ s.headNames location = true) :
    s.cancelRequest location = State.placeFreed
      { s with
        migration := { queue := s.migration.queue.filter fun r => r.location != location, engine := engine }
        watch := s.watch.modify location WatchEntry.demoteCleared } := by
  have elsewhere : (∀ r ∈ s.migration.queue.head?, r.location ≠ location) → s.headNames location = false := by
    intro other
    unfold State.headNames
    cases hq : s.migration.queue with
    | nil => rfl
    | cons r rest => simpa [hq] using other
  rcases h with ⟨same, rests⟩ | ⟨blocked, rfl, head⟩
  · have removed : s.cancelRequest location = s.removeRequest location := by
      unfold State.cancelRequest
      rcases rests with idle | other
      · rw [← same, idle]
      · rw [elsewhere other]
        split <;> rfl
    rw [removed, State.removeRequest_eq, same]
  · simp only [State.cancelRequest, blocked, head, if_true, State.removeRequest_eq]

/-- CLEAR_WATCH of an empty slot finds nothing (R71). -/
theorem State.clearWatch_empty {s : State} {slot : Nat} (inside : slot < 32) (empty : s.watch.entryIn slot = none) :
    s.clearWatch slot = s.answerStatus .notFound := by
  simp only [State.clearWatch, Nat.not_le.mpr inside, if_false, empty]

/-- CLEAR_WATCH of a slot in use empties it, unless its entry is QUEUED (R71). -/
theorem State.clearWatch_held {s : State} {slot : Nat} {e : WatchEntry} (inside : slot < 32)
    (held : s.watch.entryIn slot = some e) : s.clearWatch slot = if e.state = .queued then s.answerStatus .conflict
      else State.answerStatus { s with watch := s.watch.setSlot slot none } .ok := by
  simp only [State.clearWatch, Nat.not_le.mpr inside, if_false, held]

/-- Settles O52: each check is met as the statement says it, and what the command changes is followed by the try. -/
theorem queueAndWatchCommands : Obligations.QueueAndWatchCommands := by
  intro s kind b0 b1 b2 n hn
  have visible : locationOfBytes 0 b0 b1 b2 = some (.visible n) := by rw [← hn]; rfl
  have spare : locationOfBytes 1 b0 b1 b2 = some (.spare n) := by rw [← hn]; rfl
  simp only [exec_requestSpare, exec_cancelRequest, exec_clearWatch, State.withLocation_some visible, State.withLocation_some spare]
  refine ⟨fun h0 h1 => ?_, fun outside => ?_, fun inside ⟨i, hi, routed⟩ => ?_, fun unfit => ?_, fun location here => ?_,
    fun location here => ?_,
    fun i => ⟨fun outside => ?_, fun inside empty => ?_, fun e inside held => ⟨fun queued => ?_, fun other => ?_⟩⟩⟩
  · simp only [State.withLocation_none (locationOfBytes_eq_none h0 h1 b0 b1 b2)]
    exact ⟨rfl, rfl⟩
  · exact congrArg _ (State.requestSpare_outside (s := s.onBus true []) (decide_eq_false (Nat.not_lt.mpr outside)))
  · exact congrArg _ (State.requestSpare_routed (s := s.onBus true []) inside hi routed)
  · by_cases inside : n < s.settings.spares
    · have passive : (entryAt s.remap n).isActive = false := by
        rw [← Bool.not_eq_true, RemapEntry.isActive_iff]
        rintro ⟨source, origin, active⟩
        rcases unfit with outside | other
        · omega
        · exact other source origin active
      exact congrArg _ (State.requestSpare_passive (s := s.onBus true []) passive)
    · exact congrArg _ (State.requestSpare_outside (s := s.onBus true []) (decide_eq_false inside))
  · obtain ⟨bytes, valid⟩ : locationOfBytes kind b0 b1 b2 = some location ∧ s.validRequest location = true := by
      rcases here with ⟨rfl, rfl, inside, unrouted⟩ | ⟨rfl, rfl, inside, source, origin, active⟩
      · exact ⟨visible, State.validRequest_visible inside unrouted⟩
      · exact ⟨spare, State.validRequest_spare inside active⟩
    have asked := State.requestSpare_valid (s := s.onBus true []) valid
    rw [State.withLocation_some bytes]
    have absent : (∀ r ∈ s.migration.queue, r.location ≠ location) → ¬ s.hasRequest location = true := by
      rintro unnamed named
      obtain ⟨r, hr, names⟩ := State.hasRequest_iff.mp named
      exact unnamed r hr names
    refine ⟨fun named => ?_, fun unnamed full => ?_, fun unnamed room joined hjoined => ?_⟩
    · exact congrArg _ (asked.trans (if_pos (State.hasRequest_iff.mpr named)))
    · exact congrArg _ (asked.trans ((if_neg (absent unnamed)).trans (if_pos full)))
    · have effect := asked.trans ((if_neg (absent unnamed)).trans (if_neg (Nat.not_le.mpr room)))
      exact next_of_tryStart effect (u := (s.queueEntry location).joinQueue location .manual) rfl hjoined
  · have bytes : locationOfBytes kind b0 b1 b2 = some location := by
      rcases here with ⟨rfl, rfl⟩ | ⟨rfl, rfl⟩
      · exact visible
      · exact spare
    rw [State.withLocation_some bytes]
    refine ⟨fun unnamed => ?_, fun cleared hcleared engine removed hremoved => ⟨fun named same rests => ?_,
      fun r behind hq names => ⟨fun blocked idle => ?_, fun work table hw hab aborted haborted => ?_⟩⟩⟩
    · have absent : ¬ s.hasRequest location = true := fun named => by
        obtain ⟨r, hr, names⟩ := State.hasRequest_iff.mp named
        exact unnamed r hr names
      exact congrArg _ (if_neg absent)
    · refine next_of_tryStart (if_pos (State.hasRequest_iff.mpr named)) ?_ hremoved
      rw [State.cancelRequest_waiting (s := s.onBus true []) (engine := engine) (.inl ⟨same, rests⟩), hcleared,
        ← State.placeFreed_onBus]
      rfl
    · have head : (s.onBus true []).headNames location = true := by simp [State.headNames, hq, names]
      have named : ∃ r ∈ s.migration.queue, r.location = location := ⟨r, by simp [hq], names⟩
      refine next_of_tryStart (if_pos (State.hasRequest_iff.mpr named)) ?_ hremoved
      rw [State.cancelRequest_waiting (s := s.onBus true []) (engine := engine) (.inr ⟨blocked, idle, head⟩), hcleared,
        ← State.placeFreed_onBus]
      rfl
    · have head : (s.onBus true []).headNames location = true := by simp [State.headNames, hq, names]
      have named : ∃ r ∈ s.migration.queue, r.location = location := ⟨r, by simp [hq], names⟩
      have hm : s.migration = { queue := r :: behind, engine := .copying work } := by rw [← hq, ← hw]
      have aborts : (s.onBus true []).cancelRequest location = (s.onBus true []).abortMigration .cancelled := by
        simp only [State.cancelRequest, State.onBus_migration, hw, head, if_true]
      refine next_of_tryStart (if_pos (State.hasRequest_iff.mpr named)) ?_ haborted
      rw [aborts, State.abortMigration_cancelled (s := s.onBus true []) hm hab, hcleared, names, ← State.placeFreed_onBus]
      rfl
  · exact congrArg _ (if_pos outside)
  · exact congrArg _ (State.clearWatch_empty (s := s.onBus true []) inside empty)
  · exact congrArg _ ((State.clearWatch_held (s := s.onBus true []) inside held).trans (if_pos queued))
  · refine ⟨s.watch.setSlot i.toNat none, ?_, ?_, fun slot apart => ?_, rfl, rfl⟩
    · exact congrArg _ ((State.clearWatch_held (s := s.onBus true []) inside held).trans (if_neg other))
    · rw [WatchTable.entryIn_setSlot, if_pos ⟨rfl, inside⟩]
    · rw [WatchTable.entryIn_setSlot, if_neg fun same => apart same.1.symm]

end Sys2Proof.Machine

/-! Changes: what a step does to the state, one change at a time, so that what each change keeps every step keeps. -/

namespace Sys2Proof.Machine

/-! ## The changes of a candidate, an offer and a try -/

/-- What a request that goes leaves of its location's watch entry: none, or a demoted one (R35, R39, R49, R53). -/
def WatchTable.Withdraws (w : WatchTable) (location : Location) (left : WatchTable) : Prop :=
  left = w.remove location
    ∨ ∃ f ∈ [WatchEntry.demote, WatchEntry.demoteCleared], left = w.modify location f

/-- The requests left when the one for a location goes: the others, in their order. -/
def LeavesOthers (queue left : List Request) (location : Location) : Prop :=
  left.Sublist queue ∧ ∀ r ∈ queue, r.location ≠ location → r ∈ left

theorem leavesOthers_tail (r : Request) (rest : List Request) : LeavesOthers (r :: rest) rest r.location :=
  ⟨List.sublist_cons_self r rest, fun _ hx other => (List.mem_cons.mp hx).resolve_left fun same => other (same ▸ rfl)⟩

/-- `P` is kept by each change that an offer, a candidate or a try of the engine is made of (R33, R35, R38 to R41, R61 to R68, R118). -/
structure TryStable (P : State → Prop) : Prop where
  /-- A record is made. -/
  record {s : State} (h : P s) (body : RecordBody) : P (s.makeRecord body)
  /-- An entry whose location has a request becomes QUEUED. -/
  queued {s : State} (h : P s) {l : Location} (named : s.hasRequest l = true) : P (s.queueEntry l)
  /-- A request joins, and its entry becomes QUEUED. -/
  joined {s : State} (h : P s) {l : Location} (unnamed : s.hasRequest l = false) (room : s.migration.queue.length < 8)
    (origin : RequestOrigin) : P ((s.queueEntry l).joinQueue l origin)
  /-- A candidate without a request waits. -/
  waits {s : State} (h : P s) {l : Location} (unnamed : s.hasRequest l = false) :
    P { s with watch := s.watch.modify l fun e => { e with state := .waiting } }
  /-- An outcome is counted in an entry. -/
  counted {s : State} (h : P s) {l : Location} {slot : Nat} {table : WatchTable} {before : WatchEntry}
    (found : s.watch.ensure l = some (slot, table)) (there : table.entryIn slot = some before) (offset : Nat) (bad : Bool) :
    P { s with watch := table.setSlot slot (some (before.count offset bad)) }
  /-- An outcome goes untracked. -/
  untracked {s : State} (h : P s) : P { s with watch := { s.watch with untracked := saturate (s.watch.untracked + 1) } }
  /-- A word is offered for write-back. -/
  offered {s : State} (h : P s) (e : WriteBack) : P { s with writeBack := s.writeBack.offer e }
  /-- A request goes. -/
  withdrawn {s : State} (h : P s) {l : Location} {left : List Request} {w : WatchTable}
    (others : LeavesOthers s.migration.queue left l) (watch : s.watch.Withdraws l w) :
    P { s with migration := { s.migration with queue := left }, watch := w }
  /-- The requests change their marks or their order, not their locations. -/
  reordered {s : State} (h : P s) {queue : List Request}
    (same : (queue.map (·.location)).Perm (s.migration.queue.map (·.location))) : P (s.setQueue queue)
  /-- An IDLE engine goes BLOCKED or begins a line, and the remap table follows. -/
  begun {s : State} (h : P s) (idle : s.migration.engine = .idle) (table : RemapTable) {engine : Engine}
    (fresh : engine = .blocked ∨ ∃ target, engine = .copying (CopyWork.attemptAt target 0)) :
    P { s with remap := table, migration := { s.migration with engine := engine } }

/-- Where an outcome can be counted there is an entry. -/
theorem WatchTable.ensure_cases {w table : WatchTable} {l : Location} {slot : Nat} (h : w.ensure l = some (slot, table)) :
    (table = w ∧ ∃ e, w.entryIn slot = some e ∧ e.location = l)
      ∨ table = w.create slot l ∧ slot < 32 ∧ (∀ i e, w.entryIn i = some e → e.location ≠ l)
        ∧ ∀ e, w.entryIn slot = some e → e.state = .tracking := by
  unfold WatchTable.ensure at h
  split at h
  · rename_i found
    cases h
    exact .inl ⟨rfl, (WatchTable.slotOf_some found).2⟩
  · rename_i unnamed
    obtain ⟨i, new, pair⟩ := Option.map_eq_some_iff.mp h
    cases pair
    refine .inr ⟨rfl, ?_⟩
    have names : ∀ i e, w.entryIn i = some e → e.location ≠ l := fun _ _ he => WatchTable.slotOf_none unnamed he
    unfold WatchTable.slotForNew at new
    split at new
    · rename_i empty
      cases new
      obtain ⟨lt, is_none, -⟩ := List.findIdx?_eq_some_iff_getElem.mp empty
      have lt : slot < 32 := by simpa using lt
      have vacant : w.entryIn slot = none := by
        simp only [Vector.getElem_toList, Option.isNone_iff_eq_none] at is_none
        simp [WatchTable.entryIn, lt, is_none]
      exact ⟨lt, names, fun e he => by simp [vacant] at he⟩
    · obtain ⟨⟨i, old⟩, chosen, rfl⟩ := Option.map_eq_some_iff.mp new
      obtain ⟨there, tracking⟩ : w.entryIn i = some old ∧ old.state = .tracking := by
        simpa [WatchTable.mem_filled] using firstBy_mem chosen
      exact ⟨WatchTable.lt_of_entryIn there, names, fun e he => by
        obtain rfl := Option.some.inj (he.symm.trans there)
        exact tracking⟩

theorem WatchTable.entryIn_create (w : WatchTable) (slot : Nat) (l : Location) (i : Nat) :
    (w.create slot l).entryIn i = if slot = i ∧ slot < 32
      then some { location := l, corrected := 0, offsets := [], uncorrectable := false, state := .tracking, stamp := w.nextStamp }
      else w.entryIn i :=
  w.entryIn_setSlot slot i _

theorem WatchTable.exists_of_ensure {w table : WatchTable} {l : Location} {slot : Nat} (h : w.ensure l = some (slot, table)) :
    ∃ e, table.entryIn slot = some e ∧ e.location = l := by
  rcases WatchTable.ensure_cases h with ⟨rfl, there⟩ | ⟨rfl, lt, -⟩
  · exact there
  · exact ⟨_, by rw [WatchTable.entryIn_create, if_pos ⟨rfl, lt⟩], rfl⟩

namespace TryStable
variable {P : State → Prop} (k : TryStable P) {s : State}
include k

theorem offerWaiting (h : P s) : P s.offerWaiting := by
  unfold State.offerWaiting
  split
  · exact h
  · split
    · rename_i named
      exact k.queued h named
    · rename_i unnamed
      split
      · rename_i room
        exact k.joined h (by simpa using unnamed) room .auto
      · exact h

theorem placeFreed (h : P s) : P s.placeFreed := by
  unfold State.placeFreed
  split
  · exact k.offerWaiting h
  · exact h

theorem placesFreed (n : Nat) (h : P s) : P (State.placesFreed n s) := by
  induction n generalizing s with
  | zero => exact h
  | succ n ih => exact ih (k.placeFreed h)

theorem dropStale (h : P s) {r : Request} {rest : List Request} (hq : s.migration.queue = r :: rest) :
    P (s.dropStale r.location rest) :=
  k.placeFreed (k.record (k.withdrawn h (hq ▸ leavesOthers_tail r rest) (.inl rfl)) _)

theorem startMigration (h : P s) (idle : s.migration.engine = .idle) {r : Request} {rest : List Request}
    (hq : s.migration.queue = r :: rest) (target : Nat) : P (s.startMigration r rest target) := by
  have marked := k.reordered h (queue := { r with started := true } :: rest) (by rw [hq]; exact .refl _)
  exact k.record (k.begun marked idle _ (.inr ⟨target, rfl⟩)) _

theorem tryLoop (n : Nat) (h : P s) : P (State.tryLoop n s) := by
  induction n generalizing s with
  | zero => exact h
  | succ n ih =>
    unfold State.tryLoop
    split
    · rename_i may
      obtain ⟨-, idle, -⟩ := State.mayTry_iff.mp may
      split
      · exact h
      · rename_i r rest hq
        split
        · split
          · exact k.record (k.begun h idle s.remap (.inl rfl)) _
          · exact k.startMigration h idle hq _
        · exact ih (k.dropStale h hq)
    · exact h

theorem tryStart (h : P s) : P s.tryStart := k.tryLoop _ h

theorem becomeCandidate (h : P s) (source : RecordSource) (l : Location) (offset : Nat) :
    P (s.becomeCandidate source l offset) := by
  unfold State.becomeCandidate
  have noted := k.record h { kind := .watchCandidate, source := source, location := some l, offset := some offset }
  split
  · rename_i named
    exact k.queued noted named
  · rename_i unnamed
    have unnamed : s.hasRequest l = false := by simpa using unnamed
    split
    · rename_i room
      exact k.tryStart (k.joined noted unnamed room.2 .auto)
    · exact k.waits noted unnamed

theorem countOutcome (h : P s) (source : RecordSource) (l : Location) (offset : Nat) (bad full : Bool) :
    P (s.countOutcome source l offset bad full).1 := by
  unfold State.countOutcome
  split
  · dsimp only
    split
    · exact k.untracked h
    · exact k.record (k.untracked h) _
  · rename_i slot table found
    obtain ⟨before, there, -⟩ := WatchTable.exists_of_ensure found
    have counted := k.counted h found there offset bad
    simp only [there]
    split
    · exact k.becomeCandidate counted source l offset
    · exact counted

theorem takeWord (h : P s) (use : ReadUse) (word : Nat) (w : StoredWord) (full : Bool) :
    P (s.takeWord use word w full).1 := by
  unfold State.takeWord
  dsimp only
  split
  · exact h
  · have noted := k.record h
      { kind := .corrected, source := use.source, location := some (locationOf s.settings use.block),
        offset := some (16 * use.line + word) }
    have counted := fun {t : State} (ht : P t) =>
      k.countOutcome ht use.source (locationOf s.settings use.block) (16 * use.line + word) false full
    split <;> split
    · exact k.offered (counted noted) _
    · exact k.offered (counted h) _
    · exact counted noted
    · exact counted h
  · exact k.countOutcome (k.record h _) _ _ _ _ _
  · split
    · exact k.record h _
    · exact h

theorem takeWords (use : ReadUse) (words : List StoredWord) (word : Nat) (full : Bool) (h : P s) :
    P (s.takeWords use word words full) := by
  induction words generalizing s word full with
  | nil => exact h
  | cons w rest ih => exact ih _ _ (k.takeWord h use word w full)

end TryStable

end Sys2Proof.Machine

namespace Sys2Proof.Machine

/-! ## The changes of a step -/

/-- The working items in range, and no held attempt overtaken: what `State.workLaw` says beside the line phase (R37, R45, R47, R48). -/
def Engine.Counted (e : Engine) : Prop :=
  ∀ work ∈ e.work?,
    1 ≤ work.attempt ∧ work.attempt ≤ 3 ∧ work.overtakes ≤ 4 ∧ (work.held = true ↔ work.overtakes = 4)
      ∧ (work.overtaken = true → work.inFlight = true ∧ work.held = false)
      ∧ (work.inFlight = true → work.holding = work.held) ∧ (work.holding = true → work.held = true)

/-- The response timer of access `a` has expired, and no requester has taken the ending yet: the slot free, the tag abandoned, the
record made, and at the eighth tag the link DOWN (R110, R111, R113). -/
def State.timedOut (s : State) (a : Access) : State :=
  let lost : State := State.makeRecord
    { s with port := { s.port with outstanding := none, abandoned := s.port.abandoned ++ [a.tag] } }
    (linkRecord s.settings .linkTimeout a)
  if 8 ≤ s.port.abandoned.length + 1 then lost.linkGoesDown else lost

theorem State.expireResponse_of_some {s : State} {a : Access} (ho : s.port.outstanding = some a) (first : Bool) :
    s.expireResponse first = (((s.timedOut a).grantIfFirst first a true).hand a .failed).settle := by
  have length : (s.port.abandoned ++ [a.tag]).length = s.port.abandoned.length + 1 := by simp
  unfold State.expireResponse State.timedOut
  rw [ho]
  dsimp only [State.freeSlot, State.makeRecord]
  rw [length]

/-- `P` is kept by each change that a grant, the ending of an access and what follows them are made of. -/
structure AccessStable (P : State → Prop) : Prop extends TryStable P where
  /-- No queue, no table, no count and no access changes. -/
  elsewhere {s t : State} (h : P s) (watch : t.watch = s.watch) (migration : t.migration = s.migration) (port : t.port = s.port)
    (writeBack : t.writeBack = s.writeBack) (records : t.records.queue = s.records.queue ∧ t.records.dropped = s.records.dropped)
    (held : t.upstream.held = s.upstream.held) : P t
  engine {s : State} (h : P s) {e : Engine} (keeps : s.migration.engine.Counted → e.Counted) :
    P { s with migration := { s.migration with engine := e } }
  /-- A store to a line that is not held is granted. -/
  overtaken {s : State} (h : P s) {block line : Nat} (free : s.lineHeld block line = false) : P (s.markOvertaken block line)
  passed {s : State} (h : P s) {m n : Nat} (keeps : s.passOverLaw → m ≤ 32 ∧ n ≤ 32) :
    P { s with port := { s.port with migrationPassed := m, scrubPassed := n } }
  freed {s : State} (h : P s) : P s.freeSlot
  discarded {s : State} (h : P s) (r : Requester) : P (s.discardOutstanding r)
  issued {s : State} (h : P s) (up : s.port.link = .up) (p : Purpose) (block line first count : Nat) (words : List StoredWord) :
    P (s.issue p block line first count words)
  kept {s : State} (h : P s) (f : WriteBack → Bool) :
    P { s with writeBack := { s.writeBack with entries := s.writeBack.entries.filter f } }
  decayed {s : State} (h : P s) : P { s with watch := s.watch.decay }

/-- `P` is kept by each change that a step is made of. -/
structure StepStable (P : State → Prop) : Prop extends AccessStable P where
  timedOut {s : State} (h : P s) {a : Access} (ho : s.port.outstanding = some a) : P (s.timedOut a)
  /-- A late response. -/
  returned {s : State} (h : P s) (tag : Tag) : P { s with port := { s.port with abandoned := s.port.abandoned.erase tag } }
  cleared {s : State} (h : P s) : P { s with port := { s.port with abandoned := [], link := .up } }
  aged {s : State} (h : P s) : P s.passMicrosecond
  popped {s : State} (h : P s) {r : Record} {rest : List Record} (hq : s.records.queue = r :: rest) :
    P { s with records := { s.records with queue := rest } }
  holds {s : State} (h : P s) {held : List Held} (few : s.upstream.held.length ≤ 4 → held.length ≤ 4) :
    P { s with upstream := { s.upstream with held := held } }
  pruned {s : State} (h : P s) (c : Settings) :
    P { s with
      migration := { s.migration with queue := s.migration.queue.filter fun r => locationExists c r.location }
      watch := s.watch.prune c }
  /-- A watch entry goes. -/
  erased {s : State} (h : P s) (slot : Nat) : P { s with watch := s.watch.setSlot slot none }
  startOver (s : State) (straps : BitVec 2) : P (s.startOver straps)

theorem Engine.Counted.idle : Engine.idle.Counted := by simp [Engine.Counted, Engine.work?]

theorem Engine.Counted.attemptAt {overtakes : Nat} (few : overtakes ≤ 4) (target : Nat) :
    (Engine.copying (CopyWork.attemptAt target overtakes)).Counted := by
  simp only [Engine.Counted, Engine.work?, Option.mem_some, CopyWork.attemptAt]
  rintro work rfl
  simp
  omega

/-- A request of the upstream port that waits, while no spare write is pending, is for a line that is not held (R48, R100). -/
theorem State.lineHeld_of_waiting {s : State} {t : Transaction} {work : StoreWork} (asks : s.waiting .upstream = true)
    (hp : s.upstream.progress = .store work) (hc : s.current = some t) (hd : work.dual = none) :
    s.lineHeld (blockOf (firstAddress t)) (lineOf (firstAddress t)) = false := by
  simp only [State.waiting, Bool.and_eq_true, Bool.not_eq_true'] at asks
  obtain ⟨up, -, free⟩ := asks
  simpa [State.waitsOnHeldLine, hp, hc, hd, up] using free

theorem State.link_of_waiting {s : State} {r : Requester} (asks : s.waiting r = true) : s.port.link = .up := by
  simp only [State.waiting, Bool.and_eq_true, beq_iff_eq] at asks
  exact asks.1

/-- A request that no check refuses is for a location that has none, and finds room (R34). -/
theorem State.room_of_requestRefusal {s : State} {l : Location} (h : s.requestRefusal l = none) :
    s.hasRequest l = false ∧ s.migration.queue.length < 8 := by
  unfold State.requestRefusal at h
  (repeat' split at h) <;> simp_all

/-- What becomes of an aborted migration's request (R52, R53). -/
theorem TryStable.disposeRequest {P : State → Prop} (k : TryStable P) {s : State} (h : P s) (cause : AbortCause) {r : Request}
    {rest : List Request} (hq : s.migration.queue = r :: rest) (target : Nat) : P (s.disposeRequest cause r rest target) := by
  have others : LeavesOthers s.migration.queue rest r.location := hq ▸ leavesOthers_tail r rest
  unfold State.disposeRequest
  split
  iterate 2 exact k.reordered h (by rw [hq]; exact .refl _)
  · exact k.placeFreed (k.withdrawn h others (.inr ⟨WatchEntry.demoteCleared, by simp, rfl⟩))
  all_goals
    unfold State.failRequest
    split
    · have dropped := k.record h
        { kind := .migrationDropped, source := .engine, location := some r.location, spare := some target }
      exact k.placeFreed (k.withdrawn dropped others (.inr ⟨WatchEntry.demote, by simp, rfl⟩))
    · refine k.reordered h ?_
      rw [hq, List.map_append, List.map_cons]
      exact List.perm_append_singleton r.location _

namespace AccessStable
variable {P : State → Prop} (k : AccessStable P) {s : State}
include k

theorem setProgress (h : P s) (p : Progress) : P (s.setProgress p) := k.elsewhere h rfl rfl rfl rfl ⟨rfl, rfl⟩ rfl

theorem respond (h : P s) (status : Status) (payload : List Byte) : P (s.respond status payload) :=
  k.elsewhere h rfl rfl rfl rfl ⟨rfl, rfl⟩ rfl

theorem answerStatus (h : P s) (status : Status) : P (s.answerStatus status) := k.respond h status []

theorem onBus (h : P s) (acknowledged : Bool) (returned : List Byte) : P (s.onBus acknowledged returned) :=
  k.elsewhere h rfl rfl rfl rfl ⟨rfl, rfl⟩ rfl

/-! ### The end of a migration -/

theorem settleFate (h : P s) (fate : MigrationFate) : P (s.settleFate fate) := by
  rw [State.settleFate_eq]
  exact k.elsewhere h rfl rfl rfl rfl ⟨rfl, rfl⟩ rfl

theorem stopped (h : P s) : P { s with migration := { s.migration with engine := .idle } } := k.engine h fun _ => .idle

theorem completeMigration (h : P s) (work : CopyWork) : P (s.completeMigration work) := by
  unfold State.completeMigration
  split
  · exact h
  · rename_i r rest hq
    have gone := k.stopped (k.withdrawn h (hq ▸ leavesOthers_tail r rest) (.inl rfl))
    refine k.placeFreed (k.record (k.settleFate ?_ .completed) _)
    exact k.elsewhere gone rfl rfl rfl rfl ⟨rfl, rfl⟩ rfl

theorem abortMigration (h : P s) (cause : AbortCause) : P (s.abortMigration cause) := by
  unfold State.abortMigration
  split
  · rename_i work r rest _ hq
    have withdrawn := k.passed (k.stopped h) (m := 0) (n := s.port.scrubPassed) fun few => ⟨Nat.zero_le _, few.2⟩
    have entries : P { s with
        remap := abortEntries s.remap work.target (cause == .targetFailed)
        migration := { s.migration with engine := .idle }
        port := { s.port with migrationPassed := 0 } } := k.elsewhere withdrawn rfl rfl rfl rfl ⟨rfl, rfl⟩ rfl
    exact k.disposeRequest (k.record (k.settleFate (k.discarded entries .migration) .aborted) _) cause (by simpa using hq) _
  all_goals exact h

theorem stopEngine (h : P s) (cause : AbortCause) : P (s.stopEngine cause) := by
  unfold State.stopEngine
  split
  · exact k.abortMigration h cause
  · exact k.stopped h
  · exact h

/-! ### The upstream port -/

theorem finishRun (h : P s) (work : StoreWork) : P (s.finishRun work) := by
  unfold State.finishRun
  split <;> exact k.setProgress h _

theorem endSpareStore (h : P s) (t : Transaction) (work : StoreWork) (dual : DualWrite) (ending : Ending) :
    P (s.endSpareStore t work dual ending) := by
  unfold State.endSpareStore
  split
  · exact k.finishRun h work
  · exact k.abortMigration (k.finishRun h work) _
  · exact k.setProgress h _
  · exact k.finishRun h work

theorem endStore (h : P s) (t : Transaction) (work : StoreWork) (spare : Bool) (ending : Ending) :
    P (s.endStore t work spare ending) := by
  unfold State.endStore
  split
  · exact k.endSpareStore h t _ _ ending
  · exact h
  · split
    · exact k.setProgress h _
    · exact k.finishRun h work
    · exact h

theorem endUpstream (h : P s) (spare : Bool) (block : Nat) (ending : Ending) : P (s.endUpstream spare block ending) := by
  unfold State.endUpstream
  split
  · unfold State.endFetch
    split
    · exact k.setProgress h _
    · exact k.setProgress (k.takeWords _ _ _ _ h) _
  · unfold State.endMergeRead
    split
    · exact k.setProgress h _
    · exact k.setProgress (k.takeWords _ _ _ _ h) _
  · exact k.endStore h _ _ spare ending
  · exact h

theorem endWithoutIssue (h : P s) : P s.endWithoutIssue := by
  unfold State.endWithoutIssue
  split
  · exact k.endUpstream h _ _ _
  · exact h

/-- What follows a change, but for the engine's try. -/
theorem unissued (h : P s) : P s.endWithoutIssue.endWithoutIssue := k.endWithoutIssue (k.endWithoutIssue h)

theorem settle (h : P s) : P s.settle := k.tryStart (k.unissued h)

theorem beginHead (h : P s) : P s.beginHead := by
  have same : ∀ p, P (s.setProgress p) := fun p => k.setProgress h p
  unfold State.beginHead State.beginServed
  (repeat' split) <;> exact same _

/-! ### The scrubber, the write-back buffer and the engine -/

theorem scrubberSet (h : P s) (c : Scrubber) : P { s with scrubber := c } := k.elsewhere h rfl rfl rfl rfl ⟨rfl, rfl⟩ rfl

theorem advanceScrub (h : P s) : P s.advanceScrub := by
  unfold State.advanceScrub
  split
  · exact k.scrubberSet h _
  · split
    · exact k.scrubberSet h _
    · exact k.scrubberSet (k.decayed h) _

theorem endScrub (h : P s) (block line : Nat) (ending : Ending) : P (s.endScrub block line ending) := by
  unfold State.endScrub
  refine k.scrubberSet (k.advanceScrub ?_) _
  split
  · exact k.takeWords _ _ _ _ h
  · exact h

theorem expireInterval (h : P s) : P s.expireInterval :=
  k.elsewhere h (by simp) (by simp) (by simp) (by simp) (by simp) (by simp)

theorem checkIntervalTimer (h : P s) : P s.checkIntervalTimer :=
  k.elsewhere h (by simp) (by simp) (by simp) (by simp) (by simp) (by simp)

theorem unscrubbed (h : P s) (c : Scrubber) : P { s with scrubber := c, port := { s.port with scrubPassed := 0 } } :=
  k.scrubberSet (k.passed h (m := s.port.migrationPassed) (n := 0) fun few => ⟨few.1, Nat.zero_le _⟩) c

theorem withdrawScrub (h : P s) : P s.withdrawScrub := by
  unfold State.withdrawScrub
  dsimp only
  split
  · exact k.unscrubbed (k.discarded h .scrub) _
  all_goals exact k.unscrubbed h _

theorem emptyWriteBack (h : P s) : P s.emptyWriteBack := by
  have none_kept := k.kept (k.discarded h .writeBack) fun _ => false
  rwa [List.filter_false] at none_kept

theorem endCopyRead (h : P s) (block line : Nat) (ending : Ending) : P (s.endCopyRead block line ending) := by
  unfold State.endCopyRead
  split
  · rename_i work words hw
    refine k.takeWords _ _ _ _ (k.engine h fun counted => ?_)
    rw [hw] at counted
    rintro v ⟨⟩
    exact counted work rfl
  · rename_i work hw
    split
    · rename_i low
      refine k.engine h fun counted => ?_
      rw [hw] at counted
      rintro v ⟨⟩
      obtain ⟨-, -, overtakes, held, -, -, holding⟩ := counted work rfl
      exact ⟨by simp, low, overtakes, held, by simp, by simp, holding⟩
    · exact k.abortMigration h _
  all_goals exact h

theorem endCopyWrite (h : P s) (line : Nat) (ending : Ending) : P (s.endCopyWrite line ending) := by
  unfold State.endCopyWrite
  split
  · rename_i work _ hw
    split
    · rename_i again
      refine k.engine h fun counted => .attemptAt ?_ _
      rw [hw] at counted
      obtain ⟨-, -, overtakes, held, unheld, -⟩ := counted work rfl
      have below : work.overtakes ≠ 4 := fun full => by simpa [(unheld again).2] using held.mpr full
      omega
    · split
      · exact k.elsewhere (k.engine h fun _ => .attemptAt (Nat.zero_le 4) work.target) rfl rfl rfl rfl ⟨rfl, rfl⟩ rfl
      · exact k.completeMigration h work
  · exact k.abortMigration h _
  all_goals exact h

theorem hand (h : P s) (a : Access) (ending : Ending) : P (s.hand a ending) := by
  unfold State.hand
  split
  · exact h
  · split
    iterate 5 exact k.endUpstream h _ _ ending
    · exact k.endCopyRead h _ _ ending
    · exact k.endCopyWrite h _ ending
    · exact k.endScrub h _ _ ending
    · exact k.kept h _

theorem handOk (h : P s) (a : Access) (words : List StoredWord) : P (s.handOk a words) := by
  unfold State.handOk
  split
  · exact k.hand h a _
  · exact k.hand (k.elsewhere (t := (s.receive a words).1) h rfl rfl rfl rfl ⟨rfl, rfl⟩ rfl) a _

/-! ### The grant -/

theorem countPassOver (h : P s) (busy : List Requester) (r : Requester) : P (s.countPassOver busy r) := by
  refine k.passed h fun _ => ?_
  have bound : ∀ granted waiting count, passOver granted waiting count ≤ 32 := by
    intro granted waiting count
    unfold passOver
    split
    · omega
    · split <;> omega
  exact ⟨bound _ _ _, bound _ _ _⟩

theorem applyInjection (h : P s) (address : Nat) (forms : List StoredWord) : P (s.applyInjection address forms).1 := by
  unfold State.applyInjection
  split
  · exact h
  · split
    · exact k.record (s := { s with injection := none }) (k.elsewhere h rfl rfl rfl rfl ⟨rfl, rfl⟩ rfl) _
    · exact h

theorem grantRun (h : P s) (up : s.port.link = .up) {address : Nat} (free : s.lineHeld (blockOf address) (lineOf address) = false)
    (work : StoreWork) (run : StoreRun) : P (s.grantRun address work run) := by
  have marked := k.overtaken (block := blockOf address) (line := lineOf address)
    (k.applyInjection h (256 * blockOf address + 16 * lineOf address + run.first) run.forms) (by simpa [State.lineHeld] using free)
  unfold State.grantRun
  dsimp only
  split
  · exact k.issued marked (by simpa using up) _ _ _ _ _ _
  · exact k.issued (k.setProgress marked _) (by simpa using up) _ _ _ _ _ _

theorem grantUpstream (h : P s) (asks : s.waiting .upstream = true) : P s.grantUpstream := by
  have up := State.link_of_waiting asks
  unfold State.grantUpstream
  split
  · exact k.issued h up _ _ _ _ _ _
  · split
    · exact k.issued h up _ _ _ _ _ _
    · exact h
  · rename_i work t hp hc
    split
    · rename_i hd
      exact k.grantRun h up (State.lineHeld_of_waiting asks hp hc hd) work _
    · exact k.issued h up _ _ _ _ _ _
    · exact h
  · exact h

theorem grantMigration (h : P s) (up : s.port.link = .up) : P s.grantMigration := by
  unfold State.grantMigration
  split
  · rename_i work hw
    unfold State.grantCopy
    split
    · split
      · refine k.issued (s := { s with migration := { s.migration with
            engine := .copying { work with inFlight := true, holding := work.held } } }) (k.engine h fun counted => ?_) up _ _ _ _ _ _
        rw [hw] at counted
        rintro v ⟨⟩
        obtain ⟨least, most, overtakes, held, unheld, -, -⟩ := counted work rfl
        exact ⟨least, most, overtakes, held, fun again => ⟨rfl, (unheld again).2⟩, fun _ => rfl, id⟩
      · exact k.issued h up _ _ _ _ _ _
    all_goals exact h
  all_goals exact h

theorem grant (h : P s) (busy : List Requester) : P (s.grant busy) := by
  unfold State.grant
  split
  · rename_i r _ choice
    have asks := (State.choose_some choice).2
    have up : (s.countPassOver busy r).port.link = .up := State.link_of_waiting asks
    have counted := k.countPassOver h busy r
    cases r with
    | upstream => exact k.grantUpstream counted asks
    | writeBack =>
      dsimp only
      unfold State.grantWriteBack
      split
      · exact counted
      · exact k.issued counted up _ _ _ _ _ _
    | migration => exact k.grantMigration counted up
    | scrub =>
      dsimp only
      unfold State.grantScrub
      exact k.issued (s := { s.countPassOver busy .scrub with scrubber := { s.scrubber with state := .pending } })
        (k.scrubberSet counted _) up _ _ _ _ _ _
  · exact h

theorem grantIfFirst (h : P s) (first : Bool) (a : Access) (failed : Bool) : P (s.grantIfFirst first a failed) := by
  unfold State.grantIfFirst
  split
  · exact k.grant h _
  · exact h

/-! ### Responses and expiries -/

theorem ended (h : P s) (result : MemResult) (a : Access) (words : List StoredWord) (first : Bool) : P (match result with
    | .ok => (s.freeSlot.grantIfFirst first a false).handOk a words
    | .fault => ((s.freeSlot.makeRecord (linkRecord s.settings .linkFault a)).grantIfFirst first a true).hand a .failed) := by
  split
  · exact k.handOk (k.grantIfFirst (k.freed h) first a false) a words
  · exact k.hand (k.grantIfFirst (k.record (k.freed h) _) first a true) a .failed

/-! ### A request cancelled -/

theorem removeRequest (h : P s) (l : Location) : P (s.removeRequest l) := by
  refine k.placeFreed (k.withdrawn h ⟨List.filter_sublist, fun r hr other => ?_⟩
    (.inr ⟨WatchEntry.demoteCleared, by simp, rfl⟩))
  exact List.mem_filter.mpr ⟨hr, by simpa using other⟩

theorem cancelRequest (h : P s) (l : Location) : P (s.cancelRequest l) := by
  unfold State.cancelRequest
  split
  · split
    · exact k.abortMigration h _
    · exact k.removeRequest h l
  · split
    · exact k.removeRequest (k.stopped h) l
    · exact k.removeRequest h l
  · exact k.removeRequest h l

end AccessStable

namespace StepStable
variable {P : State → Prop} (k : StepStable P) {s : State}
include k

theorem expired (h : P s) {a : Access} (ho : s.port.outstanding = some a) (first : Bool) :
    P (((s.timedOut a).grantIfFirst first a true).hand a .failed) :=
  k.hand (k.grantIfFirst (k.timedOut h ho) first a true) a .failed

theorem strayResponse (h : P s) (tag : Tag) : P (s.strayResponse tag) := by
  unfold State.strayResponse
  split
  · exact k.returned h tag
  · exact k.record h _

theorem takeResponse (h : P s) (tag : Tag) (result : MemResult) (words : List StoredWord) (first : Bool) :
    P (s.takeResponse tag result words first) := by
  unfold State.takeResponse
  split
  · rename_i a _
    split
    · unfold State.answerAccess
      cases result with
      | ok => exact k.settle (k.ended h .ok a words first)
      | fault => exact k.settle (k.ended h .fault a words first)
    · exact k.strayResponse h tag
  · exact k.strayResponse h tag

theorem expireResponse (h : P s) (first : Bool) : P (s.expireResponse first) := by
  cases ho : s.port.outstanding with
  | none => simpa [State.expireResponse, ho] using h
  | some a =>
    rw [State.expireResponse_of_some ho]
    exact k.settle (k.expired h ho first)

theorem checkResponseTimer (h : P s) : P s.checkResponseTimer := by
  unfold State.checkResponseTimer
  split
  · split
    · exact k.expireResponse h false
    · exact h
  · exact h

theorem tick (h : P s) : P s.tick := k.checkIntervalTimer (k.checkResponseTimer (k.aged h))

/-! ### The acceptance queue, the modes and the resets -/

theorem modeSet (h : P s) (mode : Mode) : P { s with mode := mode } := k.elsewhere h rfl rfl rfl rfl ⟨rfl, rfl⟩ rfl

theorem followTimer (h : P s) : P s.followTimer := k.scrubberSet h _

theorem joinsHeld (h : P s) (t : Transaction) (room : s.upstream.held.length < 4) :
    P { s with upstream := { s.upstream with held := s.upstream.held ++ [{ transaction := t, mark := admissionMark s.mode }] } } :=
  k.holds h fun _ => by simpa using room

theorem accept (h : P s) (t : Transaction) (room : s.upstream.held.length < 4) : P (s.accept t) := by
  unfold State.accept
  dsimp only
  split
  · exact k.settle (k.beginHead (k.joinsHeld h t room))
  · exact k.joinsHeld h t room

theorem endStopping (h : P s) : P s.endStopping := by
  unfold State.endStopping
  split
  · exact k.modeSet h _
  · exact h

theorem left (h : P s) : P (State.beginHead (State.endStopping
    { s with upstream := { s.upstream with held := s.upstream.held.tail } })) := by
  refine k.beginHead (k.endStopping (k.holds h fun few => ?_))
  rw [List.length_tail]
  omega

theorem leaveQueue (h : P s) : P s.leaveQueue := k.settle (k.left h)

theorem systemReset (h : P s) : P s.systemReset := by
  have dropped : P s.dropTransactions :=
    k.elsewhere (k.holds (k.discarded h .upstream) (held := []) fun _ => Nat.zero_le _) rfl rfl rfl rfl ⟨rfl, rfl⟩ rfl
  have emptied := k.emptyWriteBack (k.stopEngine dropped .reset)
  have quiet := k.discarded (k.withdrawScrub (k.discarded emptied .migration)) .scrub
  have zero := k.passed quiet (m := 0) (n := 0) fun _ => ⟨Nat.zero_le _, Nat.zero_le _⟩
  exact k.elsewhere zero rfl rfl rfl rfl ⟨rfl, rfl⟩ rfl

theorem online (h : P s) : P s.enterOnline := k.tryStart (k.followTimer (k.modeSet h .online))

theorem goOnline (h : P s) : P s.goOnline := by
  unfold State.goOnline
  split
  · split
    · exact k.answerStatus (k.online h) _
    · exact k.answerStatus h _
  all_goals exact k.answerStatus h _

theorem goOffline (h : P s) : P s.goOffline := by
  unfold State.goOffline
  split
  · refine k.answerStatus (k.endStopping (k.emptyWriteBack (k.followTimer (k.withdrawScrub (k.stopEngine ?_ _))))) _
    exact k.modeSet h .stopping
  all_goals exact k.answerStatus h _

theorem clearLink (h : P s) : P s.clearLink := k.tryStart (k.followTimer (k.cleared h))

/-! ### The items -/

theorem ranged (h : P s) {low high value : Nat} {effect : State → State} (keeps : P (effect s)) :
    P (s.ranged low high value effect) :=
  State.ranged_of (k.answerStatus h _) fun _ _ => keeps

theorem offlineOnly (h : P s) {effect : State → State} (keeps : P (effect s)) : P (s.offlineOnly effect) :=
  State.offlineOnly_of (k.answerStatus h _) fun _ => keeps

theorem settingsSet (h : P s) (c : Settings) : P { s with settings := c } := k.elsewhere h rfl rfl rfl rfl ⟨rfl, rfl⟩ rfl

theorem pruneTables (h : P s) : P s.pruneTables := k.placesFreed _ (k.pruned h s.settings)

theorem writeVisible (h : P s) (value : Nat) : P (s.writeVisible value) := by
  refine k.offlineOnly h (k.ranged h ?_)
  split
  · exact k.answerStatus h _
  · exact k.answerStatus (k.scrubberSet (k.pruneTables (k.emptyWriteBack (k.settingsSet h _))) _) _

theorem writeSpares (h : P s) (value : Nat) : P (s.writeSpares value) := by
  refine k.offlineOnly h (k.ranged h ?_)
  split
  · exact k.answerStatus h _
  · refine k.answerStatus (k.pruneTables (k.emptyWriteBack ?_)) _
    exact k.elsewhere h rfl rfl rfl rfl ⟨rfl, rfl⟩ rfl

theorem offerAll (n : Nat) (h : P s) : P (State.offerAll n s) := by
  induction n generalizing s with
  | zero => exact h
  | succ n ih =>
    unfold State.offerAll
    split
    · exact ih (k.tryStart (k.offerWaiting h))
    · exact h

theorem writeAutoSpare (h : P s) (value : Nat) : P (s.writeAutoSpare value) := by
  refine k.ranged h (k.answerStatus ?_ _)
  split
  · exact k.offerAll _ (k.settingsSet h _)
  · exact k.settingsSet h _

theorem writeScrubEnable (h : P s) (value : Nat) : P (s.writeScrubEnable value) := by
  refine k.ranged h (k.answerStatus (k.followTimer ?_) _)
  split
  · exact k.settingsSet h _
  · exact k.withdrawScrub (k.settingsSet h _)

theorem writeItem (h : P s) (item : Byte) (value : Nat) : P (s.writeItem item value) := by
  have plain : ∀ {low high : Nat} (c : Settings → Settings),
      P (s.ranged low high value fun u => State.answerStatus { u with settings := c u.settings } .ok) :=
    fun c => k.ranged h (k.answerStatus (k.settingsSet h (c s.settings)) _)
  unfold State.writeItem
  split
  · exact k.writeVisible h value
  · exact k.offlineOnly h (plain fun c => { c with downstream := value })
  · exact k.writeSpares h value
  · exact plain fun c => { c with correctedLimit := value }
  · exact plain fun c => { c with wordLimit := value }
  · exact k.writeAutoSpare h value
  · exact plain fun c => { c with repairOnRead := value == 1 }
  · exact k.writeScrubEnable h value
  · exact k.ranged h (k.answerStatus (k.checkIntervalTimer (k.settingsSet h _)) _)
  · exact k.ranged h (k.answerStatus (k.checkResponseTimer (k.settingsSet h _)) _)
  · exact plain fun c => { c with recordCorrected := value == 1 }
  · exact plain fun c => { c with alertEnables := flagsOfNat value }
  · exact plain fun c => { c with alertDepth := value }
  · exact plain fun c => { c with spareLowMark := value }
  · exact k.answerStatus h _

/-! ### The repair commands and the queue's -/

theorem remapSet (h : P s) (table : RemapTable) : P { s with remap := table } := k.elsewhere h rfl rfl rfl rfl ⟨rfl, rfl⟩ rfl

theorem restoreRemap (h : P s) (i : Nat) (state : Option RestoreState) (source : Nat) : P (s.restoreRemap i state source) := by
  unfold State.restoreRemap
  (repeat' split) <;> exact k.answerStatus (k.remapSet h _) _

theorem dropRemap (h : P s) (i : Nat) : P (s.dropRemap i) := by
  unfold State.dropRemap
  (repeat' split) <;> exact k.answerStatus (k.remapSet h _) _

theorem unblock (h : P s) : P s.unblock := by
  unfold State.unblock
  split
  · exact k.tryStart (k.stopped h)
  all_goals exact h

theorem releaseSpare (h : P s) (i : Nat) : P (s.releaseSpare i) := by
  unfold State.releaseSpare
  split
  · exact k.answerStatus h _
  · split
    · exact k.answerStatus h _
    · exact k.answerStatus (k.unblock (k.remapSet h _)) _

theorem requested (h : P s) {l : Location} (passes : s.requestRefusal l = none) :
    P ((s.queueEntry l).joinQueue l .manual) :=
  k.joined h (State.room_of_requestRefusal passes).1 (State.room_of_requestRefusal passes).2 .manual

theorem requestSpare (h : P s) (l : Location) : P (s.requestSpare l) := by
  unfold State.requestSpare
  split
  · exact k.answerStatus h _
  · rename_i passes
    exact k.answerStatus (k.tryStart (k.requested h passes)) _

theorem clearWatch (h : P s) (slot : Nat) : P (s.clearWatch slot) := by
  unfold State.clearWatch
  split
  · exact k.answerStatus h _
  · split
    · exact k.answerStatus h _
    · split
      · exact k.answerStatus h _
      · exact k.answerStatus (k.erased h slot) _

end StepStable

/-! ## Every step -/

/-- `P` is kept by what each command does once its frame is taken, and by each event. -/
structure CommandStable (P : State → Prop) : Prop where
  pending {s : State} (h : P s) (rest : List Instr) : P { s with pending := rest }
  respond {s : State} (h : P s) (status : Status) (payload : List Byte) : P (s.respond status payload)
  onBus {s : State} (h : P s) (acknowledged : Bool) (returned : List Byte) : P (s.onBus acknowledged returned)
  tick {s : State} (h : P s) : P s.tick
  startOver {s : State} (h : P s) (straps : BitVec 2) : P (s.startOver straps)
  systemReset {s : State} (h : P s) : P s.systemReset.tryStart
  accept {s : State} (h : P s) (t : Transaction) (room : s.upstream.held.length < 4) : P (s.accept t)
  leaveQueue {s : State} (h : P s) {answer : Answer} (given : s.upstream.progress = .answer answer) : P s.leaveQueue
  grant {s : State} (h : P s) : P (s.grant [])
  takeResponse {s : State} (h : P s) (tag : Tag) (result : MemResult) (words : List StoredWord) (first : Bool) :
    P (s.takeResponse tag result words first)
  expireResponse {s : State} (h : P s) (first : Bool) : P (s.expireResponse first)
  expireInterval {s : State} (h : P s) : P s.expireInterval
  tryStart {s : State} (h : P s) : P s.tryStart
  writeItem {s : State} (h : P s) (item : Byte) (value : Nat) : P (s.writeItem item value)
  goOnline {s : State} (h : P s) : P s.goOnline
  goOffline {s : State} (h : P s) : P s.goOffline
  clearLink {s : State} (h : P s) : P s.clearLink
  restoreRemap {s : State} (h : P s) (i : Nat) (state : Option RestoreState) (source : Nat) : P (s.restoreRemap i state source)
  dropRemap {s : State} (h : P s) (i : Nat) : P (s.dropRemap i)
  releaseSpare {s : State} (h : P s) (i : Nat) : P (s.releaseSpare i)
  requestSpare {s : State} (h : P s) (l : Location) : P (s.requestSpare l)
  cancelRequest {s : State} (h : P s) (l : Location) : P (s.cancelRequest l).tryStart
  clearWatch {s : State} (h : P s) (slot : Nat) : P (s.clearWatch slot)
  popRecord {s : State} (h : P s) : P s.popRecord
  ackAlert {s : State} (h : P s) (flags : Byte) : P (s.ackAlert flags)
  inject {s : State} (h : P s) (address : Nat) (kind : Option InjectKind) : P (s.inject address kind)

namespace CommandStable
variable {P : State → Prop} (k : CommandStable P) {s : State}
include k

theorem answerStatus (h : P s) (status : Status) : P (s.answerStatus status) := k.respond h status []

theorem withLocation (h : P s) (args : List Byte) {effect : State → Location → State} (keeps : ∀ l, P (effect s l)) :
    P (s.withLocation args effect) := by
  unfold State.withLocation
  split
  · exact keeps _
  · exact k.answerStatus h _

theorem takeFrame (h : P s) (address : BusAddress) {effect : State → State} (keeps : ∀ u, P u → P (effect u)) :
    P (s.takeFrame address effect) := by
  unfold State.takeFrame
  split
  · exact keeps _ (k.onBus h _ _)
  · exact k.onBus h _ _

theorem takeCommand (h : P s) (address : BusAddress) (args : List Byte) (count : Nat) {effect : State → State}
    (keeps : ∀ u, P u → P (effect u)) : P (s.takeCommand address args count effect) := by
  refine k.takeFrame h address fun u hu => ?_
  split
  · exact keeps u hu
  · exact k.answerStatus hu _

/-- Every command but an UNKNOWN_COMMAND's frame. -/
theorem exec_known {t : State} (h : P s) {i : Instr} (known : ∀ a bytes, i ≠ .unknownCommand a bytes)
    (e : exec i s = .next t) : P t := by
  have frame := fun address effect => k.takeFrame h address (effect := effect)
  have command := fun address args count effect => k.takeCommand h address args count (effect := effect)
  cases i
  case unknownCommand a bytes => exact absurd rfl (known a bytes)
  all_goals cases e
  case powerOn straps => exact k.startOver h straps
  case systemReset => exact k.systemReset h
  case transactionAccepted t =>
    split
    · rename_i room
      exact k.accept h t room
    · exact h
  case answerTaken =>
    split
    · rename_i given
      exact k.leaveQueue h given
    all_goals exact h
  case arbiterGrant => exact k.grant h
  case memoryResponse tag result words first => exact k.takeResponse h tag result words first
  case responseTimerExpiry first => exact k.expireResponse h first
  case scrubIntervalExpiry => exact k.expireInterval h
  case migrationStart => exact k.tryStart h
  case readFrame => split <;> exact k.onBus h _ _
  case readStatus a args => exact command a args 0 _ fun u hu => k.respond hu _ _
  case readConfig a args =>
    refine command a args 1 _ fun u hu => ?_
    unfold State.readItem
    split
    · exact k.respond hu _ _
    · exact k.answerStatus hu _
  case writeConfig a args => exact command a args 5 _ fun u hu => k.writeItem hu _ _
  case downstreamBlocks a value => exact frame a _ fun u hu => k.writeItem hu 0x02 _
  case visibleBlocks a value => exact frame a _ fun u hu => k.writeItem hu 0x01 _
  case spareCount a value => exact frame a _ fun u hu => k.writeItem hu 0x03 _
  case autoSpare a value => exact frame a _ fun u hu => k.writeItem hu 0x06 _
  case scrubEnable a value => exact frame a _ fun u hu => k.writeItem hu 0x08 _
  case scrubInterval a value => exact frame a _ fun u hu => k.writeItem hu 0x09 _
  case linkTimeout a value => exact frame a _ fun u hu => k.writeItem hu 0x0A _
  case alertEnables a value => exact frame a _ fun u hu => k.writeItem hu 0x0C _
  case alertDepth a value => exact frame a _ fun u hu => k.writeItem hu 0x0D _
  case spareLowMark a value => exact frame a _ fun u hu => k.writeItem hu 0x0E _
  case goOnline a args => exact command a args 0 _ fun u hu => k.goOnline hu
  case goOffline a args => exact command a args 0 _ fun u hu => k.goOffline hu
  case resetPart a args => exact command a args 0 _ fun u hu => k.onBus (k.startOver hu _) _ _
  case clearLink a args => exact command a args 0 _ fun u hu => k.answerStatus (k.clearLink hu) _
  case readRemap a args =>
    refine command a args 1 _ fun u hu => ?_
    unfold State.readRemap
    split
    · exact k.respond hu _ _
    · exact k.answerStatus hu _
  case restoreRemap a args => exact command a args 5 _ fun u hu => k.restoreRemap hu _ _ _
  case dropRemap a args => exact command a args 1 _ fun u hu => k.dropRemap hu _
  case releaseSpare a args => exact command a args 1 _ fun u hu => k.releaseSpare hu _
  case requestSpare a args => exact command a args 4 _ fun u hu => k.withLocation hu args (k.requestSpare hu)
  case cancelRequest a args =>
    refine command a args 4 _ fun u hu => k.withLocation hu args fun l => ?_
    split
    · exact k.answerStatus (k.cancelRequest hu l) _
    · exact k.answerStatus hu _
  case readQueue a args =>
    refine command a args 1 _ fun u hu => ?_
    unfold State.readQueue
    (repeat' split) <;> exact k.respond hu _ _
  case readWatch a args =>
    refine command a args 1 _ fun u hu => ?_
    unfold State.readWatch
    (repeat' split) <;> exact k.respond hu _ _
  case clearWatch a args => exact command a args 1 _ fun u hu => k.clearWatch hu _
  case peekRecord a args =>
    refine command a args 0 _ fun u hu => ?_
    unfold State.peekRecord
    split <;> exact k.respond hu _ _
  case popRecord a args => exact command a args 0 _ fun u hu => k.popRecord hu
  case ackAlert a args => exact command a args 1 _ fun u hu => k.ackAlert hu _
  case inject a args => exact command a args 7 _ fun u hu => k.inject hu _ _

theorem exec {t : State} (h : P s) {i : Instr} (e : exec i s = .next t) : P t := by
  by_cases unknown : ∃ a bytes, i = .unknownCommand a bytes
  · obtain ⟨a, bytes, rfl⟩ := unknown
    rcases execUnknownCommand_cases a bytes s with ⟨b, left, he⟩ | he | ⟨j, known, he⟩
    · obtain rfl : _ = t := Host.Outcome.next.inj (he.symm.trans e)
      refine k.takeFrame h b fun u hu => ?_
      split
      · exact hu
      · exact k.answerStatus hu _
    · obtain rfl : s = t := Host.Outcome.next.inj (he.symm.trans e)
      exact h
    · exact k.exec_known h known (he.symm.trans e)
  · exact k.exec_known h (fun a bytes hi => unknown ⟨a, bytes, hi⟩) e

/-- What every command and every event keeps, every step keeps. -/
theorem step {t : State} (h : P s) (e : step s = .next t) : P t := by
  unfold Machine.step at e
  split at e
  · obtain rfl := Host.Outcome.next.inj e
    exact k.tick h
  · rename_i rest _
    exact k.exec (k.pending h rest) e

end CommandStable

namespace StepStable
variable {P : State → Prop} (k : StepStable P) {s : State}
include k

theorem popRecord (h : P s) : P s.popRecord := by
  unfold State.popRecord
  split
  · exact k.answerStatus h _
  · rename_i hq
    exact k.respond (k.popped h hq) _ _

theorem inject (h : P s) (address : Nat) (kind : Option InjectKind) : P (s.inject address kind) := by
  unfold State.inject
  (repeat' split) <;> exact k.elsewhere h rfl rfl rfl rfl ⟨rfl, rfl⟩ rfl

/-- Every command and every event is made of the changes of a step. -/
theorem commandStable : CommandStable P where
  pending h _ := k.elsewhere h rfl rfl rfl rfl ⟨rfl, rfl⟩ rfl
  respond := k.respond
  onBus := k.onBus
  tick := k.tick
  startOver {s} _ := k.startOver s
  systemReset h := k.tryStart (k.systemReset h)
  accept := k.accept
  leaveQueue h _ _ := k.leaveQueue h
  grant h := k.grant h []
  takeResponse := k.takeResponse
  expireResponse := k.expireResponse
  expireInterval := k.expireInterval
  tryStart := k.tryStart
  writeItem := k.writeItem
  goOnline := k.goOnline
  goOffline := k.goOffline
  clearLink := k.clearLink
  restoreRemap := k.restoreRemap
  dropRemap := k.dropRemap
  releaseSpare := k.releaseSpare
  requestSpare := k.requestSpare
  cancelRequest h l := k.tryStart (k.cancelRequest h l)
  clearWatch := k.clearWatch
  popRecord := k.popRecord
  ackAlert h _ := k.elsewhere h rfl rfl rfl rfl ⟨rfl, rfl⟩ rfl
  inject := k.inject

/-- What every change of a step keeps, every step keeps. -/
theorem step {t : State} (h : P s) (e : step s = .next t) : P t := k.commandStable.step h e

end StepStable

end Sys2Proof.Machine

namespace Sys2Proof.Machine

/-! ## The watch table, slot by slot -/

theorem WatchTable.mem_entries {w : WatchTable} {e : WatchEntry} : e ∈ w.entries ↔ ∃ i, w.entryIn i = some e := by
  simp only [WatchTable.entries, List.mem_filterMap, id, exists_eq_right]
  rw [List.mem_iff_getElem]
  constructor
  · rintro ⟨i, hi, at_i⟩
    have hi : i < 32 := by simpa using hi
    exact ⟨i, by simpa [WatchTable.entryIn, hi] using at_i⟩
  · rintro ⟨i, there⟩
    have hi := WatchTable.lt_of_entryIn there
    exact ⟨i, by simpa using hi, by simpa [WatchTable.entryIn, hi] using there⟩

theorem WatchTable.distinct.nodup {w : WatchTable} (h : w.distinct) : (w.entries.map (·.location)).Nodup := by
  refine List.pairwise_map.mpr (List.pairwise_filterMap.mpr (List.pairwise_iff_getElem.mpr ?_))
  intro i j hi hj lt e he f hf same
  have at_slot : ∀ k (hk : k < w.slots.toList.length) x, id w.slots.toList[k] = some x → w.entryIn k = some x := by
    intro k hk x hx
    have hk' : k < 32 := by simpa using hk
    simpa [WatchTable.entryIn, hk'] using hx
  exact absurd (h i j e f (at_slot i hi e he) (at_slot j hj f hf) same) (by omega)

/-- An entry of a changed table is the changed one, or one that stood in another slot. -/
theorem WatchTable.entryIn_modify {w : WatchTable} {l : Location} {f : WatchEntry → WatchEntry} {i : Nat} {e : WatchEntry}
    (h : (w.modify l f).entryIn i = some e) :
    (∃ old, w.entryIn i = some old ∧ old.location = l ∧ e = f old) ∨ w.entryIn i = some e ∧ w.slotOf l ≠ some i := by
  unfold WatchTable.modify at h
  split at h
  · rename_i slot found
    obtain ⟨lt, old, there, names⟩ := WatchTable.slotOf_some found
    rw [WatchTable.entryIn_setSlot] at h
    split at h
    · rename_i same
      obtain ⟨rfl, -⟩ := same
      rw [there] at h
      exact .inl ⟨old, there, names, (Option.some.inj h).symm⟩
    · rename_i other
      exact .inr ⟨h, fun same => other ⟨Option.some.inj (found.symm.trans same), lt⟩⟩
  · rename_i unnamed
    exact .inr ⟨h, by simp [unnamed]⟩

theorem WatchTable.entryIn_remove {w : WatchTable} {l : Location} {i : Nat} {e : WatchEntry}
    (h : (w.remove l).entryIn i = some e) : w.entryIn i = some e ∧ w.slotOf l ≠ some i := by
  unfold WatchTable.remove at h
  split at h
  · rename_i slot found
    obtain ⟨lt, -⟩ := WatchTable.slotOf_some found
    rw [WatchTable.entryIn_setSlot] at h
    split at h
    · cases h
    · rename_i other
      exact ⟨h, fun same => other ⟨Option.some.inj (found.symm.trans same), lt⟩⟩
  · rename_i unnamed
    exact ⟨h, by simp [unnamed]⟩

/-- In a table without two entries for a location, an entry outside the slot found names another location. -/
theorem WatchTable.distinct.location_ne {w : WatchTable} (h : w.distinct) {i : Nat} {e : WatchEntry} {l : Location}
    (there : w.entryIn i = some e) (other : w.slotOf l ≠ some i) : e.location ≠ l :=
  fun same => other (same ▸ h.slotOf there)

theorem WatchTable.entryIn_decay {w : WatchTable} {i : Nat} {e : WatchEntry} (h : w.decay.entryIn i = some e) :
    ∃ old, w.entryIn i = some old ∧ (e = old ∨ old.state = .tracking ∧ e = { old with corrected := old.corrected / 2 }) := by
  have hi := WatchTable.lt_of_entryIn h
  have slot : w.decay.entryIn i = decaySlot (w.entryIn i) := by simp [WatchTable.entryIn, WatchTable.decay, hi]
  rw [slot] at h
  cases there : w.entryIn i with
  | none => simp [there, decaySlot] at h
  | some old =>
    refine ⟨old, rfl, ?_⟩
    rw [there] at h
    unfold decaySlot at h
    dsimp only at h
    split at h
    · rename_i tracking
      split at h
      · cases h
      · exact .inr ⟨tracking, (Option.some.inj h).symm⟩
    all_goals exact .inl (Option.some.inj h).symm

/-- Counting leaves the location and the state, and keeps the count and the word list in range (R61). -/
theorem WatchEntry.count_fits (e : WatchEntry) (offset : Nat) (bad : Bool) :
    (e.count offset bad).location = e.location ∧ (e.count offset bad).state = e.state
      ∧ (e.corrected ≤ 255 → (e.count offset bad).corrected ≤ 255)
      ∧ (e.offsets.length ≤ 4 → (e.count offset bad).offsets.length ≤ 4)
      ∧ (e.offsets.Nodup → (e.count offset bad).offsets.Nodup) := by
  unfold WatchEntry.count
  split
  · exact ⟨rfl, rfl, id, id, id⟩
  · refine ⟨rfl, rfl, fun _ => Nat.min_le_right _ _, fun few => ?_, fun distinct => ?_⟩
    · dsimp only
      split
      · exact few
      · rename_i room
        rw [List.length_append, List.length_singleton]
        omega
    · dsimp only
      split
      · exact distinct
      · rename_i new
        exact List.nodup_append.mpr ⟨distinct, List.nodup_singleton _, fun x hx y hy => by
          obtain rfl := List.mem_singleton.mp hy
          exact fun same => new (.inl (same ▸ hx))⟩

/-! ## The watch table and the migration queue (O56) -/

/-- An entry in range, QUEUED only with a request for its location, and WAITING only without one (R58, R61, R65). -/
structure WatchEntry.Fits (e : WatchEntry) (queue : List Request) : Prop where
  corrected : e.corrected ≤ 255
  offsets : e.offsets.length ≤ 4 ∧ e.offsets.Nodup
  queued : e.state = .queued → ∃ r ∈ queue, r.location = e.location
  waiting : e.state = .waiting → ∀ r ∈ queue, r.location ≠ e.location

/-- The watch table and the migration queue in step. -/
structure State.Tied (s : State) : Prop where
  distinct : s.watch.distinct
  untracked : s.watch.untracked ≤ 65535
  entries : ∀ i e, s.watch.entryIn i = some e → e.Fits s.migration.queue
  room : s.migration.queue.length ≤ 8
  apart : (s.migration.queue.map (·.location)).Nodup

theorem State.hasRequest_eq_false {s : State} {l : Location} :
    s.hasRequest l = false ↔ ∀ r ∈ s.migration.queue, r.location ≠ l := by
  rw [← Bool.not_eq_true, State.hasRequest_iff]
  push Not
  rfl

theorem State.tied_iff {s : State} : s.Tied ↔ s.watchLaw ∧ s.queueLaw := by
  constructor
  · rintro ⟨distinct, untracked, entries, room, apart⟩
    refine ⟨⟨distinct.nodup, untracked, fun e he => ?_⟩, room, apart⟩
    obtain ⟨i, there⟩ := WatchTable.mem_entries.mp he
    obtain ⟨corrected, ⟨few, once⟩, queued, waiting⟩ := entries i e there
    exact ⟨corrected, few, once, fun q => State.hasRequest_iff.mpr (queued q), fun w => State.hasRequest_eq_false.mpr (waiting w)⟩
  · rintro ⟨⟨distinct, untracked, entries⟩, room, apart⟩
    refine ⟨WatchTable.distinct_of_nodup distinct, untracked, fun i e there => ?_, room, apart⟩
    obtain ⟨corrected, few, once, queued, waiting⟩ := entries e (WatchTable.mem_entries.mpr ⟨i, there⟩)
    exact ⟨corrected, ⟨few, once⟩, fun q => State.hasRequest_iff.mp (queued q), fun w => State.hasRequest_eq_false.mp (waiting w)⟩

/-- A request for a location that has none joins requests for distinct locations (R33). -/
theorem nodup_join {queue : List Request} (h : (queue.map (·.location)).Nodup) {r : Request}
    (new : ∀ x ∈ queue, x.location ≠ r.location) : ((queue ++ [r]).map (·.location)).Nodup := by
  rw [List.map_append, List.map_singleton]
  refine List.nodup_append.mpr ⟨h, List.nodup_singleton _, fun l hl k hk => ?_⟩
  obtain ⟨x, hx, rfl⟩ := List.mem_map.mp hl
  obtain rfl := List.mem_singleton.mp hk
  exact new x hx

namespace State.Tied
variable {s t : State}

/-- A change after which each slot is empty or holds an entry for the location it held. -/
theorem change (h : s.Tied) (untracked : t.watch.untracked ≤ 65535)
    (entries : ∀ i e, t.watch.entryIn i = some e →
      e.Fits t.migration.queue ∧ ∃ old, s.watch.entryIn i = some old ∧ old.location = e.location)
    (room : t.migration.queue.length ≤ 8) (apart : (t.migration.queue.map (·.location)).Nodup) : t.Tied := by
  refine ⟨fun i j e f he hf same => ?_, untracked, fun i e he => (entries i e he).1, room, apart⟩
  obtain ⟨-, e', he', el⟩ := entries i e he
  obtain ⟨-, f', hf', fl⟩ := entries j f hf
  exact h.distinct i j e' f' he' hf' (by rw [el, fl, same])

/-- A change of the watch table alone. -/
theorem rewatch (h : s.Tied) {w : WatchTable} (untracked : w.untracked = s.watch.untracked)
    (entries : ∀ i e, w.entryIn i = some e →
      ∃ old, s.watch.entryIn i = some old ∧ old.location = e.location ∧ (e = old ∨ e.Fits s.migration.queue)) :
    State.Tied { s with watch := w } := by
  refine h.change (untracked ▸ h.untracked) (fun i e he => ?_) h.room h.apart
  obtain ⟨old, there, same, fits⟩ := entries i e he
  exact ⟨fits.elim (fun eq => eq ▸ h.entries i old there) id, old, there, same⟩

theorem of_same (h : s.Tied) (watch : t.watch = s.watch) (queue : t.migration.queue = s.migration.queue) : t.Tied := by
  obtain ⟨distinct, untracked, entries, room, apart⟩ := h
  exact ⟨by rwa [watch], by rwa [watch], by rwa [watch, queue], by rwa [queue], by rwa [queue]⟩

theorem queued (h : s.Tied) {l : Location} (named : s.hasRequest l = true) : (s.queueEntry l).Tied := by
  refine h.rewatch (by unfold WatchTable.modify; split <;> rfl) fun i e he => ?_
  rcases WatchTable.entryIn_modify he with ⟨old, there, names, rfl⟩ | ⟨there, -⟩
  · obtain ⟨corrected, offsets, -, -⟩ := h.entries i old there
    refine ⟨old, there, rfl, .inr ⟨corrected, offsets, fun _ => ?_, nofun⟩⟩
    exact names ▸ State.hasRequest_iff.mp named
  · exact ⟨e, there, rfl, .inl rfl⟩

theorem waits (h : s.Tied) {l : Location} (unnamed : s.hasRequest l = false) :
    State.Tied { s with watch := s.watch.modify l fun e => { e with state := .waiting } } := by
  refine h.rewatch (by unfold WatchTable.modify; split <;> rfl) fun i e he => ?_
  rcases WatchTable.entryIn_modify he with ⟨old, there, names, rfl⟩ | ⟨there, -⟩
  · obtain ⟨corrected, offsets, -, -⟩ := h.entries i old there
    refine ⟨old, there, rfl, .inr ⟨corrected, offsets, nofun, fun _ => ?_⟩⟩
    exact names ▸ State.hasRequest_eq_false.mp unnamed
  · exact ⟨e, there, rfl, .inl rfl⟩

theorem joined (h : s.Tied) {l : Location} (unnamed : s.hasRequest l = false) (room : s.migration.queue.length < 8)
    (origin : RequestOrigin) : ((s.queueEntry l).joinQueue l origin).Tied := by
  have absent := State.hasRequest_eq_false.mp unnamed
  have queue : ((s.queueEntry l).joinQueue l origin).migration.queue
      = s.migration.queue ++ [{ location := l, origin := origin, retried := false, started := false }] := rfl
  refine h.change ?_ (fun i e he => ?_) (by rw [queue]; simpa using room) ?_
  · rw [State.joinQueue_watch, State.queueEntry_watch]
    unfold WatchTable.modify
    split <;> exact h.untracked
  · rw [queue]
    rw [State.joinQueue_watch, State.queueEntry_watch] at he
    rcases WatchTable.entryIn_modify he with ⟨old, there, names, rfl⟩ | ⟨there, other⟩
    · obtain ⟨corrected, offsets, -, -⟩ := h.entries i old there
      exact ⟨⟨corrected, offsets, fun _ => ⟨_, List.mem_append_right _ (List.mem_singleton_self _), names.symm⟩, nofun⟩,
        old, there, rfl⟩
    · obtain ⟨corrected, offsets, queued, waiting⟩ := h.entries i e there
      refine ⟨⟨corrected, offsets, fun q => ?_, fun w r hr => ?_⟩, e, there, rfl⟩
      · obtain ⟨r, hr, names⟩ := queued q
        exact ⟨r, List.mem_append_left _ hr, names⟩
      · rcases List.mem_append.mp hr with old | new
        · exact waiting w r old
        · obtain rfl := List.mem_singleton.mp new
          exact (h.distinct.location_ne there other).symm
  · rw [queue]
    exact nodup_join h.apart absent

theorem counted (h : s.Tied) {l : Location} {slot : Nat} {table : WatchTable} {before : WatchEntry}
    (found : s.watch.ensure l = some (slot, table)) (there : table.entryIn slot = some before) (offset : Nat) (bad : Bool) :
    State.Tied { s with watch := table.setSlot slot (some (before.count offset bad)) } := by
  obtain ⟨location, state, corrected, few, once⟩ := before.count_fits offset bad
  rcases WatchTable.ensure_cases found with ⟨rfl, -⟩ | ⟨rfl, lt, unnamed, -⟩
  · refine h.rewatch rfl fun i e he => ?_
    rw [WatchTable.entryIn_setSlot] at he
    split at he
    · rename_i same
      obtain ⟨rfl, -⟩ := same
      obtain rfl := Option.some.inj he
      have fits := h.entries slot before there
      exact ⟨before, there, location.symm, .inr ⟨corrected fits.corrected, ⟨few fits.offsets.1, once fits.offsets.2⟩,
        by rw [location, state]; exact fits.queued, by rw [location, state]; exact fits.waiting⟩⟩
    · exact ⟨e, he, rfl, .inl rfl⟩
  · rw [WatchTable.entryIn_create, if_pos ⟨rfl, lt⟩] at there
    have fresh := Option.some.inj there
    have entry : ∀ i e, ((s.watch.create slot l).setSlot slot (some (before.count offset bad))).entryIn i = some e →
        i = slot ∧ e.location = l ∧ e.Fits s.migration.queue ∨ i ≠ slot ∧ s.watch.entryIn i = some e := by
      intro i e he
      rw [WatchTable.entryIn_setSlot] at he
      split at he
      · rename_i same
        obtain rfl := Option.some.inj he
        subst fresh
        exact .inl ⟨same.1.symm, location, corrected (Nat.zero_le _), ⟨few (Nat.zero_le _), once List.nodup_nil⟩,
          by rw [state]; nofun, by rw [state]; nofun⟩
      · rename_i other
        rw [WatchTable.entryIn_create, if_neg other] at he
        exact .inr ⟨fun same => other ⟨same.symm, lt⟩, he⟩
    refine ⟨fun i j e f he hf same => ?_, h.untracked, fun i e he => ?_, h.room, h.apart⟩
    · rcases entry i e he with ⟨rfl, names, -⟩ | ⟨-, there⟩ <;> rcases entry j f hf with ⟨rfl, names', -⟩ | ⟨-, there'⟩
      · rfl
      · exact absurd (same.symm.trans names) (unnamed j f there')
      · exact absurd (same.trans names') (unnamed i e there)
      · exact h.distinct i j e f there there' same
    · exact (entry i e he).elim (fun new => new.2.2) fun old => h.entries i e old.2

theorem withdrawn (h : s.Tied) {l : Location} {left : List Request} {w : WatchTable}
    (others : LeavesOthers s.migration.queue left l) (watch : s.watch.Withdraws l w) :
    State.Tied { s with migration := { s.migration with queue := left }, watch := w } := by
  obtain ⟨sub, rest⟩ := others
  have still : ∀ i e, s.watch.entryIn i = some e → s.watch.slotOf l ≠ some i → e.Fits left := by
    intro i e there other
    obtain ⟨corrected, offsets, queued, waiting⟩ := h.entries i e there
    refine ⟨corrected, offsets, fun q => ?_, fun w r hr => waiting w r (sub.subset hr)⟩
    obtain ⟨r, hr, names⟩ := queued q
    exact ⟨r, rest r hr (names ▸ h.distinct.location_ne there other), names⟩
  refine h.change ?_ (fun i e he => ?_) (sub.length_le.trans h.room) ((sub.map _).nodup h.apart)
  · rcases watch with rfl | ⟨f, -, rfl⟩
    · unfold WatchTable.remove
      split <;> exact h.untracked
    · unfold WatchTable.modify
      split <;> exact h.untracked
  · rcases watch with rfl | ⟨f, hf, rfl⟩
    · obtain ⟨there, other⟩ := WatchTable.entryIn_remove he
      exact ⟨still i e there other, e, there, rfl⟩
    · rcases WatchTable.entryIn_modify he with ⟨old, there, -, rfl⟩ | ⟨there, other⟩
      · obtain ⟨corrected, offsets, -, -⟩ := h.entries i old there
        rcases List.mem_pair.mp hf with rfl | rfl
        · exact ⟨⟨corrected, offsets, nofun, nofun⟩, old, there, rfl⟩
        · exact ⟨⟨Nat.zero_le _, ⟨Nat.zero_le _, List.nodup_nil⟩, nofun, nofun⟩, old, there, rfl⟩
      · exact ⟨still i e there other, e, there, rfl⟩

theorem reordered (h : s.Tied) {queue : List Request} (same : (queue.map (·.location)).Perm (s.migration.queue.map (·.location))) :
    (s.setQueue queue).Tied := by
  have names : ∀ l, (∃ r ∈ queue, r.location = l) ↔ ∃ r ∈ s.migration.queue, r.location = l := by
    intro l
    rw [← List.mem_map, ← List.mem_map]
    exact same.mem_iff
  refine h.change h.untracked (fun i e there => ⟨?_, e, there, rfl⟩) ?_ (same.nodup_iff.mpr h.apart)
  · obtain ⟨corrected, offsets, queued, waiting⟩ := h.entries i e there
    refine ⟨corrected, offsets, fun q => (names _).mpr (queued q), fun w r hr hl => ?_⟩
    obtain ⟨x, hx, hl⟩ := (names _).mp ⟨r, hr, hl⟩
    exact waiting w x hx hl
  · have length := same.length_eq
    simp only [List.length_map] at length
    exact length ▸ h.room

theorem decayed (h : s.Tied) : State.Tied { s with watch := s.watch.decay } := by
  refine h.rewatch rfl fun i e he => ?_
  obtain ⟨old, there, rfl | ⟨tracking, rfl⟩⟩ := WatchTable.entryIn_decay he
  · exact ⟨_, there, rfl, .inl rfl⟩
  · have fits := h.entries i old there
    exact ⟨old, there, rfl, .inr ⟨(Nat.div_le_self _ _).trans fits.corrected, fits.offsets, by simp [tracking], by simp [tracking]⟩⟩

theorem pruned (h : s.Tied) (c : Settings) :
    State.Tied { s with
      migration := { s.migration with queue := s.migration.queue.filter fun r => locationExists c r.location }
      watch := s.watch.prune c } := by
  refine h.change h.untracked (fun i e he => ?_) ((List.length_filter_le _ _).trans h.room) ((List.filter_sublist.map _).nodup h.apart)
  rw [WatchTable.entryIn_prune] at he
  obtain ⟨there, stands⟩ := Option.filter_eq_some_iff.mp he
  obtain ⟨corrected, offsets, queued, waiting⟩ := h.entries i e there
  refine ⟨⟨corrected, offsets, fun q => ?_, fun w r hr => waiting w r (List.mem_filter.mp hr).1⟩, e, there, rfl⟩
  obtain ⟨r, hr, names⟩ := queued q
  exact ⟨r, List.mem_filter.mpr ⟨hr, by rw [names]; exact stands⟩, names⟩

theorem erased (h : s.Tied) (slot : Nat) : State.Tied { s with watch := s.watch.setSlot slot none } := by
  refine h.rewatch rfl fun i e he => ?_
  rw [WatchTable.entryIn_setSlot] at he
  split at he
  · cases he
  · exact ⟨e, he, rfl, .inl rfl⟩

theorem startOver (s : State) (straps : BitVec 2) : (s.startOver straps).Tied := by
  have empty : ∀ i, (s.startOver straps).watch.entryIn i = none := by
    intro i
    unfold WatchTable.entryIn
    by_cases hi : i < 32 <;> simp [State.startOver, State.poweredOn, hi]
  exact ⟨fun i j e f he => by simp [empty] at he, Nat.zero_le _, fun i e he => by simp [empty] at he, Nat.zero_le _, List.nodup_nil⟩

theorem markOvertaken (h : s.Tied) (block line : Nat) : (s.markOvertaken block line).Tied := by
  refine h.of_same (by simp) ?_
  unfold State.markOvertaken
  (repeat' split) <;> rfl

/-- Every change of a step keeps the table and the queue in step. -/
theorem stepStable : StepStable State.Tied where
  record h _ := h.of_same rfl rfl
  queued h _ := h.queued
  joined h _ := h.joined
  waits h _ := h.waits
  counted h _ _ _ _ := h.counted
  untracked h := h.change (Nat.min_le_right _ _) (fun i e he => ⟨h.entries i e he, e, he, rfl⟩) h.room h.apart
  offered h _ := h.of_same rfl rfl
  withdrawn h _ _ _ := h.withdrawn
  reordered h _ := h.reordered
  begun h _ _ _ _ := h.of_same rfl rfl
  elsewhere h watch migration _ _ _ _ := h.of_same watch (by rw [migration])
  engine h _ _ := h.of_same rfl rfl
  overtaken h _ _ _ := h.markOvertaken _ _
  passed h _ _ _ := h.of_same rfl rfl
  freed h := h.of_same rfl rfl
  discarded h _ := h.of_same (by simp) (by simp)
  issued h _ _ _ _ _ _ _ := h.of_same (by simp) (by simp)
  timedOut h _ _ := h.of_same (by unfold State.timedOut; split <;> rfl) (by unfold State.timedOut; split <;> rfl)
  returned h _ := h.of_same rfl rfl
  cleared h := h.of_same rfl rfl
  aged h := h.of_same rfl rfl
  kept h _ := h.of_same rfl rfl
  popped h _ _ _ := h.of_same rfl rfl
  holds h _ _ := h.of_same rfl rfl
  decayed h := h.decayed
  pruned h := h.pruned
  erased h := h.erased
  startOver := startOver

end State.Tied

/-- Settles O56: each change a step is made of keeps the watch table and the queue in step (`State.Tied.stepStable`). -/
theorem watchInvariant : Obligations.WatchInvariant := fun _ _ watch queue e =>
  State.tied_iff.mp (State.Tied.stepStable.step (State.tied_iff.mpr ⟨watch, queue⟩) e)

end Sys2Proof.Machine

namespace Sys2Proof.Machine

/-! ## The bounds (O54) -/

/-- The tag of the next access is none of the abandoned ones, while some tag is not (R109). -/
theorem nextTag_not_mem {last : Tag} {abandoned : List Tag} (few : abandoned.length ≤ 8) : nextTag last abandoned ∉ abandoned := by
  unfold nextTag
  cases found : ((List.range 16).map fun k => last + 1 + BitVec.ofNat 4 k).find? fun t => !abandoned.contains t with
  | some t => simpa using List.find?_some found
  | none =>
    rw [List.find?_eq_none] at found
    have distinct : ((List.range 16).map fun k => last + 1 + BitVec.ofNat 4 k).Nodup := by
      refine List.Nodup.map_on (fun i hi j hj same => ?_) List.nodup_range
      rw [List.mem_range] at hi hj
      bv_omega
    have all : ((List.range 16).map fun k => last + 1 + BitVec.ofNat 4 k) ⊆ abandoned := fun t ht => by simpa using found t ht
    have many := (distinct.subperm all).length_le
    rw [List.length_map, List.length_range] at many
    omega

theorem State.issue_port (s : State) (p : Purpose) (block line first count : Nat) (words : List StoredWord) :
    (s.issue p block line first count words).port = { s.port with
      lastTag := nextTag s.port.lastTag s.port.abandoned
      outstanding := some
        { purpose := p, block := block, line := line, first := first, count := count, words := words,
          tag := nextTag s.port.lastTag s.port.abandoned, elapsed := 0, discarded := false } } := by
  unfold State.issue
  dsimp only
  split <;> rfl

/-- A change that leaves the link, the abandoned set and the tag of the outstanding access keeps the link law. -/
theorem State.linkLaw_of_same {s t : State} (h : s.linkLaw) (link : t.port.link = s.port.link)
    (abandoned : t.port.abandoned = s.port.abandoned)
    (access : ∀ b ∈ t.port.outstanding, ∃ a ∈ s.port.outstanding, b.tag = a.tag) : t.linkLaw := by
  obtain ⟨few, distinct, below, tagged⟩ := h
  refine ⟨by rwa [abandoned], by rwa [abandoned], by rwa [abandoned, link], fun b hb => ?_⟩
  obtain ⟨a, ha, tag⟩ := access b hb
  rw [link, abandoned, tag]
  exact tagged a ha

namespace State.linkLaw
variable {s : State} (h : s.linkLaw)
include h

theorem discarded (r : Requester) : (s.discardOutstanding r).linkLaw := by
  rw [State.discardOutstanding_eq]
  refine State.linkLaw_of_same h rfl rfl fun b hb => ?_
  obtain ⟨a, ha, rfl⟩ := Option.map_eq_some_iff.mp hb
  exact ⟨a, ha, rfl⟩

theorem issued (up : s.port.link = .up) (p : Purpose) (block line first count : Nat) (words : List StoredWord) :
    (s.issue p block line first count words).linkLaw := by
  obtain ⟨few, distinct, below, -⟩ := h
  rw [State.linkLaw, State.issue_port]
  refine ⟨few, distinct, below, fun a ha => ?_⟩
  obtain rfl := Option.some.inj ha
  exact ⟨up, nextTag_not_mem few⟩

/-- The eighth abandoned tag takes the link DOWN (R113). -/
theorem timedOut {a : Access} (ho : s.port.outstanding = some a) : (s.timedOut a).linkLaw := by
  obtain ⟨few, distinct, below, access⟩ := h
  obtain ⟨up, new⟩ := access a ho
  have room := below up
  have most : (s.port.abandoned ++ [a.tag]).length ≤ 8 := by simpa using room
  have once : (s.port.abandoned ++ [a.tag]).Nodup :=
    List.nodup_append.mpr ⟨distinct, List.nodup_singleton _, fun x hx y hy same => by
      obtain rfl := List.mem_singleton.mp hy
      exact new (same ▸ hx)⟩
  unfold State.timedOut
  dsimp only
  split
  · exact ⟨most, once, nofun, nofun⟩
  · rename_i fewer
    have left : (s.port.abandoned ++ [a.tag]).length < 8 := by
      rw [List.length_append, List.length_singleton]
      omega
    exact ⟨most, once, fun _ => left, nofun⟩

theorem returned (tag : Tag) : State.linkLaw { s with port := { s.port with abandoned := s.port.abandoned.erase tag } } := by
  obtain ⟨few, distinct, below, access⟩ := h
  have less := s.port.abandoned.length_erase_le (a := tag)
  exact ⟨less.trans few, distinct.erase tag, fun up => less.trans_lt (below up),
    fun a ha => ⟨(access a ha).1, fun mem => (access a ha).2 (List.mem_of_mem_erase mem)⟩⟩

theorem aged : s.passMicrosecond.linkLaw := by
  refine State.linkLaw_of_same h rfl rfl fun b hb => ?_
  obtain ⟨a, ha, rfl⟩ := Option.map_eq_some_iff.mp hb
  exact ⟨a, ha, rfl⟩

end State.linkLaw

/-- Every change of a step keeps the link law. -/
theorem State.linkLaw_stepStable : StepStable State.linkLaw where
  record h _ := h
  queued h _ _ := h
  joined h _ _ _ _ := h
  waits h _ _ := h
  counted h _ _ _ _ _ _ _ _ := h
  untracked h := h
  offered h _ := h
  withdrawn h _ _ _ _ _ := h
  reordered h _ _ := h
  begun h _ _ _ _ := h
  elsewhere h _ _ port _ _ _ := by rw [State.linkLaw, port]; exact h
  engine h _ _ := h
  overtaken h _ _ _ := by rw [State.linkLaw, State.markOvertaken_port]; exact h
  passed h _ _ _ := h
  freed h := ⟨h.1, h.2.1, h.2.2.1, nofun⟩
  discarded h := h.discarded
  issued h := h.issued
  timedOut h _ := h.timedOut
  returned h := h.returned
  cleared _ := ⟨Nat.zero_le _, List.nodup_nil, fun _ => Nat.zero_lt_succ _, fun _ _ => ⟨rfl, List.not_mem_nil⟩⟩
  aged h := h.aged
  kept h _ := h
  popped h _ _ _ := h
  holds h _ _ := h
  decayed h := h
  pruned h _ := h
  erased h _ := h
  startOver _ _ := ⟨Nat.zero_le _, List.nodup_nil, fun _ => Nat.zero_lt_succ _, nofun⟩

/-- The engine's law beside its counts: only a line in flight is being written (R37, R47). -/
def Engine.Flies (e : Engine) : Prop := ∀ work ∈ e.work?, work.phase ≠ .reading → work.inFlight = true

theorem State.workLaw_iff {s : State} : s.workLaw ↔ s.migration.engine.Counted ∧ s.migration.engine.Flies := by
  constructor
  · intro h
    refine ⟨fun work hw => ?_, fun work hw => (h work hw).2.2.2.2.2.1⟩
    obtain ⟨least, most, overtakes, held, unheld, -, holding⟩ := h work hw
    exact ⟨least, most, overtakes, held, unheld, holding⟩
  · rintro ⟨counted, flies⟩ work hw
    obtain ⟨least, most, overtakes, held, unheld, holding⟩ := counted work hw
    exact ⟨least, most, overtakes, held, unheld, flies work hw, holding⟩

/-- A line in flight that a store overtakes is not held, for a held line in flight keeps stores away (R47, R48, R100). -/
theorem State.markOvertaken_counted {s : State} (h : s.migration.engine.Counted) {block line : Nat}
    (free : s.lineHeld block line = false) : (s.markOvertaken block line).migration.engine.Counted := by
  unfold State.markOvertaken
  split
  · rename_i work hw
    split
    · rename_i entry
      split
      · rename_i hit
        obtain ⟨flying, rfl, rfl⟩ := hit
        obtain ⟨least, most, overtakes, held, unheld, holding, holds⟩ := h work (by rw [hw]; rfl)
        have loose : work.holding = false := by simpa [State.lineHeld, hw, entry] using free
        rintro v ⟨⟩
        exact ⟨least, most, overtakes, held, fun _ => ⟨flying, (holding flying).symm.trans loose⟩, holding, holds⟩
      · exact h
    all_goals exact h
  all_goals exact h

/-- Every change of a step keeps the engine's counts. -/
theorem Engine.counted_stepStable : StepStable fun s => s.migration.engine.Counted where
  record h _ := h
  queued h _ _ := h
  joined h _ _ _ _ := h
  waits h _ _ := h
  counted h _ _ _ _ _ _ _ _ := h
  untracked h := h
  offered h _ := h
  withdrawn h _ _ _ _ _ := h
  reordered h _ _ := h
  begun _ _ _ engine fresh := by
    rcases fresh with rfl | ⟨target, rfl⟩
    · simp [Engine.Counted, Engine.work?]
    · exact .attemptAt (Nat.zero_le 4) target
  elsewhere h _ migration _ _ _ _ := by rw [migration]; exact h
  engine h _ keeps := keeps h
  overtaken h _ _ free := State.markOvertaken_counted h free
  passed h _ _ _ := h
  freed h := h
  discarded h _ := by simpa using h
  issued h _ _ _ _ _ _ _ := by simpa using h
  timedOut {s} h a _ := by
    unfold State.timedOut
    dsimp only
    split <;> exact h
  returned h _ := h
  cleared h := h
  aged h := h
  kept h _ := h
  popped h _ _ _ := h
  holds h _ _ := h
  decayed h := h
  pruned h _ := h
  erased h _ := h
  startOver _ _ := .idle

theorem RecordUnit.take_fits {u : RecordUnit} (h : u.queue.length ≤ 16 ∧ u.dropped ≤ 65535) (b : RecordBody) :
    (u.take b).queue.length ≤ 16 ∧ (u.take b).dropped ≤ 65535 := by
  unfold RecordUnit.take
  split
  · rename_i room
    exact ⟨by simpa using room, h.2⟩
  · exact ⟨h.1, Nat.min_le_right _ _⟩

/-- The keys by which no two write-backs may agree (R118). -/
def WriteBack.place (e : WriteBack) : Nat × Nat × Nat := (e.block, e.line, e.word)

/-- At most 4 write-backs for distinct words, and a dropped count that saturates (R118). -/
def WriteBackBuffer.Fits (b : WriteBackBuffer) : Prop :=
  b.entries.length ≤ 4 ∧ (b.entries.map WriteBack.place).Nodup ∧ b.dropped ≤ 65535

theorem WriteBackBuffer.Fits.offer {b : WriteBackBuffer} (h : b.Fits) (e : WriteBack) : (b.offer e).Fits := by
  obtain ⟨few, distinct, dropped⟩ := h
  unfold WriteBackBuffer.offer
  split
  · exact ⟨few, distinct, dropped⟩
  · rename_i new
    split
    · rename_i room
      refine ⟨by simpa using room, ?_, dropped⟩
      rw [List.map_append, List.map_singleton]
      refine List.nodup_append.mpr ⟨distinct, List.nodup_singleton _, fun p hp q hq same => new ?_⟩
      obtain ⟨x, hx, rfl⟩ := List.mem_map.mp hp
      obtain rfl := List.mem_singleton.mp hq
      simp only [WriteBack.place, Prod.mk.injEq] at same
      exact List.any_eq_true.mpr ⟨x, hx, by simp [same]⟩
    · exact ⟨few, distinct, Nat.min_le_right _ _⟩

theorem WriteBackBuffer.Fits.filter {b : WriteBackBuffer} (h : b.Fits) (f : WriteBack → Bool) :
    WriteBackBuffer.Fits { b with entries := b.entries.filter f } :=
  ⟨(List.length_filter_le _ _).trans h.1, (List.filter_sublist.map _).nodup h.2.1, h.2.2⟩

/-- Each watch entry's count and word list in range (R61). -/
def WatchTable.CountsFit (w : WatchTable) : Prop :=
  ∀ i e, w.entryIn i = some e → e.corrected ≤ 255 ∧ e.offsets.length ≤ 4

theorem WatchTable.CountsFit.setSlot {w : WatchTable} (h : w.CountsFit) (slot : Nat) {e : Option WatchEntry}
    (fits : ∀ f ∈ e, f.corrected ≤ 255 ∧ f.offsets.length ≤ 4) : (w.setSlot slot e).CountsFit := by
  intro i f hf
  rw [WatchTable.entryIn_setSlot] at hf
  split at hf
  · exact fits f hf
  · exact h i f hf

theorem WatchTable.CountsFit.modify {w : WatchTable} (h : w.CountsFit) (l : Location) {f : WatchEntry → WatchEntry}
    (keeps : ∀ e, e.corrected ≤ 255 ∧ e.offsets.length ≤ 4 → (f e).corrected ≤ 255 ∧ (f e).offsets.length ≤ 4) :
    (w.modify l f).CountsFit := by
  intro i e he
  rcases WatchTable.entryIn_modify he with ⟨old, there, -, rfl⟩ | ⟨there, -⟩
  · exact keeps old (h i old there)
  · exact h i e there

theorem WatchTable.CountsFit.withdraws {w left : WatchTable} (h : w.CountsFit) {l : Location} (gone : w.Withdraws l left) :
    left.CountsFit := by
  rcases gone with rfl | ⟨f, hf, rfl⟩
  · exact fun i e he => h i e (WatchTable.entryIn_remove he).1
  · rcases List.mem_pair.mp hf with rfl | rfl
    · exact h.modify l fun _ fits => fits
    · exact h.modify l fun _ _ => ⟨Nat.zero_le _, Nat.zero_le _⟩

theorem WatchTable.CountsFit.counted {w table : WatchTable} (h : w.CountsFit) {l : Location} {slot : Nat} {before : WatchEntry}
    (found : w.ensure l = some (slot, table)) (there : table.entryIn slot = some before) (offset : Nat) (bad : Bool) :
    (table.setSlot slot (some (before.count offset bad))).CountsFit := by
  have made : table.CountsFit := by
    rcases WatchTable.ensure_cases found with ⟨rfl, -⟩ | ⟨rfl, -⟩
    · exact h
    · exact h.setSlot slot fun f hf => by
        obtain rfl := Option.some.inj hf
        exact ⟨Nat.zero_le _, Nat.zero_le _⟩
  obtain ⟨-, -, corrected, few, -⟩ := before.count_fits offset bad
  refine made.setSlot slot fun f hf => ?_
  obtain rfl := Option.some.inj hf
  exact ⟨corrected (made slot before there).1, few (made slot before there).2⟩

theorem WatchTable.modify_untracked (w : WatchTable) (l : Location) (f : WatchEntry → WatchEntry) :
    (w.modify l f).untracked = w.untracked := by
  unfold WatchTable.modify
  split <;> rfl

theorem WatchTable.Withdraws.untracked {w left : WatchTable} {l : Location} (h : w.Withdraws l left) :
    left.untracked = w.untracked := by
  rcases h with rfl | ⟨f, -, rfl⟩
  · unfold WatchTable.remove
    split <;> rfl
  · exact w.modify_untracked l f

theorem WatchTable.ensure_untracked {w table : WatchTable} {l : Location} {slot : Nat} (h : w.ensure l = some (slot, table)) :
    table.untracked = w.untracked := by
  rcases WatchTable.ensure_cases h with ⟨rfl, -⟩ | ⟨rfl, -⟩ <;> rfl

/-- The bounds of the manual, the link's and the engine's aside. -/
structure State.Bounded (s : State) : Prop where
  records : s.recordLaw
  writeBack : s.writeBack.Fits
  queue : s.queueLaw
  passes : s.passOverLaw
  held : s.upstream.held.length ≤ 4
  untracked : s.watch.untracked ≤ 65535
  counts : s.watch.CountsFit

namespace State.Bounded
variable {s : State}

theorem of_laws (records : s.recordLaw) (writeBack : s.writeBackLaw) (queue : s.queueLaw) (passes : s.passOverLaw)
    (counts : s.countLaw) : s.Bounded := by
  obtain ⟨held, untracked, entries, -⟩ := counts
  exact ⟨records, writeBack, queue, passes, held, untracked, fun i e there => entries e (WatchTable.mem_entries.mpr ⟨i, there⟩)⟩

theorem countLaw (h : s.Bounded) (engine : s.migration.engine.Counted) : s.countLaw := by
  refine ⟨h.held, h.untracked, fun e he => ?_, fun w hw => ?_⟩
  · obtain ⟨i, there⟩ := WatchTable.mem_entries.mp he
    exact h.counts i e there
  · obtain ⟨least, most, overtakes, -⟩ := engine w hw
    exact ⟨least, most, overtakes⟩

theorem rewatch (h : s.Bounded) {w : WatchTable} (untracked : w.untracked = s.watch.untracked) (counts : w.CountsFit) :
    State.Bounded { s with watch := w } := { h with untracked := untracked ▸ h.untracked, counts := counts }

theorem queued (h : s.Bounded) (l : Location) : (s.queueEntry l).Bounded :=
  h.rewatch (WatchTable.modify_untracked _ _ _) (h.counts.modify l fun _ fits => fits)

theorem joined (h : s.Bounded) {l : Location} (unnamed : s.hasRequest l = false) (room : s.migration.queue.length < 8)
    (origin : RequestOrigin) : ((s.queueEntry l).joinQueue l origin).Bounded := by
  have absent := State.hasRequest_eq_false.mp unnamed
  refine { h.queued l with queue := ⟨?_, ?_⟩ }
  · show (s.migration.queue ++ [_]).length ≤ 8
    simpa using room
  · exact nodup_join h.queue.2 absent

theorem withdrawn (h : s.Bounded) {l : Location} {left : List Request} {w : WatchTable}
    (others : LeavesOthers s.migration.queue left l) (gone : s.watch.Withdraws l w) :
    State.Bounded { s with migration := { s.migration with queue := left }, watch := w } :=
  { h with
    queue := ⟨others.1.length_le.trans h.queue.1, (others.1.map _).nodup h.queue.2⟩
    untracked := gone.untracked ▸ h.untracked
    counts := h.counts.withdraws gone }

theorem reordered (h : s.Bounded) {queue : List Request}
    (same : (queue.map (·.location)).Perm (s.migration.queue.map (·.location))) : (s.setQueue queue).Bounded := by
  have length := same.length_eq
  simp only [List.length_map] at length
  exact { h with queue := ⟨(length ▸ h.queue.1 : queue.length ≤ 8), same.nodup_iff.mpr h.queue.2⟩ }

theorem issued (h : s.Bounded) (p : Purpose) (block line first count : Nat) (words : List StoredWord) :
    (s.issue p block line first count words).Bounded := by
  unfold State.issue
  dsimp only
  split
  · exact { h with writeBack := h.writeBack.filter _ }
  · exact { h with }

theorem timedOut (h : s.Bounded) (a : Access) : (s.timedOut a).Bounded := by
  have records := RecordUnit.take_fits h.records (linkRecord s.settings .linkTimeout a)
  unfold State.timedOut
  dsimp only
  split
  · exact { h with records := RecordUnit.take_fits records _, passes := ⟨Nat.zero_le _, Nat.zero_le _⟩ }
  · exact { h with records := records }

theorem decayed (h : s.Bounded) : State.Bounded { s with watch := s.watch.decay } := by
  refine h.rewatch rfl fun i e he => ?_
  obtain ⟨old, there, rfl | ⟨-, rfl⟩⟩ := WatchTable.entryIn_decay he
  · exact h.counts i _ there
  · exact ⟨(Nat.div_le_self _ _).trans (h.counts i old there).1, (h.counts i old there).2⟩

theorem pruned (h : s.Bounded) (c : Settings) :
    State.Bounded { s with
      migration := { s.migration with queue := s.migration.queue.filter fun r => locationExists c r.location }
      watch := s.watch.prune c } :=
  { h with
    queue := ⟨(List.length_filter_le _ _).trans h.queue.1, (List.filter_sublist.map _).nodup h.queue.2⟩
    counts := fun i e he => by
      rw [WatchTable.entryIn_prune] at he
      exact h.counts i e (Option.filter_eq_some_iff.mp he).1 }

theorem startOver (s : State) (straps : BitVec 2) : (s.startOver straps).Bounded where
  records := ⟨Nat.zero_le _, Nat.zero_le _⟩
  writeBack := ⟨Nat.zero_le _, List.nodup_nil, Nat.zero_le _⟩
  queue := ⟨Nat.zero_le _, List.nodup_nil⟩
  passes := ⟨Nat.zero_le _, Nat.zero_le _⟩
  held := Nat.zero_le _
  untracked := Nat.zero_le _
  counts i e he := by
    have vacant : (s.startOver straps).watch.entryIn i = none := by
      unfold WatchTable.entryIn
      by_cases hi : i < 32 <;> simp [State.startOver, State.poweredOn, hi]
    simp [vacant] at he

/-- Every change of a step keeps the bounds. -/
theorem stepStable : StepStable State.Bounded where
  record h b := { h with records := RecordUnit.take_fits h.records b }
  queued h _ _ := h.queued _
  joined h _ := h.joined
  waits h _ _ := h.rewatch (WatchTable.modify_untracked _ _ _) (h.counts.modify _ fun _ fits => fits)
  counted h _ _ table _ found there offset bad :=
    h.rewatch ((WatchTable.ensure_untracked found : table.untracked = _)) (h.counts.counted found there offset bad)
  untracked h := { h with untracked := Nat.min_le_right _ _ }
  offered h e := { h with writeBack := h.writeBack.offer e }
  withdrawn h _ _ _ := h.withdrawn
  reordered h _ := h.reordered
  begun h _ _ _ _ := { h with }
  elsewhere h watch migration port writeBack records held :=
    { records := by rw [State.recordLaw, records.1, records.2]; exact h.records
      writeBack := writeBack ▸ h.writeBack
      queue := by rw [State.queueLaw, migration]; exact h.queue
      passes := by rw [State.passOverLaw, port]; exact h.passes
      held := held ▸ h.held
      untracked := watch ▸ h.untracked
      counts := watch ▸ h.counts }
  engine h _ _ := { h with }
  overtaken h _ _ _ := by
    unfold State.markOvertaken
    (repeat' split) <;> exact { h with }
  passed h _ _ keeps := { h with passes := keeps h.passes }
  freed h := { h with }
  discarded h _ := by rw [State.discardOutstanding_eq]; exact { h with }
  issued h _ := h.issued
  timedOut h a _ := h.timedOut a
  returned h _ := { h with }
  cleared h := { h with }
  aged h := { h with }
  kept h f := { h with writeBack := h.writeBack.filter f }
  popped h r rest hq := by
    have few := h.records.1
    rw [hq, List.length_cons] at few
    exact { h with records := ⟨Nat.le_of_succ_le few, h.records.2⟩ }
  holds h _ few := { h with held := few h.held }
  decayed h := h.decayed
  pruned h := h.pruned
  erased h slot := h.rewatch rfl (h.counts.setSlot slot nofun)
  startOver := startOver

end State.Bounded

/-- Settles O54: each change a step is made of keeps the bounds, the link's and the engine's among them. -/
theorem boundsInvariant : Obligations.BoundsInvariant := by
  intro s t records writeBack queue link passes counts work e
  have bounded := State.Bounded.stepStable.step (.of_laws records writeBack queue passes counts) e
  have engine := Engine.counted_stepStable.step (State.workLaw_iff.mp work).1 e
  exact ⟨bounded.records, bounded.writeBack, bounded.queue, State.linkLaw_stepStable.step link e, bounded.passes,
    bounded.countLaw engine⟩

end Sys2Proof.Machine

namespace Sys2Proof.Machine

/-! ## The try (O58) -/

/-- Tries with fuel for every request and every WAITING entry end for want of a condition (R38). -/
theorem State.tryLoop_settled {n : Nat} {s : State} (h : s.watch.distinct) (enough : s.toTry ≤ n) :
    (State.tryLoop n s).mayTry = false := by
  induction n generalizing s with
  | zero =>
    rw [State.toTry] at enough
    have empty : s.migration.queue.length = 0 := by omega
    exact State.mayTry_of_empty (List.eq_nil_of_length_eq_zero empty)
  | succ n ih =>
    unfold State.tryLoop
    split
    · split
      · rename_i hq
        exact State.mayTry_of_empty hq
      · rename_i r rest hq
        split
        · split
          · simp [State.mayTry, State.block]
          · exact State.mayTry_of_copying rfl
        · obtain ⟨still, less⟩ := State.dropStale_toTry h hq
          exact ih still (by omega)
    · rename_i may_not
      exact Bool.eq_false_iff.mpr may_not

/-- The table and the queue in step, and no try due: what every step leaves. -/
structure State.Rested (s : State) : Prop where
  tied : s.Tied
  settled : s.mayTry = false

theorem State.Tied.tryStart {s : State} (h : s.Tied) : s.tryStart.Rested := by
  refine ⟨State.Tied.stepStable.tryStart h, State.tryLoop_settled h.distinct ?_⟩
  have few := s.watch.card_waitingSlots_le
  rw [State.toTry]
  omega

theorem State.Tied.settle {s : State} (h : s.Tied) : s.settle.Rested := (State.Tied.stepStable.unissued h).tryStart

/-- A try is made in ONLINE only. -/
theorem State.mayTry_of_mode {s : State} (h : s.mode ≠ .online) : s.mayTry = false :=
  Bool.eq_false_iff.mpr fun may => h (State.mayTry_iff.mp may).1

namespace State.Rested
variable {s t : State} (h : s.Rested)
include h

/-- A change after which no more of the conditions of R38 hold than before. -/
theorem of_fewer (tied : t.Tied) (mode : t.mode = s.mode) (link : t.port.link = s.port.link)
    (queue : t.migration.queue = s.migration.queue) (engine : t.migration.engine = .idle → s.migration.engine = .idle)
    (dual : s.dualPending = true → t.dualPending = true) : t.Rested := by
  refine ⟨tied, Bool.eq_false_iff.mpr fun may => ?_⟩
  obtain ⟨online, idle, some_head, up, single⟩ := State.mayTry_iff.mp may
  refine Bool.eq_false_iff.mp h.settled (State.mayTry_iff.mpr ⟨mode ▸ online, engine idle, queue ▸ some_head, link ▸ up, ?_⟩)
  exact Bool.eq_false_iff.mpr fun pending => Bool.eq_false_iff.mp single (dual pending)

/-- A change of none of the conditions of R38. -/
theorem of_same (mode : t.mode = s.mode) (migration : t.migration = s.migration) (watch : t.watch = s.watch)
    (progress : t.upstream.progress = s.upstream.progress) (link : t.port.link = s.port.link) : t.Rested :=
  h.of_fewer (h.tied.of_same watch (by rw [migration])) mode link (by rw [migration]) (by rw [migration]; exact id)
    (by simp [State.dualPending, progress])

theorem respond (status : Status) (payload : List Byte) : (s.respond status payload).Rested := h.of_same rfl rfl rfl rfl rfl

theorem answerStatus (status : Status) : (s.answerStatus status).Rested := h.of_same rfl rfl rfl rfl rfl

theorem onBus (acknowledged : Bool) (returned : List Byte) : (s.onBus acknowledged returned).Rested := h.of_same rfl rfl rfl rfl rfl

end State.Rested

/-! ### The grant, requester by requester -/

/-- The grant to a requester, its pass-over counts aside (R108). -/
def State.grantTo (s : State) (r : Requester) : State :=
  match r with
  | .upstream => s.grantUpstream
  | .writeBack => s.grantWriteBack
  | .migration => s.grantMigration
  | .scrub => s.grantScrub

theorem State.grant_of_choice {s : State} {busy : List Requester} {r : Requester} (free : s.port.outstanding = none)
    (choice : s.choose busy = some r) : s.grant busy = (s.countPassOver busy r).grantTo r := by
  simp only [State.grant, free, choice]
  cases r <;> rfl

/-- A grant is made to the requester chosen, while no access is outstanding; else there is none (R108). -/
theorem State.grant_cases (s : State) (busy : List Requester) : s.grant busy = s
    ∨ ∃ r, s.port.outstanding = none ∧ s.choose busy = some r ∧ s.grant busy = (s.countPassOver busy r).grantTo r := by
  cases free : s.port.outstanding with
  | some a => simp [State.grant, free]
  | none =>
    cases choice : s.choose busy with
    | none => simp [State.grant, free, choice]
    | some r => exact .inr ⟨r, rfl, rfl, State.grant_of_choice free choice⟩

/-- The engine asks for a copy access only while it is COPYING (R116). -/
theorem State.copying_of_waiting {s : State} (asks : s.waiting .migration = true) : ∃ work, s.migration.engine = .copying work := by
  cases hw : s.migration.engine with
  | copying work => exact ⟨work, rfl⟩
  | idle | blocked => simp [State.waiting, hw] at asks

/-- The grant to the engine leaves it COPYING. -/
theorem State.grantMigration_copying {s : State} {work : CopyWork} (hw : s.migration.engine = .copying work) :
    ∃ v, s.grantMigration.migration.engine = .copying v := by
  unfold State.grantMigration State.grantCopy
  rw [hw]
  dsimp only
  split
  · split
    · exact ⟨_, by rw [State.issue_migration]⟩
    · exact ⟨work, by rw [State.issue_migration, hw]⟩
  all_goals exact ⟨work, hw⟩

theorem State.markOvertaken_queue (s : State) (block line : Nat) :
    (s.markOvertaken block line).migration.queue = s.migration.queue := by
  unfold State.markOvertaken
  (repeat' split) <;> rfl

/-- A grant to the upstream port leaves the requests, and a spare write pending if one was (R22). -/
theorem State.grantUpstream_requests (s : State) :
    s.grantUpstream.migration.queue = s.migration.queue ∧ (s.dualPending = true → s.grantUpstream.dualPending = true) := by
  have issued : ∀ p block line first count words, (s.issue p block line first count words).migration.queue = s.migration.queue
      ∧ (s.dualPending = true → (s.issue p block line first count words).dualPending = true) :=
    fun _ _ _ _ _ _ => by simp [State.dualPending]
  unfold State.grantUpstream
  split
  · exact issued _ _ _ _ _ _
  · split
    · exact issued _ _ _ _ _ _
    · exact ⟨rfl, id⟩
  · rename_i work t hp _
    split
    · rename_i hd
      have single : s.dualPending = false := by rw [State.dualPending_of_store hp, hd]; rfl
      refine ⟨?_, fun pending => by simp [single] at pending⟩
      unfold State.grantRun
      dsimp only
      split <;> simp [State.markOvertaken_queue]
    · exact issued _ _ _ _ _ _
    · exact ⟨rfl, id⟩
  · exact ⟨rfl, id⟩

/-- A grant changes the tag last given and the access outstanding, and nothing else of the port. -/
theorem State.grantTo_port (s : State) (r : Requester) :
    ∃ tag access, (s.grantTo r).port = { s.port with lastTag := tag, outstanding := access } := by
  have issued : ∀ (t : State), t.port = s.port → ∀ p block line first count words, ∃ tag access,
      (t.issue p block line first count words).port = { s.port with lastTag := tag, outstanding := access } :=
    fun t same p block line first count words => ⟨_, _, by rw [State.issue_port, same]⟩
  have none_made : ∃ tag access, s.port = { s.port with lastTag := tag, outstanding := access } := ⟨_, _, rfl⟩
  cases r with
  | upstream =>
    dsimp only [State.grantTo]
    unfold State.grantUpstream
    split
    · exact issued s rfl _ _ _ _ _ _
    · split
      · exact issued s rfl _ _ _ _ _ _
      · exact none_made
    · split
      · unfold State.grantRun
        dsimp only
        split <;> exact issued _ (by simp) _ _ _ _ _ _
      · exact issued s rfl _ _ _ _ _ _
      · exact none_made
    · exact none_made
  | writeBack =>
    dsimp only [State.grantTo]
    unfold State.grantWriteBack
    split
    · exact none_made
    · exact issued s rfl _ _ _ _ _ _
  | migration =>
    dsimp only [State.grantTo]
    unfold State.grantMigration State.grantCopy
    split
    · split
      · split
        · refine issued { s with migration := { s.migration with engine := .copying _ } } ?_ _ _ _ _ _ _
          rfl
        · exact issued s rfl _ _ _ _ _ _
      all_goals exact none_made
    all_goals exact none_made
  | scrub => exact issued { s with scrubber := { s.scrubber with state := .pending } } rfl _ _ _ _ _ _

namespace State.Rested
variable {s t : State} (h : s.Rested)
include h

theorem issue {p : Purpose} {block line first count : Nat} {words : List StoredWord}
    (tied : (s.issue p block line first count words).Tied) : (s.issue p block line first count words).Rested :=
  h.of_fewer tied (by simp) (by simp [State.issue_port]) (by simp) (by simp) (by simp [State.dualPending])

theorem countPassOver (busy : List Requester) (r : Requester) : (s.countPassOver busy r).Rested := h.of_same rfl rfl rfl rfl rfl

theorem grant (busy : List Requester) : (s.grant busy).Rested := by
  have tied := State.Tied.stepStable.grant h.tied busy
  rcases s.grant_cases busy with none_made | ⟨r, -, choice, made⟩
  · rw [none_made]
    exact h
  · have counted := h.countPassOver busy r
    rw [made] at tied ⊢
    cases r with
    | upstream =>
      obtain ⟨queue, pending⟩ := (s.countPassOver busy .upstream).grantUpstream_requests
      have keeps := (s.countPassOver busy .upstream).grantUpstream_keepsTable
      obtain ⟨tag, access, port⟩ := (s.countPassOver busy .upstream).grantTo_port .upstream
      refine counted.of_fewer tied keeps.mode (by rw [port]) queue (fun idle => ?_) pending
      rw [← Engine.bare_eq_idle] at idle ⊢
      exact keeps.engine.symm.trans idle
    | writeBack =>
      dsimp only [State.grantTo, State.grantWriteBack] at tied ⊢
      split at tied
      · exact counted
      · rename_i e he
        exact counted.issue tied
    | migration =>
      obtain ⟨work, hw⟩ := State.copying_of_waiting (State.choose_some choice).2
      obtain ⟨w, copying⟩ := State.grantMigration_copying (s := s.countPassOver busy .migration) hw
      exact ⟨tied, State.mayTry_of_copying copying⟩
    | scrub =>
      dsimp only [State.grantTo, State.grantScrub] at tied ⊢
      refine State.Rested.issue ?_ tied
      exact counted.of_same rfl rfl rfl rfl rfl

/-! ### Responses, expiries and the acceptance queue -/

theorem takeResponse (tag : Tag) (result : MemResult) (words : List StoredWord) (first : Bool) :
    (s.takeResponse tag result words first).Rested := by
  have stray : (s.strayResponse tag).Rested := by
    unfold State.strayResponse
    split <;> exact h.of_same rfl rfl rfl rfl rfl
  unfold State.takeResponse
  split
  · rename_i a _
    split
    · unfold State.answerAccess
      cases result with
      | ok => exact (State.Tied.stepStable.ended h.tied .ok a words first).settle
      | fault => exact (State.Tied.stepStable.ended h.tied .fault a words first).settle
    · exact stray
  · exact stray

theorem expireResponse (first : Bool) : (s.expireResponse first).Rested := by
  cases ho : s.port.outstanding with
  | none => simpa [State.expireResponse, ho] using h
  | some a =>
    rw [State.expireResponse_of_some ho]
    exact (State.Tied.stepStable.expired h.tied ho first).settle

theorem checkResponseTimer : s.checkResponseTimer.Rested := by
  unfold State.checkResponseTimer
  split
  · split
    · exact h.expireResponse false
    · exact h
  · exact h

theorem checkIntervalTimer : s.checkIntervalTimer.Rested := h.of_same (by simp) (by simp) (by simp) (by simp) (by simp)

theorem tick : s.tick.Rested := by
  have aged : s.passMicrosecond.Rested := h.of_same rfl rfl rfl rfl rfl
  exact aged.checkResponseTimer.checkIntervalTimer

theorem accept (t : Transaction) (room : s.upstream.held.length < 4) : (s.accept t).Rested := by
  unfold State.accept
  dsimp only
  split
  · exact (State.Tied.stepStable.beginHead (State.Tied.stepStable.joinsHeld h.tied t room)).settle
  · exact h.of_same rfl rfl rfl rfl rfl

/-! ### The modes and the items -/

theorem goOnline : s.goOnline.Rested := by
  unfold State.goOnline
  split
  · split
    · exact (State.Tied.stepStable.followTimer (State.Tied.stepStable.modeSet h.tied .online)).tryStart.answerStatus _
    · exact h.answerStatus _
  all_goals exact h.answerStatus _

theorem goOffline : s.goOffline.Rested := by
  unfold State.goOffline
  split
  · refine ⟨?_, State.mayTry_of_mode ?_⟩
    · have taken := State.Tied.stepStable.goOffline h.tied
      rename_i online
      rwa [State.goOffline, online] at taken
    · simp only [State.answerStatus_mode, State.leaveOnline, State.endStopping]
      split <;> simp
  all_goals exact h.answerStatus _

theorem clearLink : s.clearLink.Rested :=
  (State.Tied.stepStable.followTimer (State.Tied.stepStable.cleared h.tied)).tryStart

theorem offerAll (n : Nat) : (State.offerAll n s).Rested := by
  induction n generalizing s with
  | zero => exact h
  | succ n ih =>
    unfold State.offerAll
    split
    · exact ih (State.Tied.stepStable.offerWaiting h.tied).tryStart
    · exact h

theorem ranged {low high value : Nat} {effect : State → State} (keeps : (effect s).Rested) :
    (s.ranged low high value effect).Rested :=
  State.ranged_of (P := State.Rested) (h.answerStatus _) fun _ _ => keeps

/-- An item written in OFFLINE alone. -/
theorem offlineOnly {effect : State → State} (tied : (s.offlineOnly effect).Tied) (mode : (effect s).mode = s.mode) :
    (s.offlineOnly effect).Rested := by
  unfold State.offlineOnly at tied ⊢
  split
  · rename_i offline
    rw [if_pos offline] at tied
    exact ⟨tied, State.mayTry_of_mode (by simp [mode, offline])⟩
  · exact h.answerStatus _

theorem writeVisible (value : Nat) : (s.writeVisible value).Rested := by
  refine h.offlineOnly (State.Tied.stepStable.writeVisible h.tied value) ?_
  unfold State.ranged
  dsimp only
  split <;> [split; skip] <;> simp

theorem writeSpares (value : Nat) : (s.writeSpares value).Rested := by
  refine h.offlineOnly (State.Tied.stepStable.writeSpares h.tied value) ?_
  unfold State.ranged
  dsimp only
  split <;> [split; skip] <;> simp

theorem withdrawScrub : s.withdrawScrub.Rested := by
  rw [State.withdrawScrub_eq]
  exact h.of_same rfl rfl rfl rfl rfl

theorem settingsSet (c : Settings) : Rested { s with settings := c } := h.of_same rfl rfl rfl rfl rfl

theorem writeAutoSpare (value : Nat) : (s.writeAutoSpare value).Rested := by
  refine h.ranged (answerStatus ?_ _)
  split
  · exact (h.settingsSet _).offerAll _
  · exact h.settingsSet _

theorem writeScrubEnable (value : Nat) : (s.writeScrubEnable value).Rested := by
  have same {u : State} (hu : u.Rested) : u.followTimer.Rested := hu.of_same rfl rfl rfl rfl rfl
  refine h.ranged (answerStatus (same ?_) _)
  split
  · exact h.settingsSet _
  · exact (h.settingsSet _).withdrawScrub

theorem writeItem (item : Byte) (value : Nat) : (s.writeItem item value).Rested := by
  have plain : ∀ {low high : Nat} (c : Settings → Settings),
      (s.ranged low high value fun u => State.answerStatus { u with settings := c u.settings } .ok).Rested :=
    fun c => h.ranged ((h.settingsSet (c s.settings)).answerStatus _)
  unfold State.writeItem
  split
  · exact h.writeVisible value
  · unfold State.writeDownstream State.offlineOnly
    split
    · exact plain fun c => { c with downstream := value }
    · exact h.answerStatus _
  · exact h.writeSpares value
  · exact plain fun c => { c with correctedLimit := value }
  · exact plain fun c => { c with wordLimit := value }
  · exact h.writeAutoSpare value
  · exact plain fun c => { c with repairOnRead := value == 1 }
  · exact h.writeScrubEnable value
  · exact h.ranged ((h.settingsSet _).checkIntervalTimer.answerStatus _)
  · exact h.ranged ((h.settingsSet _).checkResponseTimer.answerStatus _)
  · exact plain fun c => { c with recordCorrected := value == 1 }
  · exact plain fun c => { c with alertEnables := flagsOfNat value }
  · exact plain fun c => { c with alertDepth := value }
  · exact plain fun c => { c with spareLowMark := value }
  · exact h.answerStatus _

/-! ### The repair commands and the queue's -/

theorem restoreRemap (i : Nat) (state : Option RestoreState) (source : Nat) : (s.restoreRemap i state source).Rested := by
  unfold State.restoreRemap
  (repeat' split) <;> exact h.of_same rfl rfl rfl rfl rfl

theorem dropRemap (i : Nat) : (s.dropRemap i).Rested := by
  unfold State.dropRemap
  (repeat' split) <;> exact h.of_same rfl rfl rfl rfl rfl

theorem unblock : s.unblock.Rested := by
  unfold State.unblock
  split
  · exact (State.Tied.stepStable.stopped h.tied).tryStart
  all_goals exact h

theorem releaseSpare (i : Nat) : (s.releaseSpare i).Rested := by
  unfold State.releaseSpare
  split
  · exact h.answerStatus _
  · split
    · exact h.answerStatus _
    · refine answerStatus (unblock ?_) _
      exact h.of_same rfl rfl rfl rfl rfl

theorem requestSpare (l : Location) : (s.requestSpare l).Rested := by
  unfold State.requestSpare
  split
  · exact h.answerStatus _
  · rename_i passes
    exact (State.Tied.stepStable.requested h.tied passes).tryStart.answerStatus _

theorem clearWatch (slot : Nat) : (s.clearWatch slot).Rested := by
  have tied := State.Tied.stepStable.clearWatch h.tied slot
  refine ⟨tied, ?_⟩
  rw [← h.settled]
  unfold State.clearWatch
  (repeat' split) <;> exact State.mayTry_congr rfl rfl rfl rfl

theorem popRecord : s.popRecord.Rested := by
  unfold State.popRecord
  split <;> exact h.of_same rfl rfl rfl rfl rfl

theorem inject (address : Nat) (kind : Option InjectKind) : (s.inject address kind).Rested := by
  unfold State.inject
  (repeat' split) <;> exact h.of_same rfl rfl rfl rfl rfl

end State.Rested

theorem State.Rested.commandStable : CommandStable State.Rested where
  pending h _ := h.of_same rfl rfl rfl rfl rfl
  respond h := h.respond
  onBus h := h.onBus
  tick h := h.tick
  startOver {s} _ straps := ⟨State.Tied.stepStable.startOver s straps, State.mayTry_of_empty rfl⟩
  systemReset h := (State.Tied.stepStable.systemReset h.tied).tryStart
  accept h := h.accept
  leaveQueue h _ _ := (State.Tied.stepStable.left h.tied).settle
  grant h := h.grant []
  takeResponse h := h.takeResponse
  expireResponse h := h.expireResponse
  expireInterval h := h.of_same (by simp) (by simp) (by simp) (by simp) (by simp)
  tryStart h := h.tied.tryStart
  writeItem h := h.writeItem
  goOnline h := h.goOnline
  goOffline h := h.goOffline
  clearLink h := h.clearLink
  restoreRemap h := h.restoreRemap
  dropRemap h := h.dropRemap
  releaseSpare h := h.releaseSpare
  requestSpare h := h.requestSpare
  cancelRequest h l := (State.Tied.stepStable.cancelRequest h.tied l).tryStart
  clearWatch h := h.clearWatch
  popRecord h := h.popRecord
  ackAlert h _ := h.of_same rfl rfl rfl rfl rfl
  inject h := h.inject

/-- Settles O58: with the tables in step, every change that could make a try due is followed by one, and a try leaves none due. -/
theorem settledInvariant : Obligations.SettledInvariant := by
  unfold Obligations.SettledInvariant
  intro s t settled watch queue next
  have rested : s.Rested := ⟨State.tied_iff.mpr ⟨watch, queue⟩, settled⟩
  exact (State.Rested.commandStable.step rested next).settled

end Sys2Proof.Machine

namespace Sys2Proof.Machine

/-! ## Accesses and their requesters (O57) -/

/-- What an access is called for by: the state of its own requester alone. -/
theorem State.calledFor_congr {s t : State} {a : Access}
    (upstream : a.purpose.requester = .upstream → t.upstream.progress = s.upstream.progress)
    (engine : a.purpose.requester = .migration → t.migration.engine = s.migration.engine)
    (scrub : a.purpose.requester = .scrub → (t.scrubber.state = .pending ↔ s.scrubber.state = .pending))
    (entries : a.purpose.requester = .writeBack → t.writeBack.entries.head? = s.writeBack.entries.head?) :
    t.calledFor a = s.calledFor a := by
  unfold State.calledFor
  cases hp : a.purpose <;> simp only [hp, Purpose.requester, reduceCtorEq, forall_const, false_implies] at upstream engine scrub entries
  case fetch | mergeRead | storeSingle | storeFirst | storeSpare => rw [upstream]
  case copyRead | copyWrite => rw [engine]
  case scrubRead => rw [Bool.eq_iff_iff, beq_iff_eq, beq_iff_eq, scrub]
  case writeBack => rw [entries]

theorem State.awaiting_iff {s : State} {r : Requester} :
    s.awaiting r = true ↔ ∃ a ∈ s.port.outstanding, a.discarded = false ∧ a.purpose.requester = r := by
  unfold State.awaiting
  split
  · rename_i a ha
    simp [ha, and_comm]
  · rename_i none_out
    simp [none_out]

theorem State.awaiting_eq_false {s : State} {r : Requester} :
    s.awaiting r = false ↔ ∀ a ∈ s.port.outstanding, a.discarded = false → a.purpose.requester ≠ r := by
  rw [← Bool.not_eq_true, State.awaiting_iff]
  push Not
  rfl

theorem State.awaiting_of_free {s : State} (free : s.port.outstanding = none) (r : Requester) : s.awaiting r = false := by
  simp [State.awaiting, free]

theorem State.awaiting_discardOutstanding (s : State) (r : Requester) : (s.discardOutstanding r).awaiting r = false := by
  rw [State.awaiting_eq_false, State.discardOutstanding_eq]
  intro b hb taken
  obtain ⟨a, -, rfl⟩ := Option.map_eq_some_iff.mp hb
  simpa using (Bool.or_eq_false_iff.mp taken).2

theorem State.awaiting_discardOutstanding_of_ne (s : State) {r x : Requester} (other : x ≠ r) :
    (s.discardOutstanding r).awaiting x = s.awaiting x := by
  rw [State.discardOutstanding_eq]
  unfold State.awaiting
  cases s.port.outstanding with
  | none => rfl
  | some a =>
    by_cases mine : a.purpose.requester = x
    · simp [mine, other]
    · simp [beq_eq_false_iff_ne.mpr mine]

theorem Purpose.requester_eq_scrub {p : Purpose} : p.requester = .scrub ↔ p = .scrubRead := by
  cases p <;> simp [Purpose.requester]

/-- The access whose ending a requester has yet to take: none when its result is discarded (R108). -/
def Access.untaken (a : Access) : Option Access := if a.discarded then none else some a

theorem Access.mem_untaken {a b : Access} : b ∈ a.untaken ↔ a.discarded = false ∧ b = a := by
  unfold Access.untaken
  split
  · rename_i gone
    simp [gone]
  · rename_i due
    simp [due, eq_comm]

/-- The laws of the upstream port, the accesses, the line phase and the scrubber's state, while the ending of `ended` has yet to be
taken: its requester awaits no other access, a scrub so ended is still PENDING, and a copy read's line still in flight. -/
structure State.Traffic (s : State) (ended : Option Access) : Prop where
  few : s.upstream.held.length ≤ 4
  idle : s.upstream.progress = .idle ↔ s.upstream.held = []
  serve : s.upstream.progress.needsAccess = true → ∃ h ∈ s.upstream.held.head?, h.mark = .serve ∧ shapeOk h.transaction = true
  called : s.accessLaw
  flies : s.migration.engine.Flies
  pending : s.scrubber.state = .pending ↔ s.awaiting .scrub = true ∨ ∃ a ∈ ended, a.purpose = .scrubRead
  taken : ∀ a ∈ ended, s.awaiting a.purpose.requester = false
  copied : ∀ a ∈ ended, a.purpose.requester = .migration → s.calledFor a = true

/-- No change of what `State.Traffic` speaks of. -/
structure State.SameTraffic (t s : State) : Prop where
  upstream : t.upstream = s.upstream
  outstanding : t.port.outstanding = s.port.outstanding
  engine : t.migration.engine = s.migration.engine
  entries : t.writeBack.entries = s.writeBack.entries
  scrub : t.scrubber.state = .pending ↔ s.scrubber.state = .pending

theorem Engine.Flies.idle : Engine.idle.Flies := nofun

theorem Engine.Flies.attemptAt (target overtakes : Nat) : (Engine.copying (CopyWork.attemptAt target overtakes)).Flies := by
  rintro work ⟨⟩ writing
  exact absurd rfl writing

namespace State.Traffic
variable {s t : State} {ended : Option Access} (h : s.Traffic ended)
include h

theorem of_same (same : t.SameTraffic s) : t.Traffic ended := by
  obtain ⟨upstream, outstanding, engine, entries, scrub⟩ := same
  have called : ∀ a, t.calledFor a = s.calledFor a := fun a =>
    State.calledFor_congr (fun _ => by rw [upstream]) (fun _ => engine) (fun _ => scrub) (fun _ => by rw [entries])
  have awaiting : ∀ r, t.awaiting r = s.awaiting r := fun r => by rw [State.awaiting, outstanding, State.awaiting]
  exact {
    few := upstream ▸ h.few
    idle := upstream ▸ h.idle
    serve := upstream ▸ h.serve
    called := fun a ha taken => (called a).trans (h.called a (outstanding ▸ ha) taken)
    flies := engine ▸ h.flies
    pending := by rw [scrub, awaiting]; exact h.pending
    taken := fun a ha => (awaiting _).trans (h.taken a ha)
    copied := fun a ha mine => (called a).trans (h.copied a ha mine) }

/-- Only an access that a phase in need of one calls for is awaited upstream. -/
theorem not_awaiting_upstream (no : s.upstream.progress.needsAccess = false) : s.awaiting .upstream = false := by
  refine State.awaiting_eq_false.mpr fun a ha taken mine => ?_
  have called := h.called a ha taken
  unfold State.calledFor at called
  cases hp : s.upstream.progress <;> rw [hp] at no called <;> simp [Progress.needsAccess] at no <;>
    cases hq : a.purpose <;> simp [hq, Purpose.requester, Progress.store?] at mine called

/-- Only a COPYING engine calls for a copy access. -/
theorem not_awaiting_migration (no : s.migration.engine.work? = none) :
    s.awaiting .migration = false ∧ ∀ a ∈ ended, a.purpose.requester ≠ .migration := by
  have uncalled : ∀ a : Access, a.purpose.requester = .migration → s.calledFor a = false := by
    intro a mine
    unfold State.calledFor
    cases hp : a.purpose <;> simp [hp, Purpose.requester, no] at mine ⊢
  refine ⟨State.awaiting_eq_false.mpr fun a ha taken mine => ?_, fun a ha mine => ?_⟩
  · simpa [uncalled a mine] using h.called a ha taken
  · simpa [uncalled a mine] using h.copied a ha mine

/-- Once its ending matters no more, an access but a scrub's is forgotten. -/
theorem forget (plain : ∀ a ∈ ended, a.purpose ≠ .scrubRead) : s.Traffic none := by
  refine { h with pending := h.pending.trans ?_, taken := nofun, copied := nofun }
  constructor
  · rintro (waits | ⟨a, ha, scrub⟩)
    · exact .inl waits
    · exact absurd scrub (plain a ha)
  · rintro (waits | ⟨a, ⟨⟩, -⟩)
    exact .inl waits

/-! ### One field changed -/

theorem setProgress (free : s.awaiting .upstream = false) {p : Progress} (idle : p = .idle ↔ s.upstream.progress = .idle)
    (serve : p.needsAccess = true → s.upstream.progress.needsAccess = true) : (s.setProgress p).Traffic ended where
  few := h.few
  idle := idle.trans h.idle
  serve needs := h.serve (serve needs)
  called a ha taken := by
    rw [← h.called a ha taken]
    exact State.calledFor_congr (fun mine => absurd mine (State.awaiting_eq_false.mp free a ha taken)) (fun _ => rfl) (fun _ => .rfl)
      (fun _ => rfl)
  flies := h.flies
  pending := h.pending
  taken := h.taken
  copied a ha mine := by
    rw [← h.copied a ha mine]
    exact State.calledFor_congr (fun up => by simp [mine] at up) (fun _ => rfl) (fun _ => .rfl) (fun _ => rfl)

theorem setEngine (free : s.awaiting .migration = false) (other : ∀ a ∈ ended, a.purpose.requester ≠ .migration) {e : Engine}
    (flies : e.Flies) : State.Traffic { s with migration := { s.migration with engine := e } } ended where
  few := h.few
  idle := h.idle
  serve := h.serve
  called a ha taken := by
    rw [← h.called a ha taken]
    exact State.calledFor_congr (fun _ => rfl) (fun mine => absurd mine (State.awaiting_eq_false.mp free a ha taken)) (fun _ => .rfl)
      (fun _ => rfl)
  flies := flies
  pending := h.pending
  taken := h.taken
  copied a ha mine := absurd mine (other a ha)

theorem setEntries {b : WriteBackBuffer}
    (head : s.awaiting .writeBack = true → b.entries.head? = s.writeBack.entries.head?) :
    State.Traffic { s with writeBack := b } ended where
  few := h.few
  idle := h.idle
  serve := h.serve
  called a ha taken := by
    rw [← h.called a ha taken]
    exact State.calledFor_congr (fun _ => rfl) (fun _ => rfl) (fun _ => .rfl)
      (fun mine => head (State.awaiting_iff.mpr ⟨a, ha, taken, mine⟩))
  flies := h.flies
  pending := h.pending
  taken := h.taken
  copied a ha mine := by
    rw [← h.copied a ha mine]
    exact State.calledFor_congr (fun _ => rfl) (fun _ => rfl) (fun _ => .rfl) (fun wb => by simp [mine] at wb)

/-- The write-back outstanding is the buffer's head, and an offer leaves the head (R118, R120). -/
theorem offered (e : WriteBack) : State.Traffic { s with writeBack := s.writeBack.offer e } ended := by
  refine h.setEntries fun waits => ?_
  obtain ⟨a, ha, taken, mine⟩ := State.awaiting_iff.mp waits
  have called := h.called a ha taken
  unfold State.calledFor at called
  cases hp : a.purpose <;> simp only [hp, Purpose.requester, reduceCtorEq] at mine called
  unfold WriteBackBuffer.offer
  split
  · rfl
  · split
    · cases hq : s.writeBack.entries with
      | nil => simp [hq] at called
      | cons x rest => rfl
    · rfl

/-- A fate changes neither the phase nor whether a spare write is pending (R23). -/
theorem settleFate (fate : MigrationFate) : (s.settleFate fate).Traffic ended := by
  unfold State.settleFate
  split
  · rename_i work hp
    have called : ∀ a, State.calledFor { s with upstream := { s.upstream with progress := .store { work with
        dual := work.dual.map fun d => if d.fate = .inFlight then { d with fate := fate } else d } } } a = s.calledFor a := by
      intro a
      unfold State.calledFor
      cases a.purpose <;> simp [hp, Progress.store?]
    exact {
      few := h.few
      idle := by simp [← h.idle, hp]
      serve := fun _ => h.serve (by simp [hp, Progress.needsAccess])
      called := fun a ha taken => (called a).trans (h.called a ha taken)
      flies := h.flies
      pending := h.pending
      taken := h.taken
      copied := fun a ha mine => (called a).trans (h.copied a ha mine) }
  all_goals exact h

/-- The result of an access is discarded; a scrub's is not, while it is PENDING. -/
theorem discarded (r : Requester) (calm : r = .scrub → s.scrubber.state ≠ .pending) : (s.discardOutstanding r).Traffic ended := by
  have fewer : ∀ x, s.awaiting x = false → (s.discardOutstanding r).awaiting x = false := by
    intro x free
    rw [State.awaiting_eq_false, State.discardOutstanding_eq]
    rintro b hb taken
    obtain ⟨a, ha, rfl⟩ := Option.map_eq_some_iff.mp hb
    exact State.awaiting_eq_false.mp free a ha (Bool.or_eq_false_iff.mp taken).1
  have called : ∀ a, (s.discardOutstanding r).calledFor a = s.calledFor a := fun a =>
    State.calledFor_congr (fun _ => by simp) (fun _ => by simp) (fun _ => by simp) (fun _ => by simp)
  exact {
    few := by simpa using h.few
    idle := by simpa using h.idle
    serve := by simpa using h.serve
    called := fun b hb taken => by
      rw [called]
      rw [State.discardOutstanding_eq] at hb
      obtain ⟨a, ha, rfl⟩ := Option.map_eq_some_iff.mp hb
      exact h.called a ha (Bool.or_eq_false_iff.mp taken).1
    flies := by simpa using h.flies
    pending := by
      by_cases mine : r = .scrub
      · have quiet : ¬(s.awaiting .scrub = true ∨ ∃ a ∈ ended, a.purpose = .scrubRead) := fun due => calm mine (h.pending.mpr due)
        push Not at quiet
        simp only [State.discardOutstanding_scrubber, calm mine, fewer .scrub (by simpa using quiet.1), false_iff]
        rintro (waits | ⟨a, ha, scrub⟩)
        · simp at waits
        · exact quiet.2 a ha scrub
      · simpa [State.awaiting_discardOutstanding_of_ne s (Ne.symm mine)] using h.pending
    taken := fun a ha => fewer _ (h.taken a ha)
    copied := fun a ha mine => (called a).trans (h.copied a ha mine) }

end State.Traffic

/-- The changes of a candidate, an offer and a try leave the traffic lawful. -/
theorem State.Traffic.tryStable (ended : Option Access) : TryStable fun s => s.Traffic ended where
  record h _ := h.of_same ⟨rfl, rfl, rfl, rfl, .rfl⟩
  queued h _ _ := h.of_same ⟨rfl, rfl, rfl, rfl, .rfl⟩
  joined h _ _ _ _ := h.of_same ⟨rfl, rfl, rfl, rfl, .rfl⟩
  waits h _ _ := h.of_same ⟨rfl, rfl, rfl, rfl, .rfl⟩
  counted h _ _ _ _ _ _ _ _ := h.of_same ⟨rfl, rfl, rfl, rfl, .rfl⟩
  untracked h := h.of_same ⟨rfl, rfl, rfl, rfl, .rfl⟩
  offered h := h.offered
  withdrawn h _ _ _ _ _ := h.of_same ⟨rfl, rfl, rfl, rfl, .rfl⟩
  reordered h _ _ := h.of_same ⟨rfl, rfl, rfl, rfl, .rfl⟩
  begun {s} h still table engine fresh := by
    obtain ⟨free, other⟩ := h.not_awaiting_migration (by rw [still]; rfl)
    have lawful : engine.Flies := by
      rcases fresh with rfl | ⟨target, rfl⟩
      · exact nofun
      · exact .attemptAt target 0
    exact (h.setEngine free other lawful).of_same ⟨rfl, rfl, rfl, rfl, .rfl⟩

namespace State.Traffic
variable {s t : State} {ended : Option Access}

theorem tryStart (h : s.Traffic ended) : s.tryStart.Traffic ended := (tryStable ended).tryStart h

theorem takeWords (h : s.Traffic ended) (use : ReadUse) (word : Nat) (words : List StoredWord) :
    (s.takeWords use word words false).Traffic ended := (tryStable ended).takeWords use words word false h

/-! ### The end of a migration -/

variable (h : s.Traffic none)
include h

theorem completeMigration (free : s.awaiting .migration = false) (work : CopyWork) : (s.completeMigration work).Traffic none := by
  have k := tryStable none
  unfold State.completeMigration
  split
  · exact h
  · have gone := h.setEngine free nofun .idle
    refine k.placeFreed (k.record (settleFate (gone.of_same ?_) _) _)
    exact ⟨rfl, rfl, rfl, rfl, .rfl⟩

theorem abortMigration (cause : AbortCause) : (s.abortMigration cause).Traffic none := by
  have k := tryStable none
  unfold State.abortMigration
  split
  · rename_i work r rest _ hq
    have stopped := (h.discarded .migration nofun).setEngine (s.awaiting_discardOutstanding _) nofun .idle
    have entries : State.Traffic (State.discardOutstanding { s with
        remap := abortEntries s.remap work.target (cause == .targetFailed)
        migration := { s.migration with engine := .idle }
        port := { s.port with migrationPassed := 0 } } .migration) none := by
      refine stopped.of_same ?_
      rw [State.discardOutstanding_eq, State.discardOutstanding_eq]
      exact ⟨rfl, rfl, rfl, rfl, .rfl⟩
    exact k.disposeRequest (k.record (entries.settleFate .aborted) _) cause (by simpa using hq) _
  all_goals exact h

theorem stopEngine (cause : AbortCause) : (s.stopEngine cause).Traffic none := by
  unfold State.stopEngine
  split
  · exact h.abortMigration cause
  · rename_i blocked
    exact h.setEngine (h.not_awaiting_migration (by rw [blocked]; rfl)).1 nofun .idle
  · exact h

/-! ### The upstream port -/

theorem finishRun (free : s.awaiting .upstream = false) {work before : StoreWork} (hp : s.upstream.progress = .store before) :
    (s.finishRun work).Traffic none := by
  unfold State.finishRun
  split <;> exact h.setProgress free (by simp [hp]) (by simp [hp, Progress.needsAccess])

theorem answered (free : s.awaiting .upstream = false) (needs : s.upstream.progress.needsAccess = true) (answer : Answer) :
    (s.setProgress (.answer answer)).Traffic none := by
  refine h.setProgress free ⟨nofun, fun idle => ?_⟩ nofun
  simp [idle, Progress.needsAccess] at needs

theorem endStore (free : s.awaiting .upstream = false) {work : StoreWork} (hp : s.upstream.progress = .store work) (t : Transaction)
    (spare : Bool) (ending : Ending) : (s.endStore t work spare ending).Traffic none := by
  have failed : ∀ w, (s.failRun t w).Traffic none := fun w => h.answered free (by simp [hp, Progress.needsAccess]) _
  have done : ∀ w, (s.finishRun w).Traffic none := fun w => h.finishRun free hp
  unfold State.endStore
  split
  · unfold State.endSpareStore
    split
    · exact done _
    · exact (done _).abortMigration _
    · exact failed _
    · exact done _
  · exact h
  · split
    · exact failed _
    · exact done _
    · exact h

theorem endUpstream (free : s.awaiting .upstream = false) (spare : Bool) (block : Nat) (ending : Ending) :
    (s.endUpstream spare block ending).Traffic none := by
  have needs : ∀ p, s.upstream.progress = p → p.needsAccess = true → s.upstream.progress.needsAccess = true := fun p hp => hp ▸ id
  unfold State.endUpstream
  split
  · rename_i t hp _
    unfold State.endFetch
    split
    · exact h.answered free (needs _ hp rfl) _
    · rename_i words
      refine (h.takeWords _ _ words).answered ?_ (by simpa using needs _ hp rfl) _
      simpa [State.awaiting] using free
  · rename_i address length list hp _
    unfold State.endMergeRead
    split
    · exact h.answered free (needs _ hp rfl) _
    · rename_i words
      refine (h.takeWords _ _ words).setProgress ?_ (by simp [hp]) (by simp [hp, Progress.needsAccess])
      simpa [State.awaiting] using free
  · rename_i work t hp _
    exact h.endStore free hp t spare ending
  · exact h

theorem endWithoutIssue : s.endWithoutIssue.Traffic none := by
  unfold State.endWithoutIssue
  split
  · rename_i due
    exact h.endUpstream due.2.2 _ _ _
  · exact h

theorem settle : s.settle.Traffic none := h.endWithoutIssue.endWithoutIssue.tryStart

end State.Traffic

namespace State.Traffic
variable {s t : State} {ended : Option Access}

/-! ### The scrubber and the write-back buffer -/

theorem withdrawScrub (h : s.Traffic none) : s.withdrawScrub.Traffic none := by
  have quiet : s.withdrawScrub.awaiting .scrub = false := by
    rw [State.awaiting_eq_false, State.withdrawScrub_eq]
    rintro b hb taken
    obtain ⟨a, ha, rfl⟩ := Option.map_eq_some_iff.mp hb
    obtain ⟨due, loose⟩ := Bool.or_eq_false_iff.mp taken
    intro mine
    have scrub : a.purpose = .scrubRead := Purpose.requester_eq_scrub.mp mine
    have calls := h.pending.mpr (.inl (State.awaiting_iff.mpr ⟨a, ha, due, mine⟩))
    rw [scrub, calls] at loose
    exact absurd loose (by decide)
  have called : ∀ a : Access, a.purpose.requester ≠ .scrub → s.withdrawScrub.calledFor a = s.calledFor a := fun a other =>
    State.calledFor_congr (fun _ => by simp) (fun _ => by simp) (fun mine => absurd mine other) (fun _ => by simp)
  exact {
    few := by simpa using h.few
    idle := by simpa using h.idle
    serve := by simpa using h.serve
    called := fun b hb taken => by
      rw [called b (State.awaiting_eq_false.mp quiet b hb taken)]
      rw [State.withdrawScrub_eq] at hb
      obtain ⟨a, ha, rfl⟩ := Option.map_eq_some_iff.mp hb
      exact h.called a ha (Bool.or_eq_false_iff.mp taken).1
    flies := by simpa using h.flies
    pending := by
      have idle : s.withdrawScrub.scrubber.state = .idle := by rw [State.withdrawScrub_eq]
      simp [quiet, idle]
    taken := nofun
    copied := nofun }

theorem emptyWriteBack (h : s.Traffic none) : s.emptyWriteBack.Traffic none :=
  (h.discarded .writeBack nofun).setEntries fun waits => by simp [State.awaiting_discardOutstanding] at waits

/-- With no scrub read awaited, the scrubber leaves PENDING, and an ended access is forgotten. -/
theorem scrubEnded (h : s.Traffic ended) (free : s.awaiting .scrub = false) {c : Scrubber} (calm : c.state ≠ .pending) :
    State.Traffic { s with scrubber := c } none where
  few := h.few
  idle := h.idle
  serve := h.serve
  called a ha taken := by
    rw [← h.called a ha taken]
    exact State.calledFor_congr (fun _ => rfl) (fun _ => rfl) (fun mine => absurd mine (State.awaiting_eq_false.mp free a ha taken))
      (fun _ => rfl)
  flies := h.flies
  pending := by
    simp only [calm, false_iff, not_or, Option.mem_def, reduceCtorEq, false_and, exists_false, not_false_eq_true, and_true]
    simpa [State.awaiting] using free
  taken := nofun
  copied := nofun

theorem endScrub (h : s.Traffic ended) (free : s.awaiting .scrub = false) (block line : Nat) (ending : Ending) :
    (s.endScrub block line ending).Traffic none := by
  have advanced : ∀ {v : State}, v.Traffic ended → v.awaiting .scrub = false →
      State.Traffic { v.advanceScrub with scrubber := { v.advanceScrub.scrubber with state := .idle } } none := fun hv quiet =>
    (hv.scrubEnded quiet (c := { s.scrubber with state := .idle }) nofun).of_same ⟨by simp, by simp, by simp, by simp, .rfl⟩
  unfold State.endScrub
  dsimp only
  split
  · rename_i words
    exact advanced (h.takeWords _ _ words) (by simpa [State.awaiting] using free)
  · exact advanced h free

/-! ### The grant -/

/-- An access that its requester's state calls for is issued while none is outstanding. -/
theorem issue (h : s.Traffic ended) (free : s.port.outstanding = none) {p : Purpose} (plain : p ≠ .scrubRead)
    {r : Requester} (mine : p.requester = r) (barred : ∀ a ∈ ended, a.purpose.requester ≠ r) {block line first count : Nat}
    {words : List StoredWord}
    (called : ∀ a : Access, a.purpose = p → a.block = block → a.line = line → a.first = first → s.calledFor a = true) :
    (s.issue p block line first count words).Traffic ended := by
  subst mine
  have quiet : ∀ r, r ≠ p.requester → (s.issue p block line first count words).awaiting r = false := by
    intro r other
    rw [State.awaiting, State.issue_port]
    simp [Ne.symm other]
  have same : ∀ a : Access, a.purpose.requester ≠ .writeBack ∨ p = .writeBack →
      (s.issue p block line first count words).calledFor a = s.calledFor a := by
    intro a kept
    refine State.calledFor_congr (fun _ => by simp) (fun _ => by simp) (fun _ => by simp) (fun mine => ?_)
    have wb : p = .writeBack := kept.resolve_left (not_not_intro mine)
    simp [State.issue, wb]
  exact {
    few := by simpa using h.few
    idle := by simpa using h.idle
    serve := by simpa using h.serve
    called := fun a ha _ => by
      rw [State.issue_port] at ha
      obtain rfl := Option.some.inj ha
      rw [same _ (by cases p <;> simp [Purpose.requester]), called _ rfl rfl rfl rfl]
    flies := by simpa using h.flies
    pending := by
      have other : Requester.scrub ≠ p.requester := fun mine => plain (Purpose.requester_eq_scrub.mp mine.symm)
      simpa [quiet .scrub other, State.awaiting_of_free free] using h.pending
    taken := fun a ha => quiet _ (barred a ha)
    copied := fun a ha mine => by rw [same a (.inl (by simp [mine])), h.copied a ha mine] }

theorem countPassOver (h : s.Traffic ended) (busy : List Requester) (r : Requester) : (s.countPassOver busy r).Traffic ended :=
  h.of_same ⟨rfl, rfl, rfl, rfl, .rfl⟩

theorem markOvertaken (h : s.Traffic ended) (free : s.port.outstanding = none) (block line : Nat) :
    (s.markOvertaken block line).Traffic ended := by
  unfold State.markOvertaken
  split
  · rename_i work hw
    split
    · split
      · have called : ∀ a, State.calledFor { s with
            migration := { s.migration with engine := .copying { work with overtaken := true } } } a = s.calledFor a := by
          intro a
          unfold State.calledFor
          cases a.purpose <;> simp [hw, Engine.work?]
        exact { h with
          called := fun a ha => by simp [free] at ha
          flies := by
            rintro v ⟨⟩
            exact h.flies work (by rw [hw]; rfl)
          copied := fun a ha mine => (called a).trans (h.copied a ha mine) }
      · exact h
    all_goals exact h
  all_goals exact h

theorem grantRun (h : s.Traffic ended) (free : s.port.outstanding = none)
    (barred : ∀ a ∈ ended, a.purpose.requester ≠ .upstream) {work : StoreWork} {run : StoreRun} {rest : List StoreRun}
    (hp : s.upstream.progress = .store work) (hr : work.runs = run :: rest) (hd : work.dual = none) (address : Nat) :
    (s.grantRun address work run).Traffic ended := by
  have applied : ∀ base, (s.applyInjection base run.forms).1.Traffic ended := fun base => h.of_same
    ⟨by simp, by simp, by simp, by simp, by simp⟩
  have marked := fun base => (applied base).markOvertaken (by simp [free]) (blockOf address) (lineOf address)
  unfold State.grantRun
  dsimp only
  split
  · refine (marked _).issue (by simp [free]) (by simp) (by rfl) barred fun a hq _ _ _ => ?_
    simp [State.calledFor, hq, hp, hr, hd, Progress.store?]
  · refine ((marked _).setProgress ?_ ?_ ?_).issue (by simp [free]) (by simp) (by rfl) barred fun a hq _ _ _ => ?_
    · simp [State.awaiting, free]
    · simp [hp]
    · simp [hp, Progress.needsAccess]
    · simp [State.calledFor, hq, hr, Progress.store?]

theorem grantUpstream (h : s.Traffic ended) (free : s.port.outstanding = none)
    (barred : ∀ a ∈ ended, a.purpose.requester ≠ .upstream) : s.grantUpstream.Traffic ended := by
  unfold State.grantUpstream
  split
  · rename_i hp _
    exact h.issue free (by simp) (by rfl) barred fun a hq _ _ _ => by simp [State.calledFor, hq, hp]
  · rename_i hp _
    split
    · exact h.issue free (by simp) (by rfl) barred fun a hq _ _ _ => by simp [State.calledFor, hq, hp]
    · exact h
  · rename_i work t hp _
    split
    · rename_i hr hd
      exact h.grantRun free barred hp hr hd _
    · rename_i hr hd
      exact h.issue free (by simp) (by rfl) barred fun a hq _ _ _ => by simp [State.calledFor, hq, hp, hr, hd, Progress.store?]
    · exact h
  · exact h

theorem grantWriteBack (h : s.Traffic ended) (free : s.port.outstanding = none)
    (barred : ∀ a ∈ ended, a.purpose.requester ≠ .writeBack) : s.grantWriteBack.Traffic ended := by
  unfold State.grantWriteBack
  split
  · exact h
  · rename_i e rest hb
    refine h.issue free (by simp) (by rfl) barred fun a hq block line first => ?_
    simp [State.calledFor, hq, hb, block, line, first]

theorem grantMigration (h : s.Traffic ended) (free : s.port.outstanding = none)
    (barred : ∀ a ∈ ended, a.purpose.requester ≠ .migration) : s.grantMigration.Traffic ended := by
  unfold State.grantMigration
  split
  · rename_i work hw
    unfold State.grantCopy
    split
    · split
      · rename_i reading
        have flies : (Engine.copying { work with inFlight := true, holding := work.held }).Flies := by
          rintro v ⟨⟩ -
          rfl
        refine (h.setEngine (State.awaiting_of_free free _) barred flies).issue free (by simp) (by rfl) barred fun a hq _ _ _ => ?_
        simp [State.calledFor, hq, Engine.work?, reading]
      · rename_i writing
        exact h.issue free (by simp) (by rfl) barred fun a hq _ _ _ => by simp [State.calledFor, hq, hw, Engine.work?, writing]
    all_goals exact h
  all_goals exact h

/-- A DUE scrub goes PENDING with its read outstanding (R126). -/
theorem grantScrub (h : s.Traffic ended) (barred : ∀ a ∈ ended, a.purpose.requester ≠ .scrub) : s.grantScrub.Traffic ended := by
  unfold State.grantScrub
  dsimp only
  have mine : Purpose.scrubRead.requester = .scrub := rfl
  have others : ∀ a ∈ ended, s.grantScrub.awaiting a.purpose.requester = false := fun a ha => by
    have other := Ne.symm (barred a ha)
    simp [State.awaiting, State.grantScrub, State.issue_port, mine, other]
  have called : ∀ a : Access, a.purpose.requester = .migration → s.grantScrub.calledFor a = s.calledFor a := fun a mine => by
    refine State.calledFor_congr (fun _ => ?_) (fun _ => ?_) (fun other => ?_) (fun other => ?_)
    · simp [State.grantScrub]
    · simp [State.grantScrub]
    · simp [mine] at other
    · simp [mine] at other
  exact {
    few := by simpa using h.few
    idle := by simpa using h.idle
    serve := by simpa using h.serve
    called := fun a ha _ => by
      rw [State.issue_port] at ha
      obtain rfl := Option.some.inj ha
      simp [State.calledFor]
    flies := by simpa using h.flies
    pending := by simp [State.awaiting, State.issue_port, Purpose.requester]
    taken := others
    copied := fun a ha mine => (called a mine).trans (h.copied a ha mine) }

theorem grant (h : s.Traffic ended) {busy : List Requester} (barred : ∀ a ∈ ended, a.purpose.requester ∈ busy) :
    (s.grant busy).Traffic ended := by
  rcases s.grant_cases busy with none_made | ⟨r, free, choice, made⟩
  · rw [none_made]
    exact h
  · rw [made]
    have others : ∀ a ∈ ended, a.purpose.requester ≠ r := fun a ha same => (State.choose_some choice).1 (same ▸ barred a ha)
    have counted := h.countPassOver busy r
    cases r with
    | upstream => exact counted.grantUpstream free others
    | writeBack => exact counted.grantWriteBack free others
    | migration => exact counted.grantMigration free others
    | scrub => exact counted.grantScrub others

/-! ### The ends of accesses -/

theorem freed (h : s.Traffic none) {a : Access} (ho : s.port.outstanding = some a) : s.freeSlot.Traffic a.untaken where
  few := h.few
  idle := h.idle
  serve := h.serve
  called := nofun
  flies := h.flies
  pending := by
    refine h.pending.trans ?_
    simp only [Option.mem_def, reduceCtorEq, false_and, exists_false, or_false]
    rw [State.awaiting_iff, ho]
    constructor
    · rintro ⟨b, ⟨⟩, due, mine⟩
      exact .inr ⟨a, Access.mem_untaken.mpr ⟨due, rfl⟩, Purpose.requester_eq_scrub.mp mine⟩
    · rintro (waits | ⟨b, hb, scrub⟩)
      · simp [State.awaiting] at waits
      · obtain ⟨due, rfl⟩ := Access.mem_untaken.mp hb
        exact ⟨b, rfl, due, Purpose.requester_eq_scrub.mpr scrub⟩
  taken _ _ := rfl
  copied b hb _ := by
    obtain ⟨due, rfl⟩ := Access.mem_untaken.mp hb
    exact h.called b ho due

theorem timedOut (h : s.Traffic none) {a : Access} (ho : s.port.outstanding = some a) : (s.timedOut a).Traffic a.untaken := by
  have lost : State.Traffic (State.makeRecord
      { s with port := { s.port with outstanding := none, abandoned := s.port.abandoned ++ [a.tag] } }
      (linkRecord s.settings .linkTimeout a)) a.untaken := (h.freed ho).of_same ⟨rfl, rfl, rfl, rfl, .rfl⟩
  unfold State.timedOut
  dsimp only
  split
  · refine lost.of_same ⟨rfl, rfl, rfl, rfl, ?_⟩
    simp only [State.linkGoesDown, State.makeRecord_scrubber]
    cases s.scrubber.state <;> simp
  · exact lost

theorem barred_busyAfter (s : State) (a : Access) (failed : Bool) : ∀ b ∈ a.untaken, b.purpose.requester ∈ s.busyAfter a failed := by
  intro b hb
  obtain ⟨due, rfl⟩ := Access.mem_untaken.mp hb
  unfold State.busyAfter
  by_cases wb : b.purpose = .writeBack
  · simp [wb, Purpose.requester]
  · simp [wb, due]

theorem grantIfFirst {a : Access} (h : s.Traffic a.untaken) (first failed : Bool) :
    (s.grantIfFirst first a failed).Traffic a.untaken := by
  unfold State.grantIfFirst
  split
  · exact h.grant (barred_busyAfter s a failed)
  · exact h

theorem endCopyRead (h : s.Traffic none) (free : s.awaiting .migration = false) (block line : Nat) (ending : Ending)
    (flying : ∀ work ∈ s.migration.engine.work?, work.inFlight = true ∧ work.phase = .reading) :
    (s.endCopyRead block line ending).Traffic none := by
  unfold State.endCopyRead
  split
  · rename_i work words hw
    refine takeWords (h.setEngine free nofun ?_) _ _ _
    rintro v ⟨⟩ -
    exact (flying work (by rw [hw]; rfl)).1
  · rename_i work hw
    split
    · refine h.setEngine free nofun ?_
      rintro v ⟨⟩ writing
      exact absurd (flying work (by rw [hw]; rfl)).2 writing
    · exact h.abortMigration _
  all_goals exact h

theorem endCopyWrite (h : s.Traffic none) (free : s.awaiting .migration = false) (line : Nat) (ending : Ending) :
    (s.endCopyWrite line ending).Traffic none := by
  unfold State.endCopyWrite
  split
  · rename_i work _ _
    split
    · exact h.setEngine free nofun (.attemptAt _ _)
    · split
      · exact (h.setEngine free nofun (.attemptAt work.target 0)).of_same ⟨rfl, rfl, rfl, rfl, .rfl⟩
      · exact h.completeMigration free work
  · exact h.abortMigration _
  all_goals exact h

theorem hand {a : Access} (h : s.Traffic a.untaken) (ending : Ending) : (s.hand a ending).Traffic none := by
  unfold State.hand
  split
  · rename_i gone
    simpa [Access.untaken, gone] using h
  · rename_i due
    have mem : a ∈ a.untaken := Access.mem_untaken.mpr ⟨by simpa using due, rfl⟩
    have free := h.taken a mem
    have left : a.purpose ≠ .scrubRead → s.Traffic none := fun plain => h.forget fun b hb => by
      obtain ⟨-, rfl⟩ := Access.mem_untaken.mp hb
      exact plain
    have upstream : a.purpose.requester = .upstream → ∀ spare, (s.endUpstream spare a.block ending).Traffic none := fun mine spare =>
      (left fun scrub => by simp [scrub, Purpose.requester] at mine).endUpstream (mine ▸ free) _ _ _
    split
    iterate 5 rename_i hp; exact upstream (by rw [hp]; rfl) _
    · rename_i hp
      rw [hp] at free
      refine (left (by simp [hp])).endCopyRead free _ _ _ fun work hw => ?_
      have called := h.copied a mem (by rw [hp]; rfl)
      rw [Option.mem_def] at hw
      simpa [State.calledFor, hp, hw, and_comm] using called
    · rename_i hp
      rw [hp] at free
      exact (left (by simp [hp])).endCopyWrite free _ _
    · rename_i hp
      rw [hp] at free
      exact h.endScrub free _ _ _
    · rename_i hp
      rw [hp] at free
      exact (left (by simp [hp])).setEntries fun waits => by simp [show s.awaiting .writeBack = false from free] at waits

theorem handOk {a : Access} (h : s.Traffic a.untaken) (words : List StoredWord) : (s.handOk a words).Traffic none := by
  unfold State.handOk
  split
  · exact h.hand _
  · refine hand (s := (s.receive a words).1) ?_ _
    exact h.of_same ⟨rfl, rfl, rfl, rfl, .rfl⟩

theorem answerAccess (h : s.Traffic none) {a : Access} (ho : s.port.outstanding = some a) (result : MemResult)
    (words : List StoredWord) (first : Bool) : (s.answerAccess a result words first).Traffic none := by
  have freed := h.freed ho
  unfold State.answerAccess
  cases result with
  | ok => exact ((freed.grantIfFirst first false).handOk words).settle
  | fault =>
    have noted : (s.freeSlot.makeRecord (linkRecord s.settings .linkFault a)).Traffic a.untaken :=
      freed.of_same ⟨rfl, rfl, rfl, rfl, .rfl⟩
    exact ((noted.grantIfFirst first true).hand .failed).settle

theorem takeResponse (h : s.Traffic none) (tag : Tag) (result : MemResult) (words : List StoredWord) (first : Bool) :
    (s.takeResponse tag result words first).Traffic none := by
  have stray : (s.strayResponse tag).Traffic none := by
    unfold State.strayResponse
    split <;> exact h.of_same ⟨rfl, rfl, rfl, rfl, .rfl⟩
  unfold State.takeResponse
  split
  · rename_i a ho
    split
    · exact h.answerAccess ho result words first
    · exact stray
  · exact stray

theorem expireResponse (h : s.Traffic none) (first : Bool) : (s.expireResponse first).Traffic none := by
  cases ho : s.port.outstanding with
  | none => simpa [State.expireResponse, ho] using h
  | some a =>
    rw [State.expireResponse_of_some ho]
    exact (((h.timedOut ho).grantIfFirst first true).hand .failed).settle

theorem checkResponseTimer (h : s.Traffic none) : s.checkResponseTimer.Traffic none := by
  unfold State.checkResponseTimer
  split
  · split
    · exact h.expireResponse false
    · exact h
  · exact h

end State.Traffic

end Sys2Proof.Machine

namespace Sys2Proof.Machine

namespace State.Traffic
variable {s t : State}

/-! ### The timers -/

theorem expireInterval (h : s.Traffic none) : s.expireInterval.Traffic none := by
  refine h.of_same ⟨by simp, by simp, by simp, by simp, ?_⟩
  unfold State.expireInterval
  split
  · exact .rfl
  · cases hs : s.scrubber.state <;> simp

theorem checkIntervalTimer (h : s.Traffic none) : s.checkIntervalTimer.Traffic none := by
  unfold State.checkIntervalTimer
  split
  · split
    · exact h.expireInterval
    · exact h
  · exact h

theorem passMicrosecond (h : s.Traffic none) : s.passMicrosecond.Traffic none where
  few := h.few
  idle := h.idle
  serve := h.serve
  called b hb taken := by
    obtain ⟨a, ha, rfl⟩ := Option.map_eq_some_iff.mp hb
    exact h.called a ha taken
  flies := h.flies
  pending := by
    refine h.pending.trans (or_congr_left ?_)
    unfold State.awaiting State.passMicrosecond
    cases s.port.outstanding <;> rfl
  taken := nofun
  copied := nofun

theorem tick (h : s.Traffic none) : s.tick.Traffic none := h.passMicrosecond.checkResponseTimer.checkIntervalTimer

/-! ### The acceptance queue -/

end State.Traffic

/-- The phase a head begins in: IDLE exactly without one, and one in need of an access only for a shaped transaction marked SERVE
(R92 to R94). -/
theorem State.beginHead_progress (s : State) : (s.beginHead.upstream.progress = .idle ↔ s.upstream.held = [])
    ∧ (s.beginHead.upstream.progress.needsAccess = true →
      ∃ h ∈ s.upstream.held.head?, h.mark = .serve ∧ shapeOk h.transaction = true) := by
  unfold State.beginHead
  split
  · rename_i none_held
    simp [State.setProgress, none_held, Progress.needsAccess]
  · rename_i h rest held
    split
    · simp [State.setProgress, held, Progress.needsAccess]
    · rename_i serve
      unfold State.beginServed
      split
      · simp [State.setProgress, held, Progress.needsAccess]
      · rename_i shape
        have lawful : ∃ h ∈ s.upstream.held.head?, h.mark = .serve ∧ shapeOk h.transaction = true :=
          ⟨h, by rw [held]; rfl, serve, by simpa using shape⟩
        (repeat' split) <;> exact ⟨by simp [State.setProgress, State.enterStore, held], fun _ => lawful⟩

namespace State.Traffic
variable {s t : State}

/-- While no access of the upstream port is awaited, any lawful contents may stand in it. -/
theorem setUpstream (h : s.Traffic none) (free : s.awaiting .upstream = false) {u : Upstream} (few : u.held.length ≤ 4)
    (idle : u.progress = .idle ↔ u.held = [])
    (serve : u.progress.needsAccess = true → ∃ h ∈ u.held.head?, h.mark = .serve ∧ shapeOk h.transaction = true) :
    State.Traffic { s with upstream := u } none where
  few := few
  idle := idle
  serve := serve
  called a ha taken := by
    rw [← h.called a ha taken]
    exact State.calledFor_congr (fun mine => absurd mine (State.awaiting_eq_false.mp free a ha taken)) (fun _ => rfl) (fun _ => .rfl)
      (fun _ => rfl)
  flies := h.flies
  pending := h.pending
  taken := nofun
  copied := nofun

/-- While no access of the upstream port is awaited, the head of any queue may begin. -/
theorem beginHead (h : s.Traffic none) (free : s.awaiting .upstream = false) (few : t.upstream.held.length ≤ 4)
    (port : t.port = s.port) (migration : t.migration = s.migration) (writeBack : t.writeBack = s.writeBack)
    (scrubber : t.scrubber = s.scrubber) : t.beginHead.Traffic none := by
  obtain ⟨idle, serve⟩ := t.beginHead_progress
  have held : t.beginHead.upstream.held = t.upstream.held := by
    unfold State.beginHead State.beginServed
    (repeat' split) <;> rfl
  rw [← held] at idle serve few
  refine (h.setUpstream free few idle serve).of_same ⟨rfl, ?_, ?_, ?_, ?_⟩
  · simp [port]
  · simp [migration]
  · simp [writeBack]
  · simp [scrubber]

theorem accept (h : s.Traffic none) (tr : Transaction) (room : s.upstream.held.length < 4) : (s.accept tr).Traffic none := by
  have few : ∀ x, (s.upstream.held ++ [x]).length ≤ 4 := fun x => by simpa using room
  unfold State.accept
  dsimp only
  split
  · rename_i empty
    have idle : s.upstream.progress = .idle := h.idle.mpr (by simpa using empty)
    refine settle (h.beginHead (h.not_awaiting_upstream (by rw [idle]; rfl)) ?_ ?_ ?_ ?_ ?_)
    · exact few _
    all_goals rfl
  · rename_i some_held
    have head : ∀ x, (s.upstream.held ++ [x]).head? = s.upstream.held.head? := fun x => by
      rw [List.head?_append_of_ne_nil]
      simpa using some_held
    exact { h with
      few := few _
      idle := h.idle.trans ⟨fun none_held => by simp [none_held] at some_held, fun no => by simp at no⟩
      serve := fun needs => by
        rw [head]
        exact h.serve needs }

theorem leaveQueue (h : s.Traffic none) {answer : Answer} (given : s.upstream.progress = .answer answer) :
    s.leaveQueue.Traffic none := by
  have few : s.upstream.held.tail.length ≤ 4 := by
    have := h.few
    rw [List.length_tail]
    omega
  refine (h.beginHead (h.not_awaiting_upstream (by rw [given]; rfl)) ?_ ?_ ?_ ?_ ?_).settle
  · simpa using few
  all_goals simp

/-! ### The modes and the resets -/

theorem startOver (s : State) (straps : BitVec 2) : (s.startOver straps).Traffic none where
  few := Nat.zero_le _
  idle := ⟨fun _ => rfl, fun _ => rfl⟩
  serve := nofun
  called := nofun
  flies := .idle
  pending := by simp [State.startOver, State.poweredOn, State.awaiting]
  taken := nofun
  copied := nofun

theorem systemReset (h : s.Traffic none) : s.systemReset.Traffic none := by
  have dropped : s.dropTransactions.Traffic none :=
    (h.discarded .upstream nofun).setUpstream (s.awaiting_discardOutstanding _) (Nat.zero_le _) ⟨fun _ => rfl, fun _ => rfl⟩ nofun
  have quiet := ((dropped.stopEngine .reset).emptyWriteBack.discarded .migration nofun).withdrawScrub
  refine (quiet.discarded .scrub fun _ => ?_).of_same ⟨rfl, rfl, rfl, rfl, .rfl⟩
  rw [State.withdrawScrub_eq]
  simp

theorem endStopping (h : s.Traffic none) : s.endStopping.Traffic none :=
  h.of_same ⟨by simp, by simp, by simp, by simp, by simp⟩

theorem followTimer (h : s.Traffic none) : s.followTimer.Traffic none := h.of_same ⟨rfl, rfl, rfl, rfl, .rfl⟩

theorem answerStatus (h : s.Traffic none) (status : Status) : (s.answerStatus status).Traffic none :=
  h.of_same ⟨rfl, rfl, rfl, rfl, .rfl⟩

theorem modeSet (h : s.Traffic none) (mode : Mode) : State.Traffic { s with mode := mode } none := h.of_same ⟨rfl, rfl, rfl, rfl, .rfl⟩

theorem goOnline (h : s.Traffic none) : s.goOnline.Traffic none := by
  unfold State.goOnline
  split
  · split
    · exact (h.modeSet .online).followTimer.tryStart.answerStatus _
    · exact h.answerStatus _
  all_goals exact h.answerStatus _

theorem goOffline (h : s.Traffic none) : s.goOffline.Traffic none := by
  unfold State.goOffline
  split
  · exact ((h.modeSet .stopping).stopEngine _).withdrawScrub.followTimer.emptyWriteBack.endStopping.answerStatus _
  all_goals exact h.answerStatus _

theorem clearLink (h : s.Traffic none) : s.clearLink.Traffic none := by
  refine tryStart (followTimer ?_)
  exact h.of_same ⟨rfl, rfl, rfl, rfl, .rfl⟩

/-! ### The items -/

theorem settingsSet (h : s.Traffic none) (c : Settings) : State.Traffic { s with settings := c } none :=
  h.of_same ⟨rfl, rfl, rfl, rfl, .rfl⟩

theorem ranged (h : s.Traffic none) {low high value : Nat} {effect : State → State} (keeps : (effect s).Traffic none) :
    (s.ranged low high value effect).Traffic none :=
  State.ranged_of (P := fun t => t.Traffic none) (h.answerStatus _) fun _ _ => keeps

theorem offlineOnly (h : s.Traffic none) {effect : State → State} (keeps : (effect s).Traffic none) :
    (s.offlineOnly effect).Traffic none :=
  State.offlineOnly_of (P := fun t => t.Traffic none) (h.answerStatus _) fun _ => keeps

theorem pruneTables (h : s.Traffic none) : s.pruneTables.Traffic none := by
  refine (tryStable none).placesFreed _ ?_
  exact h.of_same ⟨rfl, rfl, rfl, rfl, .rfl⟩

theorem writeVisible (h : s.Traffic none) (value : Nat) : (s.writeVisible value).Traffic none := by
  refine h.offlineOnly (h.ranged ?_)
  split
  · exact h.answerStatus _
  · refine answerStatus ?_ _
    exact (h.settingsSet _).emptyWriteBack.pruneTables.of_same ⟨rfl, rfl, rfl, rfl, .rfl⟩

theorem writeSpares (h : s.Traffic none) (value : Nat) : (s.writeSpares value).Traffic none := by
  refine h.offlineOnly (h.ranged ?_)
  split
  · exact h.answerStatus _
  · refine answerStatus (pruneTables (emptyWriteBack ?_)) _
    exact h.of_same ⟨rfl, rfl, rfl, rfl, .rfl⟩

theorem offerAll (n : Nat) (h : s.Traffic none) : (State.offerAll n s).Traffic none := by
  induction n generalizing s with
  | zero => exact h
  | succ n ih =>
    unfold State.offerAll
    split
    · exact ih ((tryStable none).offerWaiting h).tryStart
    · exact h

theorem writeAutoSpare (h : s.Traffic none) (value : Nat) : (s.writeAutoSpare value).Traffic none := by
  refine h.ranged (answerStatus ?_ _)
  split
  · exact (h.settingsSet _).offerAll _
  · exact h.settingsSet _

theorem writeScrubEnable (h : s.Traffic none) (value : Nat) : (s.writeScrubEnable value).Traffic none := by
  refine h.ranged (answerStatus (followTimer ?_) _)
  split
  · exact h.settingsSet _
  · exact (h.settingsSet _).withdrawScrub

theorem writeItem (h : s.Traffic none) (item : Byte) (value : Nat) : (s.writeItem item value).Traffic none := by
  have plain : ∀ {low high : Nat} (c : Settings → Settings),
      (s.ranged low high value fun u => State.answerStatus { u with settings := c u.settings } .ok).Traffic none :=
    fun c => h.ranged ((h.settingsSet (c s.settings)).answerStatus _)
  unfold State.writeItem
  split
  · exact h.writeVisible value
  · exact h.offlineOnly (plain fun c => { c with downstream := value })
  · exact h.writeSpares value
  · exact plain fun c => { c with correctedLimit := value }
  · exact plain fun c => { c with wordLimit := value }
  · exact h.writeAutoSpare value
  · exact plain fun c => { c with repairOnRead := value == 1 }
  · exact h.writeScrubEnable value
  · exact h.ranged ((h.settingsSet _).checkIntervalTimer.answerStatus _)
  · exact h.ranged ((h.settingsSet _).checkResponseTimer.answerStatus _)
  · exact plain fun c => { c with recordCorrected := value == 1 }
  · exact plain fun c => { c with alertEnables := flagsOfNat value }
  · exact plain fun c => { c with alertDepth := value }
  · exact plain fun c => { c with spareLowMark := value }
  · exact h.answerStatus _

/-! ### The repair commands and the queue's -/

theorem stopped (h : s.Traffic none) (blocked : s.migration.engine = .blocked) :
    State.Traffic { s with migration := { s.migration with engine := .idle } } none :=
  h.setEngine (h.not_awaiting_migration (by rw [blocked]; rfl)).1 nofun .idle

theorem releaseSpare (h : s.Traffic none) (i : Nat) : (s.releaseSpare i).Traffic none := by
  have released : State.Traffic { s with remap := setEntry s.remap i .free } none := h.of_same ⟨rfl, rfl, rfl, rfl, .rfl⟩
  unfold State.releaseSpare
  split
  · exact h.answerStatus _
  · split
    · exact h.answerStatus _
    · refine answerStatus ?_ _
      unfold State.unblock
      split
      · rename_i blocked
        exact (released.stopped blocked).tryStart
      all_goals exact released

theorem requestSpare (h : s.Traffic none) (l : Location) : (s.requestSpare l).Traffic none := by
  unfold State.requestSpare
  split
  · exact h.answerStatus _
  · refine answerStatus (tryStart ?_) _
    exact h.of_same ⟨rfl, rfl, rfl, rfl, .rfl⟩

theorem removeRequest (h : s.Traffic none) (l : Location) : (s.removeRequest l).Traffic none := by
  refine (tryStable none).placeFreed ?_
  exact h.of_same ⟨rfl, rfl, rfl, rfl, .rfl⟩

theorem cancelRequest (h : s.Traffic none) (l : Location) : (s.cancelRequest l).Traffic none := by
  unfold State.cancelRequest
  split
  · split
    · exact h.abortMigration _
    · exact h.removeRequest l
  · rename_i blocked
    split
    · exact (h.stopped blocked).removeRequest l
    · exact h.removeRequest l
  · exact h.removeRequest l

end State.Traffic

/-- Every command and every event keeps the traffic lawful. -/
theorem State.Traffic.commandStable : CommandStable fun s => s.Traffic none where
  pending h _ := h.of_same ⟨rfl, rfl, rfl, rfl, .rfl⟩
  respond h _ _ := h.of_same ⟨rfl, rfl, rfl, rfl, .rfl⟩
  onBus h _ _ := h.of_same ⟨rfl, rfl, rfl, rfl, .rfl⟩
  tick h := h.tick
  startOver {s} _ := State.Traffic.startOver s
  systemReset h := h.systemReset.tryStart
  accept h := h.accept
  leaveQueue h _ := h.leaveQueue
  grant h := h.grant nofun
  takeResponse h := h.takeResponse
  expireResponse h := h.expireResponse
  expireInterval h := h.expireInterval
  tryStart h := h.tryStart
  writeItem h := h.writeItem
  goOnline h := h.goOnline
  goOffline h := h.goOffline
  clearLink h := h.clearLink
  restoreRemap {s} h i state source := by
    unfold State.restoreRemap
    (repeat' split) <;> exact h.of_same ⟨rfl, rfl, rfl, rfl, .rfl⟩
  dropRemap {s} h i := by
    unfold State.dropRemap
    (repeat' split) <;> exact h.of_same ⟨rfl, rfl, rfl, rfl, .rfl⟩
  releaseSpare h := h.releaseSpare
  requestSpare h := h.requestSpare
  cancelRequest h l := (h.cancelRequest l).tryStart
  clearWatch {s} h slot := by
    unfold State.clearWatch
    (repeat' split) <;> exact h.of_same ⟨rfl, rfl, rfl, rfl, .rfl⟩
  popRecord {s} h := by
    unfold State.popRecord
    split <;> exact h.of_same ⟨rfl, rfl, rfl, rfl, .rfl⟩
  ackAlert h _ := h.of_same ⟨rfl, rfl, rfl, rfl, .rfl⟩
  inject {s} h address kind := by
    unfold State.inject
    (repeat' split) <;> exact h.of_same ⟨rfl, rfl, rfl, rfl, .rfl⟩

end Sys2Proof.Machine

namespace Sys2Proof.Machine

/-! ## The modes and the scrubber's timer (O57) -/

/-- A scrub position names a line of a block that exists (R123). -/
def Scrubber.Placed (c : Scrubber) (visible : Nat) : Prop := c.line ≤ 15 ∧ (c.block = 0 ∨ c.block < visible)

/-- The laws of the mode, the held transactions' marks and the scrubber's timer and position (R123, R124, R149, R150). -/
structure State.Paced (s : State) : Prop where
  unserved : s.mode = .offline → s.holdsServe = false
  serving : s.mode = .stopping → s.holdsServe = true
  visible : s.mode ≠ .offline → 1 ≤ s.settings.visible
  timer : s.scrubber.timer.isSome = true ↔ s.timerMayRun = true
  due : s.scrubber.state = .due → s.timerMayRun = true
  pending : s.scrubber.state = .pending → s.mode = .online
  placed : s.scrubber.Placed s.settings.visible

/-- The mode, the settings, the transactions held, the link and the timer stay, and the scrubber goes no further than from DUE to
PENDING. -/
structure State.Calmer (t s : State) : Prop where
  mode : t.mode = s.mode
  settings : t.settings = s.settings
  held : t.upstream.held = s.upstream.held
  link : t.port.link = s.port.link
  timer : t.scrubber.timer = s.scrubber.timer
  due : t.scrubber.state = .due → s.scrubber.state = .due
  pending : t.scrubber.state = .pending → s.scrubber.state = .pending ∨ s.scrubber.state = .due
  placed : s.scrubber.Placed s.settings.visible → t.scrubber.Placed s.settings.visible

theorem State.Calmer.of_scrubber {s t : State} (mode : t.mode = s.mode) (settings : t.settings = s.settings)
    (held : t.upstream.held = s.upstream.held) (link : t.port.link = s.port.link) (scrubber : t.scrubber = s.scrubber) :
    t.Calmer s where
  mode := mode
  settings := settings
  held := held
  link := link
  timer := by rw [scrubber]
  due := by rw [scrubber]; exact id
  pending := by rw [scrubber]; exact .inl
  placed := by rw [scrubber]; exact id

theorem State.Calmer.trans {s t u : State} (h : u.Calmer t) (k : t.Calmer s) : u.Calmer s where
  mode := h.mode.trans k.mode
  settings := h.settings.trans k.settings
  held := h.held.trans k.held
  link := h.link.trans k.link
  timer := h.timer.trans k.timer
  due pending := k.due (h.due pending)
  pending now := (h.pending now).elim k.pending fun before => .inr (k.due before)
  placed before := k.settings ▸ h.placed (k.settings.symm ▸ k.placed before)

theorem State.timerMayRun_iff {s : State} :
    s.timerMayRun = true ↔ s.mode = .online ∧ s.settings.scrubEnable = true ∧ s.port.link = .up := by
  simp [State.timerMayRun, and_assoc]

theorem State.holdsServe_congr {s t : State} (held : t.upstream.held = s.upstream.held) : t.holdsServe = s.holdsServe := by
  rw [State.holdsServe, held, State.holdsServe]

theorem State.Paced.of_calmer {s t : State} (h : s.Paced) (calm : t.Calmer s) : t.Paced := by
  have run : t.timerMayRun = s.timerMayRun := by
    rw [State.timerMayRun, calm.mode, calm.settings, calm.link, State.timerMayRun]
  have serves := State.holdsServe_congr calm.held
  exact {
    unserved := by rw [calm.mode, serves]; exact h.unserved
    serving := by rw [calm.mode, serves]; exact h.serving
    visible := by rw [calm.mode, calm.settings]; exact h.visible
    timer := by rw [calm.timer, run]; exact h.timer
    due := fun due => run.trans (h.due (calm.due due))
    pending := fun pending => calm.mode.trans <| (calm.pending pending).elim h.pending fun due =>
      (State.timerMayRun_iff.mp (h.due due)).1
    placed := calm.settings ▸ calm.placed h.placed }

/-! ### What grants, endings and tries leave -/

/-- A grant, an ending and what follows them leave the transactions held and the link. -/
theorem State.heldLink_stable (held : List Held) (link : Link) :
    AccessStable fun t => t.upstream.held = held ∧ t.port.link = link where
  record h _ := h
  queued h _ _ := h
  joined h _ _ _ _ := h
  waits h _ _ := h
  counted h _ _ _ _ _ _ _ _ := h
  untracked h := h
  offered h _ := h
  withdrawn h _ _ _ _ _ := h
  reordered h _ _ := h
  begun h _ _ _ _ := h
  elsewhere h _ _ port _ _ same := ⟨same.trans h.1, by rw [port]; exact h.2⟩
  engine h _ _ := h
  overtaken h _ _ _ := by simpa using h
  passed h _ _ _ := h
  freed h := h
  discarded h _ := by
    rw [State.discardOutstanding_eq]
    exact h
  issued h _ _ _ _ _ _ _ := by simpa [State.issue_port] using h
  kept h _ := h
  decayed h := h

theorem State.settle_calmer (s : State) : s.settle.Calmer s :=
  have kept := (State.heldLink_stable s.upstream.held s.port.link).settle ⟨rfl, rfl⟩
  .of_scrubber (by simp) (by simp) kept.1 kept.2 (by simp)

theorem State.tryStart_calmer (s : State) : s.tryStart.Calmer s := .of_scrubber (by simp) (by simp) (by simp) (by simp) (by simp)

theorem State.stopEngine_calmer (s : State) (cause : AbortCause) : (s.stopEngine cause).Calmer s :=
  have kept := (State.heldLink_stable s.upstream.held s.port.link).stopEngine ⟨rfl, rfl⟩ cause
  .of_scrubber (by simp) (by simp) kept.1 kept.2 (by simp)

/-- A grant changes the scrubber only from DUE to PENDING (R126). -/
theorem State.grant_scrubber (s : State) (busy : List Requester) : (s.grant busy).scrubber = s.scrubber
    ∨ s.scrubber.state = .due ∧ (s.grant busy).scrubber = { s.scrubber with state := .pending } := by
  rcases s.grant_cases busy with none_made | ⟨r, -, choice, made⟩
  · exact .inl (by rw [none_made])
  · rw [made]
    cases r with
    | upstream => exact .inl (by simp [State.grantTo])
    | writeBack => exact .inl (by simp [State.grantTo])
    | migration => exact .inl (by simp [State.grantTo])
    | scrub =>
      have asks := (State.choose_some choice).2
      simp only [State.waiting, Bool.and_eq_true, beq_iff_eq] at asks
      exact .inr ⟨asks.2, by simp [State.grantTo, State.grantScrub]⟩

theorem State.grant_calmer (s : State) (busy : List Requester) : (s.grant busy).Calmer s := by
  obtain ⟨held, link⟩ := (State.heldLink_stable s.upstream.held s.port.link).grant ⟨rfl, rfl⟩ busy
  rcases s.grant_scrubber busy with same | ⟨due, moved⟩
  · exact .of_scrubber (by simp) (by simp) held link same
  · exact {
      mode := by simp
      settings := by simp
      held := held
      link := link
      timer := by rw [moved]
      due := by rw [moved]; nofun
      pending := fun _ => .inr due
      placed := by rw [moved]; exact id }

theorem State.grantIfFirst_calmer (s : State) (first : Bool) (a : Access) (failed : Bool) :
    (s.grantIfFirst first a failed).Calmer s := by
  unfold State.grantIfFirst
  split
  · exact s.grant_calmer _
  · exact .of_scrubber rfl rfl rfl rfl rfl

/-- The position moves to a line of a block that exists (R129). -/
theorem State.advanceScrub_placed (s : State) : s.advanceScrub.scrubber.timer = s.scrubber.timer
    ∧ (s.scrubber.Placed s.settings.visible → s.advanceScrub.scrubber.Placed s.settings.visible) := by
  unfold State.advanceScrub
  split
  · rename_i below
    exact ⟨rfl, fun ⟨_, block⟩ => ⟨below, block⟩⟩
  · split
    · rename_i more
      exact ⟨rfl, fun _ => ⟨Nat.zero_le _, .inr more⟩⟩
    · exact ⟨rfl, fun _ => ⟨Nat.zero_le _, .inl rfl⟩⟩

theorem State.endScrub_calmer (s : State) (block line : Nat) (ending : Ending) : (s.endScrub block line ending).Calmer s := by
  obtain ⟨held, link⟩ := (State.heldLink_stable s.upstream.held s.port.link).endScrub ⟨rfl, rfl⟩ block line ending
  have advanced : (s.endScrub block line ending).scrubber.timer = s.scrubber.timer
      ∧ (s.scrubber.Placed s.settings.visible → (s.endScrub block line ending).scrubber.Placed s.settings.visible) := by
    unfold State.endScrub
    dsimp only
    split
    · rename_i words
      have moved := (s.takeWords { source := .scrub, block := block, line := line, recordsPoison := true, offers := true } 0 words
        false).advanceScrub_placed
      simpa [Scrubber.Placed] using moved
    · exact s.advanceScrub_placed
  exact {
    mode := by simp
    settings := by simp
    held := held
    link := link
    timer := advanced.1
    due := nofun
    pending := nofun
    placed := advanced.2 }

theorem State.hand_calmer (s : State) (a : Access) (ending : Ending) : (s.hand a ending).Calmer s := by
  obtain ⟨held, link⟩ := (State.heldLink_stable s.upstream.held s.port.link).hand ⟨rfl, rfl⟩ a ending
  by_cases scrub : a.discarded = false ∧ a.purpose = .scrubRead
  · rw [State.hand, if_neg (by simp [scrub.1]), scrub.2]
    exact s.endScrub_calmer _ _ _
  · refine .of_scrubber (by simp) (by simp) held link ?_
    unfold State.hand
    split
    · rfl
    · rename_i due
      cases hp : a.purpose
      case scrubRead => exact absurd ⟨by simpa using due, hp⟩ scrub
      all_goals simp

theorem State.handOk_calmer (s : State) (a : Access) (words : List StoredWord) : (s.handOk a words).Calmer s := by
  unfold State.handOk
  split
  · exact s.hand_calmer a _
  · exact (State.hand_calmer _ a _).trans (.of_scrubber rfl rfl rfl rfl rfl)

namespace State.Paced
variable {s t : State} (h : s.Paced)
include h

/-- No change of what `State.Paced` speaks of. -/
theorem of_same (mode : t.mode = s.mode) (settings : t.settings = s.settings) (held : t.upstream.held = s.upstream.held)
    (link : t.port.link = s.port.link) (scrubber : t.scrubber = s.scrubber) : t.Paced :=
  h.of_calmer (.of_scrubber mode settings held link scrubber)

theorem tryStart : s.tryStart.Paced := h.of_calmer s.tryStart_calmer

theorem settle : s.settle.Paced := h.of_calmer s.settle_calmer

theorem answerStatus (status : Status) : (s.answerStatus status).Paced := h.of_same rfl rfl rfl rfl rfl

/-! ### The timers -/

theorem timedOut (a : Access) : (s.timedOut a).Paced := by
  have lost : State.Paced (State.makeRecord
      { s with port := { s.port with outstanding := none, abandoned := s.port.abandoned ++ [a.tag] } }
      (linkRecord s.settings .linkTimeout a)) := h.of_same rfl rfl rfl rfl rfl
  unfold State.timedOut
  dsimp only
  split
  · exact { h with
      timer := by simp [State.timerMayRun, State.linkGoesDown]
      due := fun due => by
        simp only [State.linkGoesDown, State.makeRecord_scrubber] at due
        cases hs : s.scrubber.state <;> simp [hs] at due
      pending := fun pending => h.pending (by
        simp only [State.linkGoesDown, State.makeRecord_scrubber] at pending
        cases hs : s.scrubber.state <;> simp [hs] at pending ⊢) }
  · exact lost

theorem expireInterval : s.expireInterval.Paced := by
  unfold State.expireInterval
  split
  · exact h
  · rename_i time running
    have run := h.timer.mp (by simp [running])
    exact { h with
      timer := iff_of_true rfl run
      due := fun _ => run
      pending := fun pending => h.pending (by cases hs : s.scrubber.state <;> simp [hs] at pending ⊢) }

theorem checkIntervalTimer : s.checkIntervalTimer.Paced := by
  unfold State.checkIntervalTimer
  split
  · split
    · exact h.expireInterval
    · exact h
  · exact h

theorem expireResponse (first : Bool) : (s.expireResponse first).Paced := by
  cases ho : s.port.outstanding with
  | none => simpa [State.expireResponse, ho] using h
  | some a =>
    rw [State.expireResponse_of_some ho]
    exact (((h.timedOut a).of_calmer (State.grantIfFirst_calmer _ _ _ _)).of_calmer (State.hand_calmer _ _ _)).settle

theorem checkResponseTimer : s.checkResponseTimer.Paced := by
  unfold State.checkResponseTimer
  split
  · split
    · exact h.expireResponse false
    · exact h
  · exact h

theorem tick : s.tick.Paced := by
  have ticking : (s.scrubber.timer.map (· + 1)).isSome = s.scrubber.timer.isSome := Option.isSome_map
  have aged : s.passMicrosecond.Paced := { h with timer := ticking ▸ h.timer }
  exact aged.checkResponseTimer.checkIntervalTimer

theorem takeResponse (tag : Tag) (result : MemResult) (words : List StoredWord) (first : Bool) :
    (s.takeResponse tag result words first).Paced := by
  have stray : (s.strayResponse tag).Paced := by
    unfold State.strayResponse
    split <;> exact h.of_same rfl rfl rfl rfl rfl
  unfold State.takeResponse
  split
  · rename_i a _
    split
    · have freed : s.freeSlot.Paced := h.of_same rfl rfl rfl rfl rfl
      unfold State.answerAccess
      cases result with
      | ok => exact ((freed.of_calmer (State.grantIfFirst_calmer _ _ _ _)).of_calmer (State.handOk_calmer _ _ _)).settle
      | fault =>
        have noted : (s.freeSlot.makeRecord (linkRecord s.settings .linkFault a)).Paced := freed.of_same rfl rfl rfl rfl rfl
        exact ((noted.of_calmer (State.grantIfFirst_calmer _ _ _ _)).of_calmer (State.hand_calmer _ _ _)).settle
    · exact stray
  · exact stray

/-! ### The acceptance queue and the modes -/

/-- A transaction accepted is marked SERVE in ONLINE only, and those held stay. -/
theorem joined (tr : Transaction) : State.Paced { s with
    upstream := { s.upstream with held := s.upstream.held ++ [{ transaction := tr, mark := admissionMark s.mode }] } } :=
  { h with
    unserved := fun offline => by
      have none_served := h.unserved offline
      simp only [State.holdsServe, List.any_append, List.any_cons, List.any_nil, Bool.or_false, Bool.or_eq_false_iff] at none_served ⊢
      exact ⟨none_served, by rw [show s.mode = .offline from offline]; rfl⟩
    serving := fun stopping => by
      have served := h.serving stopping
      simp only [State.holdsServe, List.any_append] at served ⊢
      rw [served]
      rfl }

theorem beginHead : s.beginHead.Paced := by
  refine h.of_same (by simp) (by simp) ?_ (by simp) (by simp)
  unfold State.beginHead State.beginServed
  (repeat' split) <;> rfl

theorem accept (tr : Transaction) : (s.accept tr).Paced := by
  unfold State.accept
  dsimp only
  split
  · exact (h.joined tr).beginHead.settle
  · exact h.joined tr

end State.Paced

/-- The timer set by its conditions runs exactly while they hold (R124). -/
theorem State.followTimer_paced {u : State} (unserved : u.mode = .offline → u.holdsServe = false)
    (serving : u.mode = .stopping → u.holdsServe = true) (visible : u.mode ≠ .offline → 1 ≤ u.settings.visible)
    (due : u.scrubber.state = .due → u.timerMayRun = true) (pending : u.scrubber.state = .pending → u.mode = .online)
    (placed : u.scrubber.Placed u.settings.visible) : u.followTimer.Paced where
  unserved := unserved
  serving := serving
  visible := visible
  timer := by
    have run : u.followTimer.timerMayRun = u.timerMayRun := rfl
    rw [run]
    unfold State.followTimer
    cases u.timerMayRun <;> simp
  due := due
  pending := pending
  placed := placed

/-- STOPPING ends when no transaction marked SERVE is held (R150). -/
theorem State.endStopping_paced {u : State} (unserved : u.mode = .offline → u.holdsServe = false)
    (visible : u.mode ≠ .offline → 1 ≤ u.settings.visible) (timer : u.scrubber.timer.isSome = true ↔ u.timerMayRun = true)
    (due : u.scrubber.state = .due → u.timerMayRun = true) (pending : u.scrubber.state = .pending → u.mode = .online)
    (placed : u.scrubber.Placed u.settings.visible) : u.endStopping.Paced := by
  unfold State.endStopping
  split
  · rename_i ends
    obtain ⟨stopping, none_served⟩ := ends
    have still : u.timerMayRun = false := by simp [State.timerMayRun, stopping]
    rw [still] at timer due
    exact {
      unserved := fun _ => none_served
      serving := nofun
      visible := fun on => absurd rfl on
      timer := timer.trans (by simp [State.timerMayRun])
      due := fun is_due => absurd (due is_due) Bool.false_ne_true
      pending := fun is_pending => by simp [pending is_pending] at stopping
      placed := placed }
  · rename_i stays
    exact {
      unserved := unserved
      serving := fun stopping => by
        by_contra none_served
        exact stays ⟨stopping, by simpa using none_served⟩
      visible := visible
      timer := timer
      due := due
      pending := pending
      placed := placed }

namespace State.Paced
variable {s t : State} (h : s.Paced)
include h

theorem leaveQueue : s.leaveQueue.Paced := by
  refine settle (beginHead (State.endStopping_paced (fun offline => ?_) h.visible h.timer h.due h.pending h.placed))
  have none_served := h.unserved offline
  simp only [State.holdsServe, List.any_eq_false] at none_served ⊢
  exact fun x hx => none_served x (List.mem_of_mem_tail hx)

/-- Out of ONLINE no timer runs and no scrub is due. -/
theorem calm (off : s.mode ≠ .online) : s.timerMayRun = false ∧ s.scrubber.state = .idle := by
  have still : s.timerMayRun = false := by simp [State.timerMayRun, off]
  refine ⟨still, ?_⟩
  cases hs : s.scrubber.state
  · rfl
  · have run := h.due hs
    rw [still] at run
    cases run
  · exact absurd (h.pending hs) off

theorem goOnline : s.goOnline.Paced := by
  unfold State.goOnline
  split
  · rename_i offline
    split
    · rename_i fits
      have idle := (h.calm (by simp [offline])).2
      refine answerStatus (tryStart ?_) _
      refine State.followTimer_paced nofun nofun (fun _ => ?_) (fun due => ?_) (fun _ => rfl) h.placed
      · simp only [geometryOk, Bool.and_eq_true, decide_eq_true_eq] at fits
        exact fits.1
      · simp [show s.scrubber.state = .due from due] at idle
    · exact h.answerStatus _
  all_goals exact h.answerStatus _

theorem goOffline : s.goOffline.Paced := by
  unfold State.goOffline
  split
  · rename_i online
    have calmer := State.stopEngine_calmer { s with mode := .stopping } .stopped
    obtain ⟨-, -, -, -, -, -, -, placed⟩ := calmer
    refine answerStatus (h := State.endStopping_paced ?_ ?_ ?_ ?_ ?_ ?_) _
    · simp
    · have visible := h.visible (by simp [online])
      simpa using visible
    · simp [State.followTimer, State.timerMayRun]
    · rw [State.withdrawScrub_eq]
      simp [State.followTimer]
    · rw [State.withdrawScrub_eq]
      simp [State.followTimer]
    · rw [State.withdrawScrub_eq]
      simpa [State.followTimer, Scrubber.Placed] using placed h.placed
  all_goals exact h.answerStatus _

theorem clearLink : s.clearLink.Paced := by
  refine tryStart (State.followTimer_paced h.unserved h.serving h.visible (fun due => ?_) h.pending h.placed)
  obtain ⟨online, enabled, -⟩ := State.timerMayRun_iff.mp (h.due due)
  exact State.timerMayRun_iff.mpr ⟨online, enabled, rfl⟩

theorem systemReset : s.systemReset.Paced := by
  have held : s.systemReset.upstream.held = [] := by
    have k := State.heldLink_stable [] s.port.link
    have dropped : s.dropTransactions.upstream.held = [] ∧ s.dropTransactions.port.link = s.port.link := by
      rw [State.dropTransactions, State.discardOutstanding_eq]
      exact ⟨rfl, rfl⟩
    have emptied := k.emptyWriteBack (k.stopEngine dropped .reset)
    exact (k.discarded (k.withdrawScrub (k.discarded emptied .migration)) .scrub).1
  have none_served : s.systemReset.holdsServe = false := by rw [State.holdsServe, held]; rfl
  have mode : s.systemReset.mode = modeAfterReset s.mode := by simp [State.systemReset, State.restartTimer]
  have scrubber : s.systemReset.scrubber = { s.scrubber with
      timer := if s.systemReset.timerMayRun then some 0 else none
      state := .idle } := by
    have same : s.systemReset.scrubber.timer = if s.systemReset.timerMayRun then some 0 else none := rfl
    rw [← same]
    simp [State.systemReset, State.restartTimer, State.withdrawScrub_eq]
  exact {
    unserved := fun _ => none_served
    serving := fun stopping => by
      rw [mode] at stopping
      cases hm : s.mode <;> simp [hm, modeAfterReset] at stopping
    visible := fun on => by
      rw [mode] at on
      have before : s.mode ≠ .offline := fun off => on (by rw [off]; rfl)
      simpa using h.visible before
    timer := by
      rw [scrubber]
      cases s.systemReset.timerMayRun <;> simp
    due := by rw [scrubber]; nofun
    pending := by rw [scrubber]; nofun
    placed := by
      rw [scrubber]
      simpa [Scrubber.Placed] using h.placed }

/-! ### The items -/

theorem ranged {low high value : Nat} {effect : State → State} (keeps : low ≤ value → (effect s).Paced) :
    (s.ranged low high value effect).Paced :=
  State.ranged_of (P := State.Paced) (h.answerStatus _) fun least _ => keeps least

theorem settingsSet {c : Settings} (visible : c.visible = s.settings.visible) (enable : c.scrubEnable = s.settings.scrubEnable) :
    State.Paced { s with settings := c } := by
  have run : State.timerMayRun { s with settings := c } = s.timerMayRun := by simp only [State.timerMayRun, enable]
  exact { h with
    visible := by rw [visible]; exact h.visible
    timer := by rw [run]; exact h.timer
    due := by rw [run]; exact h.due
    placed := by rw [visible]; exact h.placed }

/-- In OFFLINE nothing is paced but the position. -/
theorem of_offline (offline : s.mode = .offline) (mode : t.mode = s.mode) (held : t.upstream.held = s.upstream.held)
    (timer : t.scrubber.timer = s.scrubber.timer) (state : t.scrubber.state = s.scrubber.state)
    (placed : t.scrubber.Placed t.settings.visible) : t.Paced := by
  obtain ⟨still, idle⟩ := h.calm (by simp [offline])
  have off : t.mode = .offline := mode.trans offline
  have none_run : t.timerMayRun = false := by simp [State.timerMayRun, off]
  exact {
    unserved := fun _ => (State.holdsServe_congr held).trans (h.unserved offline)
    serving := fun stopping => by simp [off] at stopping
    visible := fun on => absurd off on
    timer := by rw [timer, none_run, ← still]; exact h.timer
    due := by rw [state, idle]; nofun
    pending := by rw [state, idle]; nofun
    placed := placed }

theorem writeVisible (value : Nat) : (s.writeVisible value).Paced := by
  refine State.offlineOnly_of (P := State.Paced) (h.answerStatus _) fun offline => h.ranged fun _ => ?_
  split
  · exact h.answerStatus _
  · exact h.of_offline offline (by simp) (by simp) (by simp) (by simp) ⟨Nat.zero_le _, .inl rfl⟩

theorem writeSpares (value : Nat) : (s.writeSpares value).Paced := by
  refine State.offlineOnly_of (P := State.Paced) (h.answerStatus _) fun offline => h.ranged fun _ => ?_
  split
  · exact h.answerStatus _
  · refine h.of_offline offline (by simp) (by simp) (by simp) (by simp) ?_
    simpa using h.placed

theorem writeAutoSpare (value : Nat) : (s.writeAutoSpare value).Paced := by
  have set : State.Paced { s with settings := { s.settings with autoSpare := value == 1 } } := h.settingsSet rfl rfl
  refine h.ranged fun _ => answerStatus ?_ _
  split
  · exact set.of_same (by simp) (by simp) (by simp) (by simp) (by simp)
  · exact set

theorem writeScrubEnable (value : Nat) : (s.writeScrubEnable value).Paced := by
  refine h.ranged fun _ => answerStatus ?_ _
  split
  · rename_i on
    refine State.followTimer_paced h.unserved h.serving h.visible (fun due => ?_) h.pending h.placed
    obtain ⟨online, -, up⟩ := State.timerMayRun_iff.mp (h.due due)
    exact State.timerMayRun_iff.mpr ⟨online, on, up⟩
  · rw [State.withdrawScrub_eq]
    exact State.followTimer_paced h.unserved h.serving h.visible nofun nofun h.placed

theorem writeItem (item : Byte) (value : Nat) : (s.writeItem item value).Paced := by
  have plain : ∀ {low high : Nat} (c : Settings → Settings), (c s.settings).visible = s.settings.visible →
      (c s.settings).scrubEnable = s.settings.scrubEnable →
      (s.ranged low high value fun u => State.answerStatus { u with settings := c u.settings } .ok).Paced :=
    fun c visible enable => h.ranged fun _ => (h.settingsSet (c := c s.settings) visible enable).answerStatus _
  unfold State.writeItem
  split
  · exact h.writeVisible value
  · exact State.offlineOnly_of (P := State.Paced) (h.answerStatus _) fun _ => plain (fun c => { c with downstream := value }) rfl rfl
  · exact h.writeSpares value
  · exact plain (fun c => { c with correctedLimit := value }) rfl rfl
  · exact plain (fun c => { c with wordLimit := value }) rfl rfl
  · exact h.writeAutoSpare value
  · exact plain (fun c => { c with repairOnRead := value == 1 }) rfl rfl
  · exact h.writeScrubEnable value
  · exact h.ranged fun _ => (h.settingsSet (c := { s.settings with scrubInterval := value }) rfl rfl).checkIntervalTimer.answerStatus _
  · exact h.ranged fun _ => (h.settingsSet (c := { s.settings with linkTimeout := value }) rfl rfl).checkResponseTimer.answerStatus _
  · exact plain (fun c => { c with recordCorrected := value == 1 }) rfl rfl
  · exact plain (fun c => { c with alertEnables := flagsOfNat value }) rfl rfl
  · exact plain (fun c => { c with alertDepth := value }) rfl rfl
  · exact plain (fun c => { c with spareLowMark := value }) rfl rfl
  · exact h.answerStatus _

/-! ### The repair commands and the queue's -/

theorem releaseSpare (i : Nat) : (s.releaseSpare i).Paced := by
  unfold State.releaseSpare
  split
  · exact h.answerStatus _
  · split
    · exact h.answerStatus _
    · exact h.of_same (by simp) (by simp) (by simp) (by simp) (by simp)

theorem requestSpare (l : Location) : (s.requestSpare l).Paced := by
  unfold State.requestSpare
  split
  · exact h.answerStatus _
  · refine answerStatus (tryStart ?_) _
    exact h.of_same (by simp) (by simp) (by simp) (by simp) (by simp)

theorem cancelRequest (l : Location) : (s.cancelRequest l).Paced :=
  have kept := (State.heldLink_stable s.upstream.held s.port.link).cancelRequest ⟨rfl, rfl⟩ l
  h.of_same (by simp) (by simp) kept.1 kept.2 (by simp)

end State.Paced

theorem State.startOver_paced (s : State) (straps : BitVec 2) : (s.startOver straps).Paced where
  unserved _ := rfl
  serving := nofun
  visible on := absurd rfl on
  timer := by simp [State.startOver, State.poweredOn, State.timerMayRun]
  due := nofun
  pending := nofun
  placed := ⟨Nat.zero_le _, .inl rfl⟩

/-- Every command and every event keeps the pace. -/
theorem State.Paced.commandStable : CommandStable State.Paced where
  pending h _ := h.of_same rfl rfl rfl rfl rfl
  respond h _ _ := h.of_same rfl rfl rfl rfl rfl
  onBus h _ _ := h.of_same rfl rfl rfl rfl rfl
  tick h := h.tick
  startOver {s} _ := s.startOver_paced
  systemReset h := h.systemReset.tryStart
  accept h t _ := h.accept t
  leaveQueue h _ _ := h.leaveQueue
  grant {s} h := h.of_calmer (s.grant_calmer [])
  takeResponse h := h.takeResponse
  expireResponse h := h.expireResponse
  expireInterval h := h.expireInterval
  tryStart h := h.tryStart
  writeItem h := h.writeItem
  goOnline h := h.goOnline
  goOffline h := h.goOffline
  clearLink h := h.clearLink
  restoreRemap {s} h i state source := by
    unfold State.restoreRemap
    (repeat' split) <;> exact h.of_same rfl rfl rfl rfl rfl
  dropRemap {s} h i := by
    unfold State.dropRemap
    (repeat' split) <;> exact h.of_same rfl rfl rfl rfl rfl
  releaseSpare h := h.releaseSpare
  requestSpare h := h.requestSpare
  cancelRequest h l := (h.cancelRequest l).tryStart
  clearWatch {s} h slot := by
    unfold State.clearWatch
    (repeat' split) <;> exact h.of_same rfl rfl rfl rfl rfl
  popRecord {s} h := by
    unfold State.popRecord
    split <;> exact h.of_same rfl rfl rfl rfl rfl
  ackAlert h _ := h.of_same rfl rfl rfl rfl rfl
  inject {s} h address kind := by
    unfold State.inject
    (repeat' split) <;> exact h.of_same rfl rfl rfl rfl rfl

theorem State.trafficLaw_iff {s : State} :
    s.trafficLaw ↔ s.Traffic none ∧ s.Paced ∧ s.linkLaw ∧ s.migration.engine.Counted := by
  constructor
  · rintro ⟨⟨few, idle, unserved, serving, serve⟩, link, access, work, timer, due, pending, online, line, block, visible⟩
    obtain ⟨counted, flies⟩ := State.workLaw_iff.mp work
    exact ⟨⟨few, idle, serve, access, flies, by simpa using pending, nofun, nofun⟩,
      ⟨unserved, serving, visible, timer, due, online, line, block⟩, link, counted⟩
  · rintro ⟨⟨few, idle, serve, access, flies, pending, -, -⟩, ⟨unserved, serving, visible, timer, due, online, line, block⟩, link,
      counted⟩
    exact ⟨⟨few, idle, unserved, serving, serve⟩, link, access, State.workLaw_iff.mpr ⟨counted, flies⟩, timer, due,
      by simpa using pending, online, line, block, visible⟩

/-- Settles O57: the accesses, the modes and the timer, the link, and the engine's counts are each kept by every step. -/
theorem accessInvariant : Obligations.AccessInvariant := by
  unfold Obligations.AccessInvariant
  intro s t law next
  obtain ⟨traffic, paced, link, counted⟩ := State.trafficLaw_iff.mp law
  exact State.trafficLaw_iff.mpr ⟨State.Traffic.commandStable.step traffic next, State.Paced.commandStable.step paced next,
    State.linkLaw_stepStable.step link next, Engine.counted_stepStable.step counted next⟩

end Sys2Proof.Machine

namespace Sys2Proof.Machine

/-! ## The table reads (O50) -/

/-- A number is sent as the bytes that give it (R156). -/
theorem leBytes_leValue (bytes : List Byte) : leBytes bytes.length (leValue bytes) = bytes := by
  induction bytes with
  | nil => rfl
  | cons b rest ih =>
    have low : BitVec.ofNat 8 (b.toNat + 256 * leValue rest) = b := by bv_omega
    have high : (b.toNat + 256 * leValue rest) / 256 = leValue rest := by omega
    simp only [leValue, List.length_cons, leBytes, low, high, ih]

theorem locationBytes_of_leValue {location : Location} {kind b0 b1 b2 : Byte} {number : Nat} (value : leValue [b0, b1, b2] = number)
    (h : location = .visible number ∧ kind = 0 ∨ location = .spare number ∧ kind = 1) :
    locationBytes location = [kind, b0, b1, b2] := by
  have bytes : leBytes 3 number = [b0, b1, b2] := value ▸ leBytes_leValue [b0, b1, b2]
  rcases h with ⟨rfl, rfl⟩ | ⟨rfl, rfl⟩ <;> simp [locationBytes, bytes]

theorem bitsByte_low (b c : Bool) : bitsByte b c false false false false false false = BitVec.ofNat 8 (b.toNat + 2 * c.toNat) := by
  cases b <;> cases c <;> rfl

theorem exec_readRemap (s : State) (i : Byte) :
    exec (.readRemap s.management.address [i]) s = .next (if i.toNat < 64
      then s.answered .ok (remapPayload i (entryAt s.remap i.toNat)) else s.answered .badArgument []) := by
  refine congrArg Host.Outcome.next ((s.takeCommand_own [i] _).trans ?_)
  simp only [State.readRemap, List.getD_cons_zero]
  split <;> rfl

theorem exec_readQueue (s : State) (i : Byte) :
    exec (.readQueue s.management.address [i]) s = .next (if 8 ≤ i.toNat then s.answered .badArgument []
      else match s.migration.queue[i.toNat]? with
        | some r => s.answered .ok (requestPayload i r)
        | none => s.answered .notFound []) := by
  refine congrArg Host.Outcome.next ((s.takeCommand_own [i] _).trans ?_)
  simp only [State.readQueue, List.getD_cons_zero]
  split
  · rfl
  · split <;> rename_i h <;> simp only [State.onBus_migration] at h <;> rw [h] <;> rfl

theorem exec_readWatch (s : State) (i : Byte) :
    exec (.readWatch s.management.address [i]) s = .next (if 32 ≤ i.toNat then s.answered .badArgument []
      else match s.watch.entryIn i.toNat with
        | some e => s.answered .ok (watchPayload i e)
        | none => s.answered .notFound []) := by
  refine congrArg Host.Outcome.next ((s.takeCommand_own [i] _).trans ?_)
  simp only [State.readWatch, List.getD_cons_zero]
  split
  · rfl
  · split <;> rename_i h <;> simp only [State.onBus_watch] at h <;> rw [h] <;> rfl

/-- The offset bytes of READ_WATCH: the offsets seen, then zeros (R176). -/
theorem offsetBytes {offsets : List Nat} (few : offsets.length ≤ 4) :
    (List.range 4).map (fun k => byteOf (offsets.getD k 0))
      = offsets.map (BitVec.ofNat 8) ++ List.replicate (4 - offsets.length) 0 := by
  refine List.ext_getElem (by simp; omega) fun k hk _ => ?_
  rw [List.length_map, List.length_range] at hk
  by_cases seen : k < offsets.length
  · simp [byteOf, seen]
  · rw [List.getElem_append_right (by simpa using seen)]
    simp [byteOf, seen]

/-- The bytes READ_REMAP sends of an entry (R174). -/
theorem remapRead (s : State) (i : Byte) {bytes : List Byte} (below : i.toNat < 64) {entry : RemapEntry}
    (he : entryAt s.remap i.toNat = entry) (payload : remapPayload i entry = bytes) :
    exec (.readRemap s.management.address [i]) s = .next (s.answered .ok bytes) := by
  rw [exec_readRemap, if_pos below, he, payload]

theorem queueRead (s : State) (i : Byte) (below : i.toNat < 8) {r : Request} (hr : s.migration.queue[i.toNat]? = some r)
    {kind b0 b1 b2 : Byte} (bytes : locationBytes r.location = [kind, b0, b1, b2]) :
    exec (.readQueue s.management.address [i]) s = .next (s.answered .ok
      [i, kind, b0, b1, b2, if r.origin = .auto then 0 else 1, BitVec.ofNat 8 (r.retried.toNat + 2 * r.started.toNat)]) := by
  have origin : r.origin.code = if r.origin = .auto then 0 else 1 := by cases r.origin <;> rfl
  rw [exec_readQueue, if_neg (by omega), hr]
  simp only [requestPayload, bytes, origin, bitsByte_low]
  rfl

theorem watchRead (s : State) (i : Byte) (below : i.toNat < 32) {e : WatchEntry} (he : s.watch.entryIn i.toNat = some e)
    {kind b0 b1 b2 c0 c1 c2 c3 code : Byte} (bytes : locationBytes e.location = [kind, b0, b1, b2]) (few : e.offsets.length ≤ 4)
    (stamp : leValue [c0, c1, c2, c3] = e.stamp.toNat)
    (state : (e.state, code) ∈ [(WatchState.tracking, 0#8), (.waiting, 1#8), (.queued, 2#8)]) :
    exec (.readWatch s.management.address [i]) s = .next (s.answered .ok
      ([i, kind, b0, b1, b2, BitVec.ofNat 8 e.corrected, BitVec.ofNat 8 e.offsets.length]
        ++ e.offsets.map (BitVec.ofNat 8) ++ List.replicate (4 - e.offsets.length) 0
        ++ [BitVec.ofNat 8 e.uncorrectable.toNat, code, c0, c1, c2, c3])) := by
  have stamped : leBytes 4 e.stamp.toNat = [c0, c1, c2, c3] := stamp ▸ leBytes_leValue [c0, c1, c2, c3]
  have coded : e.state.code = code := by
    cases hs : e.state <;> simp [hs, WatchState.code] at state ⊢ <;> exact state.symm
  have flag : bitsByte e.uncorrectable false false false false false false false = BitVec.ofNat 8 e.uncorrectable.toNat :=
    (bitsByte_low _ false).trans (by simp)
  rw [exec_readWatch, if_neg (by omega), he]
  simp only [watchPayload, bytes, stamped, coded, flag, offsetBytes few]
  simp [byteOf]

/-- Settles O50: each read answers with the payload of what stands at its index. -/
theorem tableReads : Obligations.TableReads := by
  intro s i
  refine ⟨fun beyond => ?_, fun below => ⟨?_, ?_, ?_, ?_⟩, fun beyond => ?_, fun below vacant => ?_, fun beyond => ?_,
    fun below vacant => ?_, ?_⟩
  · rw [exec_readRemap, if_neg (by omega)]
  · exact fun unused => remapRead s i below unused rfl
  · exact fun free => remapRead s i below free rfl
  · intro reason code listed retired
    refine remapRead s i below retired ?_
    simp only [List.mem_cons, Prod.mk.injEq, List.not_mem_nil, or_false] at listed
    obtain ⟨rfl, rfl⟩ | ⟨rfl, rfl⟩ | ⟨rfl, rfl⟩ := listed <;> rfl
  · intro origin code source b0 b1 b2 listed value
    have bytes : leBytes 3 source = [b0, b1, b2] := value ▸ leBytes_leValue [b0, b1, b2]
    have coded : origin.code = code := by
      simp only [List.mem_cons, Prod.mk.injEq, List.not_mem_nil, or_false] at listed
      obtain ⟨rfl, rfl⟩ | ⟨rfl, rfl⟩ | ⟨rfl, rfl⟩ := listed <;> rfl
    refine ⟨fun he => ?_, fun he => ?_, fun cursor he => ?_, fun j cursor he => ?_⟩ <;>
      exact remapRead s i below he (by simp [remapPayload, bytes, coded, CopyFrom.code, byteOf])
  · rw [exec_readQueue, if_pos beyond]
  · rw [exec_readQueue, if_neg (by omega), vacant]
  · rw [exec_readWatch, if_pos beyond]
  · rw [exec_readWatch, if_neg (by omega), vacant]
  · intro location kind b0 b1 b2 number value names
    have bytes := locationBytes_of_leValue value names
    refine ⟨fun r below hr at_location => queueRead s i below hr (at_location ▸ bytes), ?_⟩
    exact fun e c0 c1 c2 c3 code below he at_location few stamp state => watchRead s i below he (at_location ▸ bytes) few stamp state

end Sys2Proof.Machine

namespace Sys2Proof.Machine

/-! ## The grants (O20) -/

/-- The span of the partial words runs from the first to the last of them (R83). -/
theorem partialSpan_eq {words : List WriteWord} {first last : Nat}
    (inside : ∀ k w, words[k]? = some w → isPartial w = true → first ≤ k ∧ k ≤ last)
    (hf : ∃ w, words[first]? = some w ∧ isPartial w = true) (hl : ∃ w, words[last]? = some w ∧ isPartial w = true) :
    partialSpan words = some (first, last) := by
  obtain ⟨w, at_first, first_partial⟩ := hf
  obtain ⟨v, at_last, last_partial⟩ := hl
  obtain ⟨first_lt, rfl⟩ := List.getElem?_eq_some_iff.mp at_first
  obtain ⟨last_lt, rfl⟩ := List.getElem?_eq_some_iff.mp at_last
  have front : words.findIdx? isPartial = some first :=
    List.findIdx?_eq_some_iff_getElem.mpr ⟨first_lt, first_partial, fun j before is_partial => by
      have := (inside j _ (List.getElem?_eq_getElem (by omega)) is_partial).1
      omega⟩
  have back : words.reverse.findIdx? isPartial = some (words.length - 1 - last) := by
    refine List.findIdx?_eq_some_iff_getElem.mpr ⟨by rw [List.length_reverse]; omega, ?_, fun j before is_partial => ?_⟩
    · have place : words.length - 1 - (words.length - 1 - last) = last := by omega
      simpa [List.getElem_reverse, place] using last_partial
    · rw [List.getElem_reverse] at is_partial
      have := (inside _ _ (List.getElem?_eq_getElem (by omega)) is_partial).2
      omega
  simp only [partialSpan, front, back, Option.some.injEq, Prod.mk.injEq, true_and]
  omega

theorem exec_arbiterGrant {s : State} {r : Requester} (free : s.port.outstanding = none) (choice : s.choose [] = some r) :
    exec .arbiterGrant s = .next ((s.countPassOver [] r).grantTo r) :=
  congrArg Host.Outcome.next (State.grant_of_choice free choice)

/-- The issue of a READ_RUN or of a write-back cancels no write-back (R119). -/
theorem State.issue_uncancelling {p : Purpose} (keeps : ¬(p.isWrite = true ∧ p ≠ .writeBack)) (s : State)
    (block line first count : Nat) (words : List StoredWord) : s.issue p block line first count words = { s with
      port := { s.port with
        lastTag := nextTag s.port.lastTag s.port.abandoned
        outstanding := some
          { purpose := p, block := block, line := line, first := first, count := count, words := words,
            tag := nextTag s.port.lastTag s.port.abandoned, elapsed := 0, discarded := false } } } :=
  if_neg keeps

/-- Settles O20: the arbiter's choice is granted, and each grant issues the one access its requester's state calls for. -/
theorem grantIssuesAccess : Obligations.GrantIssuesAccess := by
  intro s free
  refine ⟨fun a n choice hp hc => ?_, fun a n words first last choice hp hc _ inside hf hl => ?_, fun e rest choice hb => ?_,
    fun choice => ?_, fun work source copyFrom cursor origin choice hw entry => ⟨fun reading => ?_, fun buffer writing => ?_⟩⟩
  all_goals rw [exec_arbiterGrant free choice]
  · have granted : (s.countPassOver [] .upstream).grantUpstream = (s.countPassOver [] .upstream).issue .fetch
        (readRoute s.settings.visible s.remap (blockOf a) (lineOf a)) (lineOf a) (wordOf a) n [] := by
      rw [State.grantUpstream, show (s.countPassOver [] .upstream).upstream.progress = .fetch from hp,
        show (s.countPassOver [] .upstream).current = some (.read a n) from hc]
      rfl
    rw [State.grantTo, granted, State.issue_uncancelling (by decide)]
    rfl
  · have granted : (s.countPassOver [] .upstream).grantUpstream = (s.countPassOver [] .upstream).issue .mergeRead
        (readRoute s.settings.visible s.remap (blockOf a) (lineOf a)) (lineOf a) (wordOf a + first) (last + 1 - first) [] := by
      rw [State.grantUpstream, show (s.countPassOver [] .upstream).upstream.progress = .mergeRead from hp,
        show (s.countPassOver [] .upstream).current = some (.write a n words) from hc]
      simp only [partialSpan_eq inside hf hl]
      rfl
    rw [State.grantTo, granted, State.issue_uncancelling (by decide)]
    rfl
  · have granted : (s.countPassOver [] .writeBack).grantWriteBack
        = (s.countPassOver [] .writeBack).issue .writeBack e.block e.line e.word 1 [cleanForm e.data] := by
      rw [State.grantWriteBack, show (s.countPassOver [] .writeBack).writeBack.entries = e :: rest from hb]
    rw [State.grantTo, granted, State.issue_uncancelling (by decide)]
    rfl
  · rw [State.grantTo, State.grantScrub, State.issue_uncancelling (by decide)]
    rfl
  · have granted : (s.countPassOver [] .migration).grantMigration = State.issue { s.countPassOver [] .migration with
          migration := { s.migration with engine := .copying { work with inFlight := true, holding := work.held } } } .copyRead
        (fromBlock s.settings.visible source copyFrom) cursor 0 16 [] := by
      rw [State.grantMigration, show (s.countPassOver [] .migration).migration.engine = .copying work from hw]
      simp only [State.grantCopy]
      rw [show (s.countPassOver [] .migration).remap = s.remap from rfl, entry, reading]
      rfl
    rw [State.grantTo, granted, State.issue_uncancelling (by decide)]
    rfl
  · have granted : (s.countPassOver [] .migration).grantMigration = (s.countPassOver [] .migration).issue .copyWrite
        (s.settings.visible + work.target) cursor 0 16 buffer := by
      rw [State.grantMigration, show (s.countPassOver [] .migration).migration.engine = .copying work from hw]
      simp only [State.grantCopy]
      rw [show (s.countPassOver [] .migration).remap = s.remap from rfl, entry, writing]
      rfl
    rw [State.grantTo, granted, State.issue_store (by decide)]
    rfl

end Sys2Proof.Machine

namespace Sys2Proof.Machine

/-! ## The arbiter's order (O19) -/

theorem Requester.rank_baseOrder {i : Nat} (hi : i < [Requester.upstream, .writeBack, .migration, .scrub].length) :
    i = ([Requester.upstream, .writeBack, .migration, .scrub][i]).rank := by
  match i, hi with
  | 0, _ | 1, _ | 2, _ | 3, _ => rfl

theorem Requester.baseOrder_rank (q : Requester) (hq : q.rank < [Requester.upstream, .writeBack, .migration, .scrub].length) :
    [Requester.upstream, .writeBack, .migration, .scrub][q.rank] = q := by
  cases q <;> rfl

/-- The choice goes by the counts first, then by the base order (R117). -/
theorem State.choose_order {s : State} {r : Requester} (choice : s.choose [] = some r) :
    (s.waiting .migration = true → s.port.migrationPassed = 32 → r = .migration)
      ∧ (s.waiting .scrub = true → s.port.scrubPassed = 32 → r = .scrub ∨ r = .migration ∧ s.port.migrationPassed = 32)
      ∧ (¬(s.waiting .migration = true ∧ s.port.migrationPassed = 32) → ¬(s.waiting .scrub = true ∧ s.port.scrubPassed = 32) →
          ∀ q : Requester, q.rank < r.rank → s.waiting q = false) := by
  unfold State.choose at choice
  simp only [State.candidate_nil] at choice
  split at choice
  · rename_i first
    cases choice
    exact ⟨fun _ _ => rfl, fun _ _ => .inr ⟨rfl, first.2⟩, fun other => absurd first other⟩
  · rename_i no_migration
    split at choice
    · rename_i second
      cases choice
      exact ⟨fun asks full => absurd ⟨asks, full⟩ no_migration, fun _ _ => .inl rfl, fun _ other => absurd second other⟩
    · rename_i no_scrub
      refine ⟨fun asks full => absurd ⟨asks, full⟩ no_migration, fun asks full => absurd ⟨asks, full⟩ no_scrub, fun _ _ q below => ?_⟩
      obtain ⟨-, i, hi, at_i, earlier⟩ := List.find?_eq_some_iff_getElem.mp choice
      have place : i = r.rank := at_i ▸ Requester.rank_baseOrder hi
      have found := earlier q.rank (place ▸ below)
      rwa [Requester.baseOrder_rank, Bool.not_eq_true'] at found

theorem State.choose_isSome {s : State} {r : Requester} (asks : s.waiting r = true) : ∃ q, s.choose [] = some q := by
  unfold State.choose
  simp only [State.candidate_nil]
  split
  · exact ⟨_, rfl⟩
  · split
    · exact ⟨_, rfl⟩
    · refine Option.isSome_iff_exists.mp (List.find?_isSome.mpr ⟨r, ?_, by simpa using asks⟩)
      cases r <;> simp

/-- The counts after a grant: 0 for the requester granted, one more for a request passed over (R117). -/
theorem State.countPassOver_migrationPassed (s : State) (r : Requester) : (s.countPassOver [] r).port.migrationPassed
    = if r = .migration then 0 else passedOver (s.waiting .migration) s.port.migrationPassed := by
  show passOver _ (s.candidate [] .migration) _ = _
  rw [State.candidate_nil]
  cases r <;> rfl

theorem State.countPassOver_scrubPassed (s : State) (r : Requester) : (s.countPassOver [] r).port.scrubPassed
    = if r = .scrub then 0 else passedOver (s.waiting .scrub) s.port.scrubPassed := by
  show passOver _ (s.candidate [] .scrub) _ = _
  rw [State.candidate_nil]
  cases r <;> rfl

/-- A line is held while the attempt that holds it stands at it (R48). -/
theorem State.lineHeld_iff {s : State} {block line : Nat} : s.lineHeld block line = true ↔
    ∃ copy copyFrom origin, s.migration.engine = .copying copy ∧ copy.holding = true
      ∧ entryAt s.remap copy.target = .copying block copyFrom line origin := by
  unfold State.lineHeld
  constructor
  · intro held
    split at held
    · rename_i copy hw
      split at held
      · rename_i source copyFrom cursor origin entry
        simp only [Bool.and_eq_true, beq_iff_eq] at held
        obtain ⟨⟨holding, rfl⟩, rfl⟩ := held
        exact ⟨copy, copyFrom, origin, hw, holding, entry⟩
      all_goals cases held
    all_goals cases held
  · rintro ⟨copy, copyFrom, origin, hw, holding, entry⟩
    simp [hw, entry, holding]

/-- While the link is UP and none of its accesses is awaited, a store asks but for the first access to a held line (R100). -/
theorem State.waiting_store {s : State} {t : Transaction} {store : StoreWork} (up : s.port.link = .up)
    (hp : s.upstream.progress = .store store) (hc : s.current = some t) (free : s.awaiting .upstream = false) :
    s.waiting .upstream = !(store.dual.isNone && s.lineHeld (blockOf (firstAddress t)) (lineOf (firstAddress t))) := by
  simp [State.waiting, State.waitsOnHeldLine, up, hp, hc, free, Progress.needsAccess]

/-- The first access to a held line asks for none (R48, R100, R114). -/
theorem State.waiting_held {s : State} {t : Transaction} {store : StoreWork} (hp : s.upstream.progress = .store store)
    (hc : s.current = some t) (hd : store.dual = none)
    (held : s.lineHeld (blockOf (firstAddress t)) (lineOf (firstAddress t)) = true) : s.waiting .upstream = false := by
  cases link : s.port.link <;> simp [State.waiting, State.waitsOnHeldLine, link, hp, hc, hd, held]

/-- The engine holds no line. -/
def Engine.Loose (e : Engine) : Prop := ∀ work ∈ e.work?, work.holding = false

theorem Engine.Loose.attemptAt {overtakes : Nat} (target : Nat) : (Engine.copying (CopyWork.attemptAt target overtakes)).Loose := by
  rintro work ⟨⟩
  rfl

theorem State.lineHeld_of_loose {s : State} (h : s.migration.engine.Loose) (block line : Nat) : s.lineHeld block line = false := by
  refine Bool.eq_false_iff.mpr fun held => ?_
  obtain ⟨copy, -, -, hw, holding, -⟩ := State.lineHeld_iff.mp held
  simp [h copy (by rw [hw]; rfl)] at holding

/-- The upstream port and the memory-side port as given, and no line held. -/
structure State.Unheld (upstream : Upstream) (port : MemoryPort) (t : State) : Prop where
  upstream : t.upstream = upstream
  port : t.port = port
  loose : t.migration.engine.Loose

theorem State.Unheld.tryStable (upstream : Upstream) (port : MemoryPort) : TryStable (State.Unheld upstream port) where
  record h _ := { h with }
  queued h _ _ := { h with }
  joined h _ _ _ _ := { h with }
  waits h _ _ := { h with }
  counted h _ _ _ _ _ _ _ _ := { h with }
  untracked h := { h with }
  offered h _ := { h with }
  withdrawn h _ _ _ _ _ := { h with }
  reordered h _ _ := { h with }
  begun h _ _ _ fresh := { h with
    loose := by
      rcases fresh with rfl | ⟨target, rfl⟩
      · nofun
      · exact .attemptAt target }

/-- With no spare write pending, no fate is learnt (R23). -/
theorem State.Unheld.settleFate {upstream : Upstream} {port : MemoryPort} {t : State} (h : t.Unheld upstream port)
    {store : StoreWork} (hp : upstream.progress = .store store) (hd : store.dual = none) (fate : MigrationFate) :
    (t.settleFate fate).Unheld upstream port := by
  have same : t.upstream.progress.withFate fate = t.upstream.progress := by
    rw [h.upstream, hp, Progress.withFate, hd, Option.map_none, ← hd]
  rw [State.settleFate_eq, same]
  exact { h with }

section
variable {s : State} {store : StoreWork} {copy : CopyWork} (hp : s.upstream.progress = .store store) (hd : store.dual = none)
  (free : s.port.outstanding = none) (hw : s.migration.engine = .copying copy)
include hp hd hw

omit hw in
theorem State.completeMigration_unheld (some_request : s.migration.queue ≠ []) (work : CopyWork) :
    (s.completeMigration work).Unheld s.upstream s.port := by
  have k := State.Unheld.tryStable s.upstream s.port
  unfold State.completeMigration
  split
  · rename_i empty
    exact absurd empty some_request
  · refine k.placeFreed (k.record (State.Unheld.settleFate ?_ hp hd _) _)
    exact ⟨rfl, rfl, nofun⟩

include free

theorem State.abortMigration_unheld (some_request : s.migration.queue ≠ []) (cause : AbortCause) :
    (s.abortMigration cause).Unheld s.upstream { s.port with migrationPassed := 0 } := by
  have k := State.Unheld.tryStable s.upstream { s.port with migrationPassed := 0 }
  unfold State.abortMigration
  split
  · rename_i work r rest _ hq
    refine k.disposeRequest (k.record (State.Unheld.settleFate ?_ hp hd _) _) cause (by simpa using hq) _
    rw [State.discardOutstanding_eq]
    exact ⟨rfl, by simp [free], nofun⟩
  · rename_i empty
    exact absurd empty some_request
  all_goals simp_all

/-- A copy access ends, OK after a write, or failed with the migration: no line is held after it (R44, R48, R51). -/
theorem State.hand_unheld {a : Access} {ending : Ending} (taken : a.discarded = false) (some_request : s.migration.queue ≠ [])
    (ends : a.purpose = .copyWrite ∨ a.purpose = .copyRead ∧ 3 ≤ copy.attempt ∧ ending = .failed) :
    ∃ passed, (s.hand a ending).Unheld s.upstream { s.port with migrationPassed := passed } := by
  have done : ∀ t : State, t.Unheld s.upstream s.port → ∃ passed, t.Unheld s.upstream { s.port with migrationPassed := passed } :=
    fun t ht => ⟨s.port.migrationPassed, ht⟩
  have aborted : ∀ cause, ∃ passed, (s.abortMigration cause).Unheld s.upstream { s.port with migrationPassed := passed } :=
    fun cause => ⟨0, State.abortMigration_unheld hp hd free hw some_request cause⟩
  unfold State.hand
  rw [if_neg (by simp [taken])]
  rcases ends with write | ⟨read, last, rfl⟩
  · simp only [write, State.endCopyWrite, hw]
    cases ending with
    | failed => exact aborted _
    | ok words =>
      dsimp only
      split
      · exact done _ ⟨rfl, rfl, .attemptAt _⟩
      · split
        · exact done _ ⟨rfl, rfl, .attemptAt _⟩
        · exact done _ (State.completeMigration_unheld hp hd some_request _)
  · simp only [read, State.endCopyRead, hw]
    rw [if_neg (by omega)]
    exact aborted _

end

/-- With the link UP and no line held, a store run asks (R48, R100). -/
theorem State.Unheld.waits {t : State} {upstream : Upstream} {port : MemoryPort} (h : t.Unheld upstream port) (up : port.link = .up)
    (free : port.outstanding = none) {store : StoreWork} (hp : upstream.progress = .store store)
    {first : Held} {rest : List Held} (hh : upstream.held = first :: rest) : t.waiting .upstream = true := by
  rw [State.waiting_store (t := first.transaction) (store := store), State.lineHeld_of_loose h.loose, Bool.and_false, Bool.not_false]
  · rw [h.port, up]
  · rw [h.upstream, hp]
  · rw [State.current, h.upstream, hh]
    rfl
  · exact State.awaiting_of_free (by rw [h.port, free]) _

/-- Settles O19: the arbiter's order, and a store's request withdrawn and brought back with the hold of its line. -/
theorem arbiterOrder : Obligations.ArbiterOrder := by
  refine ⟨fun s => ⟨?_, fun down r => by simp [State.waiting, down], fun _ r => State.choose_isSome, fun free r choice => ?_⟩,
    fun s t store up hp hc => ⟨fun free => ?_, fun copy hw hd => ⟨?_, ?_⟩⟩⟩
  · rintro (busy | none_waits)
    · obtain ⟨a, ha⟩ := Option.ne_none_iff_exists'.mp busy
      simp [exec, execArbiterGrant, State.grant, ha]
    · rcases s.grant_cases [] with none_made | ⟨r, -, choice, -⟩
      · exact congrArg Host.Outcome.next none_made
      · exact absurd (State.choose_some choice).2 (by simp [none_waits r])
  · obtain ⟨first, second, order⟩ := State.choose_order choice
    obtain ⟨tag, access, port⟩ := (s.countPassOver [] r).grantTo_port r
    refine ⟨(State.choose_some choice).2, first, second, order, _, exec_arbiterGrant free choice, ?_, ?_⟩
    · rw [port]
      exact State.countPassOver_migrationPassed s r
    · rw [port]
      exact State.countPassOver_scrubPassed s r
  · rw [State.waiting_store up hp hc free, ← State.lineHeld_iff]
    simp
  · intro copyFrom origin free choice held reading entry
    obtain ⟨-, -, -, -, copies⟩ := grantIssuesAccess s free
    refine ⟨_, (copies copy _ _ _ origin choice hw entry).1 reading, rfl, State.waiting_held hp hc hd ?_⟩
    exact State.lineHeld_iff.mpr ⟨_, copyFrom, origin, rfl, held, entry⟩
  · intro a c u ho taken some_request ends
    obtain ⟨first, hh, -⟩ := Option.map_eq_some_iff.mp hc
    obtain ⟨rest, hh⟩ : ∃ rest, s.upstream.held = first :: rest := by
      cases held : s.upstream.held with
      | nil => simp [held] at hh
      | cons x rest => exact ⟨rest, by rw [held, List.head?_cons, Option.some.injEq] at hh; rw [hh]⟩
    have answered : ∀ v : State, ∀ ending, v.upstream = s.upstream → v.migration = s.migration → v.port.link = .up →
        v.port.outstanding = none → (a.purpose = .copyWrite ∨ a.purpose = .copyRead ∧ 3 ≤ copy.attempt ∧ ending = .failed) →
        (v.hand a ending).settle.upstream = s.upstream ∧ (v.hand a ending).settle.waiting .upstream = true := by
      intro v ending upstream migration linked free mine
      rw [← upstream] at hp hh ⊢
      obtain ⟨passed, handed⟩ := State.hand_unheld hp hd free (by rw [migration, hw]) taken (by rw [migration]; exact some_request) mine
      rw [State.settle_of_up (by rw [handed.port]; exact linked)]
      have tried := (State.Unheld.tryStable _ _).tryStart handed
      exact ⟨tried.upstream, tried.waits linked free hp hh⟩
    have failed : s.failsBy a c u → (a.purpose = .copyWrite ∨ a.purpose = .copyRead ∧ 3 ≤ copy.attempt) →
        ∃ v, exec c s = .next v ∧ v.upstream = s.upstream ∧ v.waiting .upstream = true := by
      intro fails mine
      obtain ⟨-, -, -, migration, -, upstream, linked, free, -⟩ := State.failsBy_keeps fails
      refine ⟨_, exec_of_failsBy ho fails, answered u .failed upstream migration (linked.trans up) free ?_⟩
      exact mine.imp_right fun ⟨read, last⟩ => ⟨read, last, rfl⟩
    rcases ends with ⟨write, rfl | fails⟩ | ⟨read, last, fails⟩
    · exact ⟨_, exec_write_ok ho (by rw [write]; rfl), answered s.freeSlot _ rfl rfl up rfl (.inl write)⟩
    · exact failed fails (.inl write)
    · exact failed fails (.inr ⟨read, last⟩)

end Sys2Proof.Machine

namespace Sys2Proof.Machine

/-! ## Tries that start nothing (O36) -/

/-- With AUTO_SPARE off no place freed is filled, and fuel for each request is enough. -/
theorem State.tryLoop_enough_of_off {n m : Nat} {s : State} (off : s.settings.autoSpare = false)
    (hn : s.migration.queue.length ≤ n) (hm : s.migration.queue.length ≤ m) : State.tryLoop n s = State.tryLoop m s := by
  have stuck : ∀ {u : State}, u.migration.queue.length ≤ 0 → u.mayTry = false := fun none_left =>
    State.mayTry_of_empty (List.eq_nil_of_length_eq_zero (Nat.le_zero.mp none_left))
  induction n generalizing m s with
  | zero => rw [State.tryLoop_of_settled (stuck hn), State.tryLoop_of_settled (stuck hn)]
  | succ n ih =>
    cases m with
    | zero => rw [State.tryLoop_of_settled (stuck hm), State.tryLoop_of_settled (stuck hm)]
    | succ m =>
      unfold State.tryLoop
      split
      · split
        · rfl
        · rename_i r rest hq
          split
          · rfl
          · have left : (s.dropStale r.location rest).migration.queue = rest := by
              simp [State.dropStale, State.placeFreed, State.setQueue, State.makeRecord, off]
            rw [hq, List.length_cons] at hn hm
            exact ih (by simpa using off) (by rw [left]; omega) (by rw [left]; omega)
      · rfl

/-- A try that meets a stale head removes it and goes on, as a try of its own, with the heads behind it. -/
theorem State.tryStart_stale {s : State} {r : Request} {rest : List Request} (due : s.mayTry = true)
    (hq : s.migration.queue = r :: rest) (stale : s.validRequest r.location = false)
    (watch : s.settings.autoSpare = true → s.watchLaw) : s.tryStart = (s.dropStale r.location rest).tryStart := by
  have fuel : s.migration.queue.length + 33 = rest.length + 33 + 1 := by rw [hq, List.length_cons, Nat.add_right_comm]
  have dropped : s.tryStart = State.tryLoop (rest.length + 33) (s.dropStale r.location rest) := by
    rw [State.tryStart, fuel, State.tryLoop, if_pos due]
    simp only [hq, stale, Bool.false_eq_true, if_false]
  rw [dropped, State.tryStart]
  cases auto : s.settings.autoSpare with
  | true =>
    have distinct := WatchTable.distinct_of_nodup (watch auto).1
    obtain ⟨still, less⟩ := State.dropStale_toTry distinct hq
    have few := s.watch.card_waitingSlots_le
    have few' := (s.dropStale r.location rest).watch.card_waitingSlots_le
    have size : s.toTry = rest.length + 1 + s.watch.waitingSlots.card := by rw [State.toTry, hq, List.length_cons]
    refine State.tryLoop_enough still (by omega) ?_
    rw [State.toTry]
    omega
  | false =>
    have left : (s.dropStale r.location rest).migration.queue = rest := by
      simp [State.dropStale, State.placeFreed, State.setQueue, State.makeRecord, auto]
    exact State.tryLoop_enough_of_off (by simpa using auto) (by rw [left]; omega) (by rw [left]; omega)

theorem State.validRequest_stale {s : State} {l : Location}
    (stale : (∃ b, l = .visible b ∧ (s.settings.visible ≤ b ∨ ∃ i, i < 64 ∧ (entryAt s.remap i).routed? = some b))
      ∨ ∃ j, l = .spare j ∧ (s.settings.spares ≤ j ∨ (entryAt s.remap j).isActive = false)) : s.validRequest l = false := by
  rcases stale with ⟨b, rfl, outside | ⟨i, hi, routed⟩⟩ | ⟨j, rfl, outside | inactive⟩
  · simp [State.validRequest, Nat.not_lt.mpr outside]
  · have found : (entryFor s.remap b).isNone = false := by
      cases hf : entryFor s.remap b with
      | some _ => rfl
      | none => exact absurd (entryFor_none hf hi) (by simp [RemapEntry.routes_iff.mpr routed])
    simp [State.validRequest, found]
  · simp [State.validRequest, Nat.not_lt.mpr outside]
  · simp [State.validRequest, inactive]

/-- A valid head with no FREE entry blocks the engine (R40). -/
theorem State.tryStart_blocks {s : State} {r : Request} {rest : List Request} (due : s.mayTry = true)
    (hq : s.migration.queue = r :: rest) (valid : s.validRequest r.location = true) (full : lowestFree s.remap = none) :
    s.tryStart = s.block r.location := by
  rw [State.tryStart, show s.migration.queue.length + 33 = s.migration.queue.length + 32 + 1 from rfl, State.tryLoop, if_pos due]
  simp only [hq, valid, full, if_true]

/-- Settles O36: a try goes by its conditions, then by whether the head is valid, then by the entries. -/
theorem tryWithoutStart : Obligations.TryWithoutStart := by
  refine fun s => ⟨fun fails => ?_, fun online idle up single => ?_⟩
  · have stuck : s.mayTry = false := Bool.eq_false_iff.mpr fun due => by
      obtain ⟨online, idle, some_request, up, single⟩ := State.mayTry_iff.mp due
      rcases fails with off | busy | empty | down | pending
      · exact off online
      · exact busy idle
      · exact some_request empty
      · simp [up] at down
      · simp [single] at pending
    rw [exec_migrationStart, State.tryStart_of_settled stuck]
  · have due : ∀ {r rest}, s.migration.queue = r :: rest → s.mayTry = true := fun hq =>
      State.mayTry_iff.mpr ⟨online, idle, by simp [hq], up, single⟩
    refine ⟨fun r rest hq watch stale => ?_, fun r rest hq full valid => ?_⟩
    · rw [exec_migrationStart, exec_migrationStart, State.tryStart_stale (due hq) hq (State.validRequest_stale stale) watch, ← idle]
      rfl
    · have none_free : lowestFree s.remap = none := by
        cases found : lowestFree s.remap with
        | none => rfl
        | some i => exact absurd (lowestFree_some found).2.1 (full i (lowestFree_some found).1)
      have is_valid : s.validRequest r.location = true := by
        rcases valid with ⟨b, hb, inside, unrouted⟩ | ⟨j, source, origin, hj, inside, active⟩
        · rw [hb]
          exact State.validRequest_visible inside unrouted
        · rw [hj]
          exact State.validRequest_spare inside active
      rw [exec_migrationStart, State.tryStart_blocks (due hq) hq is_valid none_free]
      rfl

end Sys2Proof.Machine

namespace Sys2Proof.Machine

/-! ## The offers of AUTO_SPARE (O48) -/

theorem firstBy_isNone {before : Nat × WatchEntry → Nat × WatchEntry → Bool} {l : List (Nat × WatchEntry)}
    (h : firstBy before l = none) : l = [] := by
  cases l with
  | nil => rfl
  | cons x xs =>
    unfold firstBy at h
    split at h
    · cases h
    · split at h <;> cases h

/-- None of a list has a smaller stamp than the oldest, however equal stamps are ordered (R59, log entry 7). -/
theorem firstBy_olderThan_le {l : List (Nat × WatchEntry)} {m : Nat × WatchEntry} (h : firstBy olderThan l = some m) :
    ∀ x ∈ l, m.2.stamp.toNat ≤ x.2.stamp.toNat := by
  induction l generalizing m with
  | nil => simp
  | cons y ys ih =>
    unfold firstBy at h
    split at h
    · rename_i none_found
      obtain rfl := Option.some.inj h
      simp [firstBy_isNone none_found]
    · rename_i best found
      have least := ih found
      split at h
      · rename_i older
        obtain rfl := Option.some.inj h
        have below : best.2.stamp.toNat ≤ y.2.stamp.toNat := by
          unfold olderThan at older
          split at older
          · rename_i same
            rw [same]
          · exact Nat.le_of_lt (by simpa using older)
        exact List.forall_mem_cons.mpr ⟨below, least⟩
      · rename_i not_older
        obtain rfl := Option.some.inj h
        have below : y.2.stamp.toNat ≤ best.2.stamp.toNat := by
          unfold olderThan at not_older
          split at not_older
          · rename_i same
            rw [same]
          · simpa using not_older
        exact List.forall_mem_cons.mpr ⟨le_rfl, fun x hx => below.trans (least x hx)⟩

theorem WatchTable.oldestWaiting_le {w : WatchTable} {slot : Nat} {e : WatchEntry} (h : w.oldestWaiting = some (slot, e)) {i : Nat}
    {f : WatchEntry} (hf : w.entryIn i = some f) (waits : f.state = .waiting) : e.stamp.toNat ≤ f.stamp.toNat :=
  firstBy_olderThan_le h (i, f) (by simp [WatchTable.mem_filled, hf, waits])

theorem WatchTable.oldestWaiting_eq_none {w : WatchTable} :
    w.oldestWaiting = none ↔ ∀ slot e, w.entryIn slot = some e → e.state ≠ .waiting := by
  constructor
  · intro h slot e he waits
    have empty := firstBy_isNone h
    have mem : (slot, e) ∈ w.filled.filter fun x => x.2.state == .waiting := by simp [WatchTable.mem_filled, he, waits]
    simp [empty] at mem
  · intro none_waits
    cases h : w.oldestWaiting with
    | none => rfl
    | some x =>
      obtain ⟨he, waits⟩ := WatchTable.oldestWaiting_some h
      exact absurd waits (none_waits _ _ he)

/-- The request AUTO_SPARE makes. -/
def autoRequest (l : Location) : Request := { location := l, origin := .auto, retried := false, started := false }

/-- The oldest WAITING entry joins, where it has no request and there is room (R33, R67, R68). -/
theorem State.offerWaiting_joins {s : State} {slot : Nat} {e : WatchEntry} (oldest : s.watch.oldestWaiting = some (slot, e))
    (unnamed : s.hasRequest e.location = false) (room : s.migration.queue.length < 8)
    (found : s.watch.slotOf e.location = some slot) : s.offerWaiting = { s with
      watch := s.watch.setSlot slot (some { e with state := .queued })
      migration := { s.migration with queue := s.migration.queue ++ [autoRequest e.location] } } := by
  have he := (WatchTable.oldestWaiting_some oldest).1
  have queued : s.watch.modify e.location WatchEntry.enqueue = s.watch.setSlot slot (some { e with state := .queued }) := by
    simp [WatchTable.modify, found, he, WatchEntry.enqueue]
  unfold State.offerWaiting
  rw [oldest]
  dsimp only
  rw [if_neg (by simp [unnamed]), if_pos room, State.queueEntry, queued]
  rfl

theorem State.offerWaiting_none {s : State} (none_waits : ∀ slot e, s.watch.entryIn slot = some e → e.state ≠ .waiting) :
    s.offerWaiting = s := by
  rw [State.offerWaiting, WatchTable.oldestWaiting_eq_none.mpr none_waits]

theorem exec_autoSpare (s : State) (v : Word) :
    exec (.autoSpare s.management.address v) s = .next ((s.onBus true []).writeAutoSpare v.toNat) :=
  congrArg Host.Outcome.next (State.takeFrame_ours rfl _)

/-- The item AUTO_SPARE set on. -/
def State.autoSpareOn (s : State) : State := { s with settings := { s.settings with autoSpare := true } }

theorem State.autoSpareOn_of_on {s : State} (on : s.settings.autoSpare = true) : s.autoSpareOn = s := by
  have same : { s.settings with autoSpare := true } = s.settings := by rw [← on]
  rw [State.autoSpareOn, same]

/-- AUTO_SPARE written on: the item set, and the offers made (R67). -/
theorem exec_autoSpare_on (s : State) :
    exec (.autoSpare s.management.address 1) s = .next ((State.offerAll 32 s.autoSpareOn).answered .ok []) := by
  rw [exec_autoSpare]
  refine congrArg Host.Outcome.next ?_
  have written : (s.onBus true []).writeAutoSpare (1 : Word).toNat
      = (State.offerAll 32 { s.autoSpareOn with
          management := (s.onBus true []).management, writeBack := s.writeBack }).answerStatus .ok := rfl
  have writeBack : (State.offerAll 32 s.autoSpareOn).writeBack = s.writeBack := by simp [State.autoSpareOn]
  have management : (State.offerAll 32 s.autoSpareOn).management = s.management := by simp [State.autoSpareOn]
  rw [written, State.offerAll_with, ← writeBack, State.answered, management]
  rfl

/-- An offer that is followed by a try, then by the offers of the same write again (R67). -/
theorem State.offerAll_again {s : State} (h : s.watch.distinct) (some_waits : s.watch.oldestWaiting.isSome = true)
    (room : s.migration.queue.length < 8) : State.offerAll 32 s = State.offerAll 32 s.offerWaiting.tryStart := by
  obtain ⟨still, fewer⟩ := State.offerWaiting_fewer h some_waits room
  obtain ⟨distinct, less⟩ := State.tryLoop_waiting (n := s.offerWaiting.migration.queue.length + 33) still
  have most := s.watch.card_waitingSlots_le
  have offered : State.offerAll 32 s = State.offerAll 31 s.offerWaiting.tryStart := by
    rw [State.offerAll, if_pos ⟨some_waits, room⟩]
  rw [offered]
  exact State.offerAll_enough (s := s.offerWaiting.tryStart) distinct (less.trans (by omega)) (less.trans (by omega))

/-! ### Offers that no try follows -/

/-- What the offers of table `w` leave when no try follows them: `joined` the requests made, to a queue of `length` requests, and
`left` the table (R33, R67). -/
structure WatchTable.Offered (w : WatchTable) (length : Nat) (joined : List Request) (left : WatchTable) : Prop where
  nextStamp : left.nextStamp = w.nextStamp
  untracked : left.untracked = w.untracked
  auto : ∀ r ∈ joined, r.origin = .auto ∧ r.retried = false ∧ r.started = false
  apart : (joined.map (·.location)).Nodup
  ordered : joined.Pairwise fun r q => ∀ i j e f, w.entryIn i = some e → w.entryIn j = some f →
    e.location = r.location → f.location = q.location → e.stamp.toNat ≤ f.stamp.toNat
  vacant : ∀ slot, w.entryIn slot = none → left.entryIn slot = none
  others : ∀ slot e, w.entryIn slot = some e → e.state ≠ .waiting → left.entryIn slot = some e
  queued : ∀ slot e, w.entryIn slot = some e → e.state = .waiting → (∃ r ∈ joined, r.location = e.location) →
    left.entryIn slot = some { e with state := .queued }
  waits : ∀ slot e, w.entryIn slot = some e → e.state = .waiting → (∀ r ∈ joined, r.location ≠ e.location) →
    left.entryIn slot = some e ∧ 8 ≤ length + joined.length
      ∧ ∀ other f, w.entryIn other = some f → f.state = .waiting → (∃ r ∈ joined, r.location = f.location) →
        f.stamp.toNat ≤ e.stamp.toNat
  named : ∀ r ∈ joined, ∃ slot e, w.entryIn slot = some e ∧ e.state = .waiting ∧ e.location = r.location

/-- With no WAITING entry, or no place free, no request joins. -/
theorem WatchTable.Offered.stop {w : WatchTable} {length : Nat}
    (ends : (∀ slot e, w.entryIn slot = some e → e.state ≠ .waiting) ∨ 8 ≤ length) : w.Offered length [] w where
  nextStamp := rfl
  untracked := rfl
  auto := by simp
  apart := .nil
  ordered := .nil
  vacant _ h := h
  others _ _ he _ := he
  queued _ _ _ _ joins := by simp at joins
  waits slot e he waiting _ := ⟨he, ends.resolve_left fun none_waits => none_waits slot e he waiting, fun _ _ _ _ joins => by
    simp at joins⟩
  named := by simp

/-- The oldest WAITING entry joins first; what it leaves is offered next. -/
theorem WatchTable.Offered.next {w left : WatchTable} {length slot : Nat} {joined : List Request} {e : WatchEntry}
    (distinct : w.distinct) (oldest : w.oldestWaiting = some (slot, e))
    (h : (w.setSlot slot (some { e with state := .queued })).Offered (length + 1) joined left) :
    w.Offered length (autoRequest e.location :: joined) left := by
  obtain ⟨he, waiting⟩ := WatchTable.oldestWaiting_some oldest
  have lt := WatchTable.lt_of_entryIn he
  have mine : (w.setSlot slot (some { e with state := .queued })).entryIn slot = some { e with state := .queued } := by
    rw [WatchTable.entryIn_setSlot, if_pos ⟨rfl, lt⟩]
  have kept : ∀ i, i ≠ slot → (w.setSlot slot (some { e with state := .queued })).entryIn i = w.entryIn i := fun i other => by
    rw [WatchTable.entryIn_setSlot, if_neg fun same => other same.1.symm]
  have named : ∀ r ∈ joined, ∃ i f, i ≠ slot ∧ w.entryIn i = some f ∧ f.state = .waiting ∧ f.location = r.location := by
    intro r hr
    obtain ⟨i, f, hf, waits, at_r⟩ := h.named r hr
    have other : i ≠ slot := by
      rintro rfl
      obtain rfl := Option.some.inj (mine.symm.trans hf)
      cases waits
    exact ⟨i, f, other, kept i other ▸ hf, waits, at_r⟩
  have other_location : ∀ r ∈ joined, r.location ≠ e.location := by
    intro r hr same
    obtain ⟨i, f, other, hf, -, at_r⟩ := named r hr
    exact other (distinct i slot f e hf he (at_r.trans same))
  have other_slot : ∀ r ∈ joined, ∀ i f, w.entryIn i = some f → f.location = r.location → i ≠ slot := by
    rintro r hr i f hf at_r rfl
    obtain rfl := Option.some.inj (he.symm.trans hf)
    exact other_location r hr at_r.symm
  exact {
    nextStamp := h.nextStamp
    untracked := h.untracked
    auto := List.forall_mem_cons.mpr ⟨⟨rfl, rfl, rfl⟩, h.auto⟩
    apart := by
      rw [List.map_cons, List.nodup_cons]
      refine ⟨fun mem => ?_, h.apart⟩
      obtain ⟨r, hr, same⟩ := List.mem_map.mp mem
      exact other_location r hr same
    ordered := by
      refine List.pairwise_cons.mpr ⟨fun q hq i j f g hf hg at_e at_q => ?_, ?_⟩
      · obtain rfl := distinct i slot f e hf he at_e
        obtain rfl := Option.some.inj (he.symm.trans hf)
        obtain ⟨k, x, -, hx, waits, at_x⟩ := named q hq
        obtain rfl := distinct j k g x hg hx (at_q.trans at_x.symm)
        obtain rfl := Option.some.inj (hx.symm.trans hg)
        exact WatchTable.oldestWaiting_le oldest hx waits
      · refine h.ordered.imp_of_mem fun {r q} hr hq before i j f g hf hg at_r at_q => ?_
        have i_other := other_slot r hr i f hf at_r
        have j_other := other_slot q hq j g hg at_q
        exact before i j f g ((kept i i_other).trans hf) ((kept j j_other).trans hg) at_r at_q
    vacant := fun i hi => h.vacant i ((kept i fun same => by simp [same, he] at hi).trans hi)
    others := fun i f hf moved => by
      have other : i ≠ slot := by
        rintro rfl
        obtain rfl := Option.some.inj (he.symm.trans hf)
        exact moved waiting
      exact h.others i f ((kept i other).trans hf) moved
    queued := fun i f hf waits joins => by
      by_cases same : i = slot
      · subst same
        obtain rfl := Option.some.inj (he.symm.trans hf)
        exact h.others i _ mine (by simp)
      · obtain ⟨r, hr, at_r⟩ := joins
        refine h.queued i f ((kept i same).trans hf) waits ⟨r, ?_, at_r⟩
        rcases List.mem_cons.mp hr with rfl | later
        · exact absurd (distinct i slot f e hf he at_r.symm) same
        · exact later
    waits := fun i f hf waits absent => by
      obtain ⟨not_first, not_later⟩ := List.forall_mem_cons.mp absent
      have other : i ≠ slot := by
        rintro rfl
        obtain rfl := Option.some.inj (he.symm.trans hf)
        exact not_first rfl
      obtain ⟨stays, full, older⟩ := h.waits i f ((kept i other).trans hf) waits not_later
      refine ⟨stays, by rw [List.length_cons]; omega, fun j g hg g_waits joins => ?_⟩
      by_cases same : j = slot
      · subst same
        obtain rfl := Option.some.inj (he.symm.trans hg)
        exact WatchTable.oldestWaiting_le oldest hf waits
      · obtain ⟨r, hr, at_r⟩ := joins
        refine older j g ((kept j same).trans hg) g_waits ⟨r, ?_, at_r⟩
        rcases List.mem_cons.mp hr with rfl | later
        · exact absurd (distinct j slot g e hg he at_r.symm) same
        · exact later
    named := List.forall_mem_cons.mpr ⟨⟨slot, e, he, waiting, rfl⟩, fun r hr => by
      obtain ⟨i, f, -, hf, waits, at_r⟩ := named r hr
      exact ⟨i, f, hf, waits, at_r⟩⟩ }

/-- Whether a condition of R38 other than the queue's fails, so that no try is made whatever joins. -/
def State.NoTry (s : State) : Prop :=
  s.mode ≠ .online ∨ s.migration.engine ≠ .idle ∨ s.port.link = .down ∨ s.dualPending = true

theorem State.NoTry.tryStart_eq {s : State} (h : s.NoTry) : s.tryStart = s := by
  refine State.tryStart_of_settled (Bool.eq_false_iff.mpr fun due => ?_)
  obtain ⟨online, idle, -, up, single⟩ := State.mayTry_iff.mp due
  rcases h with off | busy | down | pending
  · exact off online
  · exact busy idle
  · simp [up] at down
  · simp [single] at pending

theorem State.offerAll_stopped {n : Nat} {s : State}
    (ends : (∀ slot e, s.watch.entryIn slot = some e → e.state ≠ .waiting) ∨ 8 ≤ s.migration.queue.length) :
    State.offerAll n s = s := by
  cases n with
  | zero => rfl
  | succ n =>
    rw [State.offerAll, if_neg]
    rintro ⟨some_waits, room⟩
    rcases ends with none_waits | full
    · simp [WatchTable.oldestWaiting_eq_none.mpr none_waits] at some_waits
    · omega

/-- The offers of a write of AUTO_SPARE, where no try follows them. -/
theorem State.offerAll_offered {n : Nat} {s : State} (no_try : s.NoTry) (distinct : s.watch.distinct)
    (unnamed : ∀ slot e, s.watch.entryIn slot = some e → e.state = .waiting → s.hasRequest e.location = false)
    (enough : s.watch.waitingSlots.card ≤ n) : ∃ joined left,
      State.offerAll n s = { s with
        migration := { s.migration with queue := s.migration.queue ++ joined }
        watch := left }
      ∧ s.watch.Offered s.migration.queue.length joined left := by
  induction n generalizing s with
  | zero =>
    refine ⟨[], s.watch, by rw [List.append_nil]; rfl, .stop (.inl fun slot e he waits => ?_)⟩
    have mem : (⟨slot, WatchTable.lt_of_entryIn he⟩ : Fin 32) ∈ s.watch.waitingSlots :=
      WatchTable.mem_waitingSlots.mpr ⟨e, he, waits⟩
    rw [Finset.card_eq_zero.mp (Nat.le_zero.mp enough)] at mem
    simp at mem
  | succ n ih =>
    by_cases ends : (∀ slot e, s.watch.entryIn slot = some e → e.state ≠ .waiting) ∨ 8 ≤ s.migration.queue.length
    · exact ⟨[], s.watch, by rw [State.offerAll_stopped ends, List.append_nil], .stop ends⟩
    · push Not at ends
      obtain ⟨⟨first, f, hf, f_waits⟩, room⟩ := ends
      obtain ⟨⟨slot, e⟩, oldest⟩ : ∃ x, s.watch.oldestWaiting = some x := Option.ne_none_iff_exists'.mp fun none_waits =>
        WatchTable.oldestWaiting_eq_none.mp none_waits first f hf f_waits
      obtain ⟨he, waits⟩ := WatchTable.oldestWaiting_some oldest
      have joins := State.offerWaiting_joins oldest (unnamed slot e he waits) room (distinct.slotOf he)
      have fewer := WatchTable.waitingSlots_setSlot he waits (f := { e with state := .queued }) (by simp)
      have step : State.offerAll (n + 1) s = State.offerAll n s.offerWaiting := by
        have still : s.offerWaiting.NoTry := by
          rw [joins]
          exact no_try
        rw [State.offerAll, if_pos ⟨by rw [oldest]; rfl, room⟩, still.tryStart_eq]
      rw [joins] at step
      have unnamed' : ∀ i g, (s.watch.setSlot slot (some { e with state := .queued })).entryIn i = some g → g.state = .waiting →
          (s.migration.queue ++ [autoRequest e.location]).any (fun r => r.location == g.location) = false := by
        intro i g hg g_waits
        rw [WatchTable.entryIn_setSlot] at hg
        split at hg
        · obtain rfl := Option.some.inj hg
          cases g_waits
        · rename_i other
          have absent := unnamed i g hg g_waits
          have apart : e.location ≠ g.location := fun same =>
            other ⟨distinct slot i e g he hg same, WatchTable.lt_of_entryIn he⟩
          simp only [State.hasRequest] at absent
          simp [List.any_append, absent, autoRequest, apart]
      obtain ⟨joined, left, result, made⟩ := ih (s := { s with
          watch := s.watch.setSlot slot (some { e with state := .queued })
          migration := { s.migration with queue := s.migration.queue ++ [autoRequest e.location] } })
        no_try (distinct.setSlot (by simp [he])) unnamed' (Nat.le_of_succ_le_succ (fewer.trans enough))
      refine ⟨autoRequest e.location :: joined, left, ?_, .next distinct oldest ?_⟩
      · rw [step, result]
        simp
      · simpa using made

/-! ### The statement's parts -/

/-- The WAITING entry that alone names its location and has the smallest stamp joins as the oldest (R33, R68). -/
theorem State.offerWaiting_smallest {s : State} {slot : Nat} {e : WatchEntry} (he : s.watch.entryIn slot = some e)
    (waits : e.state = .waiting) (unnamed : s.hasRequest e.location = false) (room : s.migration.queue.length < 8)
    (alone : ∀ i f, i ≠ slot → s.watch.entryIn i = some f → f.location ≠ e.location)
    (smallest : ∀ i f, i ≠ slot → s.watch.entryIn i = some f → f.state = .waiting → e.stamp.toNat < f.stamp.toNat) :
    s.offerWaiting = { s with
      watch := s.watch.setSlot slot (some { e with state := .queued })
      migration := { s.migration with queue := s.migration.queue ++ [autoRequest e.location] } } := by
  refine State.offerWaiting_joins (WatchTable.oldestWaiting_eq_some he waits smallest) unnamed room ?_
  refine WatchTable.slotOf_eq_some he rfl fun i f before hf => ?_
  exact alone i f (by omega) hf

/-- Settles O48: the offers go by stamp order, each followed by a try, and a place freed is offered once. -/
theorem autoSpareOffersWaiting : Obligations.AutoSpareOffersWaiting := by
  refine fun s => ⟨fun v beyond => ?_, ?_, fun ends => ?_, fun slot e tried law room he waits smallest next => ?_,
    fun no_try law => ?_, fun quiet => ?_, fun slot e on room unnamed he waits alone smallest => ?_⟩
  · rw [exec_autoSpare, State.writeAutoSpare, State.ranged, if_neg (by omega)]
    rfl
  · rw [exec_autoSpare]
    rfl
  · rw [exec_autoSpare_on, State.offerAll_stopped (s := s.autoSpareOn) ends]
    rfl
  · obtain ⟨distinct, -, entries⟩ := law
    have distinct := WatchTable.distinct_of_nodup distinct
    have unnamed := (entries e (WatchTable.mem_entries.mpr ⟨slot, he⟩)).2.2.2.2 waits
    have oldest := WatchTable.oldestWaiting_eq_some he waits smallest
    have joins := State.offerWaiting_joins (s := s.autoSpareOn) oldest unnamed room (distinct.slotOf he)
    have again := State.offerAll_again (s := s.autoSpareOn) distinct (by rw [show s.autoSpareOn.watch = s.watch from rfl, oldest]; rfl)
      room
    obtain rfl : s.autoSpareOn.offerWaiting.tryStart = tried := by
      rw [joins]
      exact Host.Outcome.next.inj ((exec_migrationStart _).symm.trans next)
    have management : s.autoSpareOn.offerWaiting.tryStart.management = s.management := by simp [State.autoSpareOn]
    have on : s.autoSpareOn.offerWaiting.tryStart.settings.autoSpare = true := by simp [State.autoSpareOn]
    rw [exec_autoSpare_on, again, ← management, exec_autoSpare_on, State.autoSpareOn_of_on on]
  · obtain ⟨distinct, -, entries⟩ := law
    obtain ⟨joined, left, result, made⟩ := State.offerAll_offered (n := 32) (s := s.autoSpareOn) no_try
      (WatchTable.distinct_of_nodup distinct)
      (fun slot e he waits => (entries e (WatchTable.mem_entries.mpr ⟨slot, he⟩)).2.2.2.2 waits) s.watch.card_waitingSlots_le
    refine ⟨joined, left, by rw [exec_autoSpare_on, result]; rfl, made.nextStamp, made.untracked, made.auto, made.apart, made.ordered,
      made.vacant, fun slot e he => ⟨made.others slot e he, made.queued slot e he, made.waits slot e he⟩, made.named⟩
  · rcases quiet with off | none_waits
    · simp [State.placeFreed, off]
    · rw [State.placeFreed, State.offerWaiting_none none_waits, ite_self]
  · rw [State.placeFreed, if_pos on]
    exact State.offerWaiting_smallest he waits unnamed room alone smallest

end Sys2Proof.Machine

namespace Sys2Proof.Machine

/-! ## The words of a read (O34) -/

/-- The word of a READ answer is the one the statements give (R96). -/
theorem readAnswerWord_eq (w : StoredWord) : readAnswerWord w = answerWord w := by
  obtain ⟨outcome, data, hc⟩ : ∃ outcome data, classify w = (outcome, data) := ⟨_, _, rfl⟩
  cases outcome <;> simp [readAnswerWord, answerWord, hc]

/-- A word goes into a READ answer GOOD or CORRECTED exactly when it was read so (R96). -/
theorem answerWord_served (w : StoredWord) :
    ((answerWord w).status = .good ∨ (answerWord w).status = .corrected)
      ↔ ((classify w).1 = .clean ∨ (classify w).1 = .corrected) := by
  unfold answerWord
  cases (classify w).1 <;> simp

/-- The answer of a READ whose fetch ended OK, in the words of the statements (R96). -/
theorem readAnswer_eq (words : List StoredWord) :
    readAnswer words
      = .read (if ∀ w ∈ words, (classify w).1 = .clean ∨ (classify w).1 = .corrected then .okay else .dataError)
          (words.map answerWord) := by
  have answered : words.map readAnswerWord = words.map answerWord := List.map_congr_left fun w _ => readAnswerWord_eq w
  simp only [readAnswer, answered, List.all_map, List.all_eq_true, Function.comp_apply, Bool.or_eq_true, beq_iff_eq,
    answerWord_served]

/-- The first word of a merge read is the first partial word (R83). -/
theorem partialSpan_first {words : List WriteWord} {first : Nat}
    (least : ∀ k w, words[k]? = some w → isPartial w = true → first ≤ k)
    (hf : ∃ w, words[first]? = some w ∧ isPartial w = true) : ((partialSpan words).map (·.1)).getD 0 = first := by
  obtain ⟨w, at_first, first_partial⟩ := hf
  obtain ⟨first_lt, rfl⟩ := List.getElem?_eq_some_iff.mp at_first
  have front : words.findIdx? isPartial = some first :=
    List.findIdx?_eq_some_iff_getElem.mpr ⟨first_lt, first_partial, fun j before is_partial => by
      have := least j _ (List.getElem?_eq_getElem (by omega)) is_partial
      omega⟩
  obtain ⟨⟨start, last⟩, span⟩ := Option.isSome_iff_exists.mp
    (partialSpan_isSome ⟨_, List.getElem_mem first_lt, first_partial⟩)
  obtain ⟨back, hback⟩ : ∃ back, words.reverse.findIdx? isPartial = some back := by
    cases hback : words.reverse.findIdx? isPartial with
    | none => simp [partialSpan, hback] at span
    | some back => exact ⟨back, rfl⟩
  simp [partialSpan, front, hback]

/-- The end of a scrub read that went OK is the scrubber's move after its words (R127 to R129). -/
theorem State.endScrub_ok {s t : State} {block line : Nat} {words : List StoredWord}
    (ht : s.takeWords { source := .scrub, block := block, line := line, recordsPoison := true, offers := true } 0 words false = t)
    (hl : t.scrubber.line ≤ 15) (hb : t.scrubber.block < t.settings.visible) :
    s.endScrub block line (.ok words) = t.scrubMoved := by
  rw [← State.endScrub_failed (block := block) (line := line) hl hb, ← ht]
  rfl

section
variable {s v : State} {a : Access} {words : List StoredWord} {place : ReadPlace} (up : s.port.link = .up)
  (ho : s.port.outstanding = some a) (taken : a.discarded = false) (full : words.length = a.count)
include up ho taken full

/-- A read that ends OK while the link is UP: the requester takes the words over the freed slot, and then the engine tries
(R38, R108). -/
theorem exec_read_ok_try (read : a.purpose.isWrite = false) {t : State} (handed : s.freeSlot.hand a (.ok words) = t)
    (port : t.port = s.freeSlot.port) :
    exec (.memoryResponse a.tag .ok words false) s = exec .migrationStart t := by
  rw [exec_read_ok ho taken read full, handed]
  exact State.settle_eq_try (by rw [port]; exact up)

/-- The words of a fetch, and the answer they make (R95 to R97). -/
theorem fetch_takes_words (hlocation : place.location = locationOf s.settings a.block) {t : Transaction} (mine : a.purpose = .fetch)
    (hp : s.upstream.progress = .fetch) (hc : s.current = some t) (source : place.source = .upstreamFetch)
    (offset : place.offset = 16 * lineOf (firstAddress t) + wordOf (firstAddress t))
    (h : s.freeSlot.wordsTaken place words false v) :
    exec (.memoryResponse a.tag .ok words false) s = exec .migrationStart
      { v with
        upstream := { s.upstream with progress := .answer (readAnswer words) }
        writeBack :=
          if s.settings.repairOnRead then
            (offersOf a.block (lineOf (firstAddress t)) (wordOf (firstAddress t)) words).foldl WriteBackBuffer.offer s.writeBack
          else s.writeBack } := by
  obtain ⟨port, upstream, -⟩ := State.wordsTaken_keeps h
  refine exec_read_ok_try up ho taken full (by rw [mine]; rfl) ?_ port
  have ended : s.freeSlot.hand a (.ok words) = s.freeSlot.endFetch (firstAddress t) a.block (.ok words) := by
    simp only [State.hand, taken, mine, State.endUpstream, show s.freeSlot.upstream.progress = .fetch from hp,
      show s.freeSlot.current = some t from hc]
    rfl
  have read := State.takeWords_of_wordsTaken
    (use := { source := .upstreamFetch, block := a.block, line := lineOf (firstAddress t), recordsPoison := true,
              offers := s.settings.repairOnRead }) (by simp) h source hlocation offset s.writeBack
  rw [ended]
  refine (congrArg (State.setProgress · (.answer (readAnswer words))) read).trans ?_
  simp only [State.setProgress, upstream]
  rfl

/-- The words of a merge read, and the runs and statuses planned from them (R82 to R84). -/
theorem mergeRead_takes_words (hlocation : place.location = locationOf s.settings a.block) {address n first : Nat}
    {list : List WriteWord} (mine : a.purpose = .mergeRead) (hp : s.upstream.progress = .mergeRead)
    (hc : s.current = some (.write address n list)) (start : ((partialSpan list).map (·.1)).getD 0 = first)
    (source : place.source = .mergeRead) (offset : place.offset = 16 * lineOf address + wordOf address + first)
    (h : s.freeSlot.wordsTaken place words false v) :
    exec (.memoryResponse a.tag .ok words false) s = exec .migrationStart
      { v with
        upstream := { s.upstream with
          progress := .store
            { runs := storeRuns (wordOf address) ((planWords first words list).map (·.1)),
              statuses := (planWords first words list).map (·.2), dual := none } } } := by
  obtain ⟨port, upstream, -, -, writeBack⟩ := State.wordsTaken_keeps h
  refine exec_read_ok_try up ho taken full (by rw [mine]; rfl) ?_ port
  have ended : s.freeSlot.hand a (.ok words) = s.freeSlot.endMergeRead address a.block list (.ok words) := by
    simp only [State.hand, taken, mine, State.endUpstream, show s.freeSlot.upstream.progress = .mergeRead from hp,
      show s.freeSlot.current = some (.write address n list) from hc]
    rfl
  have read := State.takeWords_of_wordsTaken
    (use := { source := .mergeRead, block := a.block, line := lineOf address, recordsPoison := true, offers := false })
    (word := wordOf address + first) (by simp) h source hlocation (offset.trans (Nat.add_assoc _ _ _)) s.freeSlot.writeBack
  rw [ended]
  simp only [State.endMergeRead, start]
  refine (congrArg (State.enterStore · address first words list) read).trans ?_
  simp only [State.enterStore, State.setProgress, upstream, ← writeBack]
  rfl

/-- The words of a scrub read, and the scrubber's move (R127 to R129). -/
theorem scrubRead_takes_words (hlocation : place.location = locationOf s.settings a.block) (mine : a.purpose = .scrubRead)
    (hl : s.scrubber.line ≤ 15) (hb : s.scrubber.block < s.settings.visible) (source : place.source = .scrub)
    (offset : place.offset = 16 * a.line) (h : s.freeSlot.wordsTaken place words false v) :
    exec (.memoryResponse a.tag .ok words false) s = exec .migrationStart
      (State.scrubMoved
        { v with writeBack := (offersOf a.block a.line 0 words).foldl WriteBackBuffer.offer s.writeBack }) := by
  obtain ⟨port, -, settings, scrubber, -⟩ := State.wordsTaken_keeps h
  refine exec_read_ok_try up ho taken full (by rw [mine]; rfl) ?_ port
  have ended : s.freeSlot.hand a (.ok words) = s.freeSlot.endScrub a.block a.line (.ok words) := by
    simp [State.hand, taken, mine]
  have read := State.takeWords_of_wordsTaken
    (use := { source := .scrub, block := a.block, line := a.line, recordsPoison := true, offers := true }) (word := 0)
    (by simp) h source hlocation offset s.writeBack
  rw [ended]
  refine State.endScrub_ok read ?_ ?_
  · show v.scrubber.line ≤ 15
    rw [scrubber]
    exact hl
  · show v.scrubber.block < v.settings.visible
    rw [scrubber, settings]
    exact hb

/-- The words of a copy read, which the line buffer has taken before they are counted: an engine that copies makes no try
(R38, R42, R43). -/
theorem copyRead_takes_words (hlocation : place.location = locationOf s.settings a.block) {work : CopyWork}
    (mine : a.purpose = .copyRead) (hw : s.migration.engine = .copying work) (source : place.source = .copy)
    (offset : place.offset = 16 * a.line) {filled : State} (hfilled : filled = { s.freeSlot with
      migration := { s.migration with engine := .copying { work with phase := .writing (words.map copyForm) } } })
    (h : filled.wordsTaken place words false v) :
    exec (.memoryResponse a.tag .ok words false) s = .next v := by
  obtain ⟨port, -, -, -, writeBack⟩ := State.wordsTaken_keeps h
  have ended : s.freeSlot.hand a (.ok words) = filled.takeWords
      { source := .copy, block := a.block, line := a.line, recordsPoison := false, offers := false } 0 words false := by
    rw [hfilled]
    simp only [State.hand, taken, mine, State.endCopyRead, State.freeSlot_migration, hw]
    rfl
  have read : filled.takeWords
      { source := .copy, block := a.block, line := a.line, recordsPoison := false, offers := false } 0 words false = v := by
    refine (State.takeWords_of_wordsTaken (b := filled.writeBack) (by simp) h source (by rw [hfilled]; exact hlocation)
      offset).trans ?_
    rw [if_neg Bool.false_ne_true, ← writeBack]
  have copying : v.migration.engine = .copying { work with phase := .writing (words.map copyForm) } := by
    rw [← read]
    exact (State.takeWords_copiesOn rfl words filled 0 false (by rw [hfilled])).1
  rw [exec_read_ok ho taken (by rw [mine]; rfl) full, ended, read, State.settle_of_settled _ (State.mayTry_of_copying copying)]
  rw [port, hfilled]
  exact up

end

/-- Settles O34: what the words bring about is one relation for all four reads (`State.takeWords_of_wordsTaken`); each read adds its
own effects. -/
theorem uncorrectableFetchMakesCandidate : Obligations.UncorrectableFetchMakesCandidate := by
  intro s a words place asked v up ho taken full hlocation hasked
  obtain rfl : asked = s.freeSlot := hasked
  refine ⟨fun t mine hp hc source offset h => ?_, fun address n first list mine hp hc least hf source offset h plan hplan => ?_,
    fun mine hl hb source offset h => ?_, fun work mine hw source offset h => ?_⟩
  · rw [fetch_takes_words up ho taken full hlocation mine hp hc source offset h, readAnswer_eq]
  · obtain rfl : plan = planWords first words list := hplan
    exact mergeRead_takes_words up ho taken full hlocation mine hp hc (partialSpan_first least hf) source offset h
  · exact scrubRead_takes_words up ho taken full hlocation mine hl hb source offset h
  · exact copyRead_takes_words up ho taken full hlocation mine hw source offset rfl h

end Sys2Proof.Machine

/-! The watch table's decay, the write-back buffer's offers and the end of a scrub read (O32, O33). -/

namespace Sys2Proof.Machine

/-! ## Decay (O33) -/

/-- The slots decay one by one. -/
theorem WatchTable.entryIn_decay_eq (w : WatchTable) (i : Nat) : w.decay.entryIn i = decaySlot (w.entryIn i) := by
  by_cases inside : i < 32
  · simp [WatchTable.entryIn, WatchTable.decay, inside]
  · simp [WatchTable.entryIn, WatchTable.decay, inside, decaySlot]

/-- A WAITING or QUEUED entry does not decay. -/
theorem decaySlot_of_not_tracking {e : WatchEntry} (other : e.state ≠ .tracking) : decaySlot (some e) = some e := by
  cases hs : e.state with
  | tracking => exact absurd hs other
  | waiting | queued => simp [decaySlot, hs]

/-- What decay makes of a TRACKING entry. -/
theorem decaySlot_of_tracking {e : WatchEntry} (tracking : e.state = .tracking) :
    decaySlot (some e) = if e.corrected / 2 = 0 ∧ e.uncorrectable = false then none
      else some { e with corrected := e.corrected / 2 } := by
  simp only [decaySlot, tracking]

/-- Settles O33: the table decays slot by slot (`WatchTable.entryIn_decay_eq`), and a slot by its entry's state. -/
theorem decayHalvesCounts : Obligations.DecayHalvesCounts := by
  intro w i
  rw [WatchTable.entryIn_decay_eq]
  refine ⟨fun empty => ?_, fun e held other => ?_, fun e held tracking spent clear => ?_, fun e held tracking stays => ?_, rfl, rfl⟩
  · rw [empty]
    rfl
  · rw [held, decaySlot_of_not_tracking other]
  · rw [held, decaySlot_of_tracking tracking, if_pos ⟨spent, clear⟩]
  · rw [held, decaySlot_of_tracking tracking, if_neg]
    rintro ⟨spent, clear⟩
    rcases stays with counted | flagged
    · exact counted spent
    · rw [clear] at flagged
      cases flagged

/-! ## Offers to the write-back buffer (O32) -/

section
variable {b : WriteBackBuffer} {e : WriteBack}

/-- An offer is ignored exactly where an entry names its word (R118). -/
theorem WriteBackBuffer.any_names_iff :
    (b.entries.any fun x => x.block == e.block && x.line == e.line && x.word == e.word) = true
      ↔ ∃ x ∈ b.entries, x.block = e.block ∧ x.line = e.line ∧ x.word = e.word := by
  simp [and_assoc]

theorem WriteBackBuffer.offer_of_named (named : ∃ x ∈ b.entries, x.block = e.block ∧ x.line = e.line ∧ x.word = e.word) :
    b.offer e = b := by
  rw [WriteBackBuffer.offer, if_pos (WriteBackBuffer.any_names_iff.mpr named)]

/-- An offer for a new word joins at the tail, or is dropped and counted (R118). -/
theorem WriteBackBuffer.offer_of_new (new : ∀ x ∈ b.entries, x.block ≠ e.block ∨ x.line ≠ e.line ∨ x.word ≠ e.word) :
    b.offer e = if b.entries.length < 4 then { b with entries := b.entries ++ [e] }
      else { b with dropped := min (b.dropped + 1) 65535 } := by
  rw [WriteBackBuffer.offer, if_neg]
  · rfl
  · rw [WriteBackBuffer.any_names_iff]
    rintro ⟨x, held, block, line, word⟩
    rcases new x held with other | other | other
    · exact other block
    · exact other line
    · exact other word

end

/-- Of a read that offers its words, a CORRECTED word is offered and another is not (R97, R118, R127). -/
theorem State.takeWord_writeBack (s : State) {use : ReadUse} (offers : use.offers = true) (word : Nat) (w : StoredWord)
    (full : Bool) :
    (s.takeWord use word w full).1.writeBack =
      if (classify w).1 = .corrected then
        s.writeBack.offer { block := use.block, line := use.line, word := word, data := (classify w).2 }
      else s.writeBack := by
  obtain ⟨outcome, data, hc⟩ : ∃ outcome data, classify w = (outcome, data) := ⟨_, _, rfl⟩
  cases outcome with
  | clean | uncorrectable => simp [State.takeWord, hc]
  | poisoned => cases hp : use.recordsPoison <;> simp [State.takeWord, hc, hp]
  | corrected => cases hr : s.settings.recordCorrected <;> simp [State.takeWord, hc, hr, offers]

/-- The words of a read that offers them are offered in word index order (R97, R118, R127). -/
theorem State.takeWords_writeBack {use : ReadUse} (offers : use.offers = true) (words : List StoredWord) (s : State) (word : Nat)
    (full : Bool) :
    (s.takeWords use word words full).writeBack
      = (offersOf use.block use.line word words).foldl WriteBackBuffer.offer s.writeBack := by
  induction words generalizing s word full with
  | nil => rfl
  | cons w rest ih =>
    rw [State.takeWords_cons, ih, State.takeWord_writeBack s offers, offersOf_cons, List.foldl_append]
    by_cases corrected : (classify w).1 = .corrected <;> simp [corrected]

/-! ## The end of a scrub read (O32) -/

/-- The end of a scrub read goes to the scrubber. -/
theorem State.hand_scrubRead {s : State} {a : Access} (mine : a.purpose = .scrubRead) (taken : a.discarded = false)
    (ending : Ending) : s.hand a ending = s.endScrub a.block a.line ending := by
  simp [State.hand, taken, mine]

@[simp] theorem State.scrubMoved_port (s : State) : s.scrubMoved.port = s.port := rfl
@[simp] theorem State.scrubMoved_settings (s : State) : s.scrubMoved.settings = s.settings := rfl
@[simp] theorem State.scrubMoved_upstream (s : State) : s.scrubMoved.upstream = s.upstream := rfl
@[simp] theorem State.scrubMoved_writeBack (s : State) : s.scrubMoved.writeBack = s.writeBack := rfl

/-- The scrubber's move brings no try about. -/
theorem State.settle_scrubMoved {s : State} (up : s.port.link = .up) (settled : s.mayTry = false) :
    s.scrubMoved.settle = s.scrubMoved :=
  State.settle_of_settled up ((State.mayTry_congr rfl rfl rfl rfl).trans settled)

section
variable {s : State} {a : Access} (ho : s.port.outstanding = some a) (mine : a.purpose = .scrubRead)
  (taken : a.discarded = false) (hl : s.scrubber.line ≤ 15) (hb : s.scrubber.block < s.settings.visible)
include ho mine taken hl hb

/-- A scrub read that ends OK: its words are taken over the freed slot, the position moves, and a try follows (R38, R127 to R129). -/
theorem exec_scrubRead_ok {words : List StoredWord} (full : words.length = a.count) {t : State}
    (ht : s.freeSlot.takeWords { source := .scrub, block := a.block, line := a.line, recordsPoison := true, offers := true } 0
      words false = t) :
    exec (.memoryResponse a.tag .ok words false) s = .next t.scrubMoved.settle := by
  rw [exec_read_ok ho taken (by rw [mine]; rfl) full, State.hand_scrubRead mine taken,
    State.endScrub_ok ht (by simpa [← ht] using hl) (by simpa [← ht] using hb)]

variable (up : s.port.link = .up)
include up

/-- The end of a scrub read, whatever its words: the position moves, the slot is free, and each CORRECTED word is offered. -/
theorem exec_scrubRead_moves_and_offers {words : List StoredWord} (full : words.length = a.count) :
    ∃ u, exec (.memoryResponse a.tag .ok words false) s = .next u ∧ u.port.outstanding = none
      ∧ u.scrubber = s.scrubMoved.scrubber ∧ u.settings = s.settings ∧ u.upstream = s.upstream
      ∧ u.writeBack = (offersOf a.block a.line 0 words).foldl WriteBackBuffer.offer s.writeBack := by
  obtain ⟨t, ht⟩ : ∃ t, s.freeSlot.takeWords
    { source := .scrub, block := a.block, line := a.line, recordsPoison := true, offers := true } 0 words false = t := ⟨_, rfl⟩
  have moved : t.scrubMoved.scrubber = s.scrubMoved.scrubber := by simp [← ht, State.scrubMoved]
  have offered : t.writeBack = (offersOf a.block a.line 0 words).foldl WriteBackBuffer.offer s.writeBack := by
    rw [← ht]
    exact State.takeWords_writeBack rfl words s.freeSlot 0 false
  have linked : t.scrubMoved.port.link = .up := by simpa [← ht] using up
  refine ⟨_, exec_scrubRead_ok ho mine taken hl hb full ht, ?_⟩
  rw [State.settle_of_up linked]
  exact ⟨by simp [← ht], by simpa using moved, by simp [← ht], by simp [← ht], by simpa using offered⟩

/-- The end of a scrub read with CLEAN words moves the position and no more. -/
theorem exec_scrubRead_clean (settled : s.settledLaw) {words : List StoredWord} (full : words.length = a.count)
    (clean : ∀ w ∈ words, (classify w).1 = .clean) :
    exec (.memoryResponse a.tag .ok words false) s = .next s.freeSlot.scrubMoved := by
  rw [exec_scrubRead_ok ho mine taken hl hb full (State.takeWords_clean clean _ _ _),
    State.settle_scrubMoved (s := s.freeSlot) up ((State.mayTry_congr rfl rfl rfl rfl).trans settled)]

/-- A scrub read that fails moves the position and no more. -/
theorem exec_scrubRead_failed (settled : s.settledLaw) {c : Instr} {u : State} (fails : s.failsBy a c u) :
    exec c s = .next u.scrubMoved := by
  obtain ⟨mode, settings, -, migration, -, upstream, link, -, -, scrubber⟩ := State.failsBy_keeps fails
  have still : u.mayTry = false := (State.mayTry_congr mode migration upstream link).trans settled
  rw [exec_of_failsBy ho fails, State.hand_scrubRead mine taken,
    State.endScrub_failed (by rw [scrubber]; exact hl) (by rw [scrubber, settings]; exact hb),
    State.settle_scrubMoved (link.trans up) still]

end

/-- Settles O32: the three ends of a scrub read are the scrubber's move after its words (`State.endScrub_ok`,
`State.endScrub_failed`), the words' offers made one after another; an offer is judged by the entries held. -/
theorem scrubReadMovesPosition : Obligations.ScrubReadMovesPosition := by
  refine ⟨fun s a words up settled ho mine taken hl hb => ⟨fun count length => ?_, fun c u fails => ?_⟩,
    fun buffer e => ⟨WriteBackBuffer.offer_of_named, fun new => ⟨fun room => ?_, fun none_left => ?_⟩⟩⟩
  · have full : words.length = a.count := length.trans count.symm
    exact ⟨exec_scrubRead_moves_and_offers ho mine taken hl hb up full,
      exec_scrubRead_clean ho mine taken hl hb up settled full⟩
  · exact exec_scrubRead_failed ho mine taken hl hb up settled fails
  · rw [WriteBackBuffer.offer_of_new new, if_pos room]
  · rw [WriteBackBuffer.offer_of_new new, if_neg (Nat.not_lt.mpr none_left)]

end Sys2Proof.Machine

/-! The check code: parities of positions, the columns of its single positions, and the classes of R79 (O6 to O9). -/

namespace Sys2Proof.Machine

/-! ## Parities -/

/-- The parity of the positions of a list that `f` marks. -/
def parity (l : List Nat) (f : Nat → Bool) : Bool := l.countP f % 2 == 1

theorem parity_cons (k : Nat) (l : List Nat) (f : Nat → Bool) : parity (k :: l) f = (f k ^^ parity l f) := by
  unfold parity
  rw [List.countP_cons]
  rcases Nat.mod_two_eq_zero_or_one (l.countP f) with even | odd <;> cases f k <;> simp [Nat.add_mod, *]

theorem parity_append (l r : List Nat) (f : Nat → Bool) : parity (l ++ r) f = (parity l f ^^ parity r f) := by
  induction l with
  | nil => simp [parity]
  | cons k l ih => simp [parity_cons, ih]

theorem parity_map (l : List Nat) (g : Nat → Nat) (f : Nat → Bool) : parity (l.map g) f = parity l (f ∘ g) := by
  simp [parity, List.countP_map]

theorem parity_congr {l : List Nat} {f g : Nat → Bool} (same : ∀ k ∈ l, f k = g k) : parity l f = parity l g := by
  rw [parity, parity, List.countP_congr fun k hk => iff_of_eq (congrArg (· = true) (same k hk))]

theorem parity_xor (l : List Nat) (f g : Nat → Bool) : parity l (fun k => f k ^^ g k) = (parity l f ^^ parity l g) := by
  induction l with
  | nil => rfl
  | cons k l ih =>
    rw [parity_cons, parity_cons, parity_cons, ih, Bool.xor_assoc, Bool.xor_assoc, Bool.xor_left_comm (g k)]

theorem odd_eq_parity {n : Nat} (w : BitVec n) : odd w = parity (List.range n) w.getLsbD := rfl

theorem odd_xor {n : Nat} (x y : BitVec n) : odd (x ^^^ y) = (odd x ^^ odd y) := by
  simp only [odd_eq_parity, ← parity_xor]
  exact parity_congr fun k _ => BitVec.getLsbD_xor

theorem odd_append {m n : Nat} (x : BitVec m) (y : BitVec n) : odd (x ++ y) = (odd x ^^ odd y) := by
  have low : parity (List.range n) (x ++ y).getLsbD = odd y :=
    parity_congr fun k hk => by simp [BitVec.getLsbD_append, List.mem_range.mp hk]
  have high : parity ((List.range m).map (n + ·)) (x ++ y).getLsbD = odd x := by
    rw [parity_map]
    exact parity_congr fun k _ => by simp [BitVec.getLsbD_append]
  have ranges : List.range (m + n) = List.range n ++ (List.range m).map (n + ·) := by rw [Nat.add_comm, List.range_add]
  rw [odd_eq_parity, ranges, parity_append, low, high, Bool.xor_comm]

theorem odd_ofBool (b : Bool) : odd (BitVec.ofBool b) = b := by cases b <;> rfl

/-- The last position counts last. -/
theorem odd_eq_xor_last {n : Nat} (w : BitVec (n + 1)) : odd w = (parity (List.range n) w.getLsbD ^^ w.getLsbD n) := by
  rw [odd_eq_parity, List.range_succ, parity_append, parity_cons]
  simp [parity]

/-! ## The code's linearity (R77) -/

/-- Check position i of code(d) is the parity of the ones of d whose signature has a one at i. -/
theorem getLsbD_codeSeven (d : Word) (i : Nat) :
    (codeSeven d).getLsbD i = parity (List.range 32) fun j => d.getLsbD j && (signature j).getLsbD i := by
  have folded : ∀ (l : List Nat) (acc : BitVec 7),
      (l.foldl (fun acc j => if d.getLsbD j then acc ^^^ signature j else acc) acc).getLsbD i
        = (acc.getLsbD i ^^ parity l fun j => d.getLsbD j && (signature j).getLsbD i) := by
    intro l
    induction l with
    | nil => simp [parity]
    | cons j l ih =>
      intro acc
      rw [List.foldl_cons, ih, parity_cons]
      cases d.getLsbD j <;> simp
  exact (folded (List.range 32) 0#7).trans (by rw [BitVec.getLsbD_zero, Bool.false_xor])

theorem codeSeven_xor (d e : Word) : codeSeven (d ^^^ e) = codeSeven d ^^^ codeSeven e := by
  refine BitVec.eq_of_getLsbD_eq fun i _ => ?_
  simp only [BitVec.getLsbD_xor, getLsbD_codeSeven, ← parity_xor]
  exact parity_congr fun j _ => Bool.and_xor_distrib_right ..

theorem storedData_xor (w e : StoredWord) : storedData (w ^^^ e) = storedData w ^^^ storedData e := by
  simp [storedData, BitVec.extractLsb'_xor]

theorem syndrome_xor (w e : StoredWord) : syndrome (w ^^^ e) = syndrome w ^^^ syndrome e := by
  have seven : storedSeven (w ^^^ e) = storedSeven w ^^^ storedSeven e := by simp [storedSeven, BitVec.extractLsb'_xor]
  rw [syndrome, syndrome, syndrome, seven, storedData_xor, codeSeven_xor]
  ac_rfl

/-! ## The clean form (R77) -/

/-- A position below the width of the low part is the low part's. -/
theorem getLsbD_append_low {m n i : Nat} (x : BitVec m) (y : BitVec n) (low : i < n) : (x ++ y).getLsbD i = y.getLsbD i := by
  rw [BitVec.getLsbD_append, if_pos low]

/-- A position past the low part is the high part's. -/
theorem getLsbD_append_high {m n : Nat} (x : BitVec m) (y : BitVec n) (i : Nat) : (x ++ y).getLsbD (n + i) = x.getLsbD i := by
  rw [BitVec.getLsbD_append, if_neg (by omega), Nat.add_sub_cancel_left]

theorem getLsbD_cleanForm_data (d : Word) {j : Nat} (data : j < 32) : (cleanForm d).getLsbD j = d.getLsbD j :=
  getLsbD_append_low (checkField d) d data

theorem getLsbD_cleanForm_check (d : Word) (i : Nat) : (cleanForm d).getLsbD (32 + i) = (checkField d).getLsbD i :=
  getLsbD_append_high (checkField d) d i

theorem getLsbD_checkField (d : Word) {i : Nat} (seven : i < 7) : (checkField d).getLsbD i = (codeSeven d).getLsbD i :=
  getLsbD_append_low (BitVec.ofBool (odd d != odd (codeSeven d))) (codeSeven d) seven

@[simp] theorem storedData_cleanForm (d : Word) : storedData (cleanForm d) = d :=
  BitVec.eq_of_getLsbD_eq fun j data => by simp [storedData, data, getLsbD_cleanForm_data]

@[simp] theorem syndrome_cleanForm (d : Word) : syndrome (cleanForm d) = 0 := by
  have seven : storedSeven (cleanForm d) = codeSeven d := BitVec.eq_of_getLsbD_eq fun i seven => by
    simp [storedSeven, seven, getLsbD_cleanForm_check, getLsbD_checkField]
  rw [syndrome, seven, storedData_cleanForm, BitVec.xor_self]
  rfl

@[simp] theorem odd_cleanForm (d : Word) : odd (cleanForm d) = false := by
  have field : odd (checkField d) = odd d := by
    rw [checkField, odd_append, odd_ofBool]
    cases odd d <;> cases odd (codeSeven d) <;> rfl
  rw [cleanForm, odd_append, field, Bool.xor_self]

/-- A word with an even number of ones and no syndrome is the clean form of its data. -/
theorem eq_cleanForm_iff {w : StoredWord} : w = cleanForm (storedData w) ↔ syndrome w = 0 ∧ odd w = false := by
  refine ⟨fun h => by rw [h]; simp, fun ⟨silent, even⟩ => ?_⟩
  have seven : storedSeven w = codeSeven (storedData w) := BitVec.xor_eq_zero_iff.mp silent
  have below : ∀ i, i < 39 → w.getLsbD i = (cleanForm (storedData w)).getLsbD i := by
    intro i inside
    rcases Nat.lt_or_ge i 32 with data | check
    · rw [getLsbD_cleanForm_data _ data]
      simp [storedData, data]
    · obtain ⟨k, rfl⟩ := Nat.exists_eq_add_of_le check
      have inside : k < 7 := by omega
      rw [getLsbD_cleanForm_check, getLsbD_checkField _ inside, ← seven]
      simp [storedSeven, inside]
  refine BitVec.eq_of_getLsbD_eq fun i inside => ?_
  rcases Nat.lt_or_ge i 39 with low | last
  · exact below i low
  · obtain rfl : i = 39 := by omega
    have clean := odd_cleanForm (storedData w)
    rw [odd_eq_xor_last, ← parity_congr (fun k hk => below k (List.mem_range.mp hk))] at clean
    rw [odd_eq_xor_last] at even
    simpa using even.trans clean.symm

/-! ## Inverted positions (R76, R78) -/

/-- The syndrome a position gives when it alone is inverted: its signature, its own check position, or none (R80). -/
def column (p : Nat) : BitVec 7 := (signatures ++ [1, 2, 4, 8, 16, 32, 64, 0]).getD p 0

/-- The eight check positions. -/
def checkPositions : StoredWord := 0xFF#8 ++ 0#32

theorem syndrome_position : ∀ p, p < 40 → syndrome (1#40 <<< p) = column p := by decide

theorem odd_position : ∀ p, p < 40 → odd (1#40 <<< p) = true := by decide

theorem storedData_position : ∀ p, p < 40 → storedData (1#40 <<< p) = if p < 32 then 1#32 <<< p else 0 := by decide

theorem xor_xor_same {n : Nat} (x y : BitVec n) : x ^^^ y ^^^ y = x := by
  rw [BitVec.xor_assoc, BitVec.xor_self, BitVec.xor_zero]

theorem syndrome_flipAt (w : StoredWord) {p : Nat} (inside : p < 40) : syndrome (flipAt w p) = syndrome w ^^^ column p := by
  rw [flipAt, syndrome_xor, syndrome_position p inside]

theorem odd_flipAt (w : StoredWord) {p : Nat} (inside : p < 40) : odd (flipAt w p) = !odd w := by
  rw [flipAt, odd_xor, odd_position p inside, Bool.xor_true]

theorem storedData_flipAt (w : StoredWord) {p : Nat} (inside : p < 40) :
    storedData (flipAt w p) = if p < 32 then flipAt (storedData w) p else storedData w := by
  rw [flipAt, storedData_xor, storedData_position p inside]
  split
  · rfl
  · exact BitVec.xor_zero

theorem flipAt_flipAt {n : Nat} (w : BitVec n) (p : Nat) : flipAt (flipAt w p) p = w :=
  xor_xor_same w _

theorem poisonForm_eq (d : Word) : poisonForm d = cleanForm d ^^^ checkPositions := by
  have inverted : ~~~ checkField d = checkField d ^^^ 0xFF#8 := by rw [← BitVec.xor_allOnes]; rfl
  rw [poisonForm, inverted, cleanForm, checkPositions, BitVec.xor_append, BitVec.xor_zero]

@[simp] theorem syndrome_poisonForm (d : Word) : syndrome (poisonForm d) = 127 := by
  rw [poisonForm_eq, syndrome_xor, syndrome_cleanForm]
  decide

@[simp] theorem odd_poisonForm (d : Word) : odd (poisonForm d) = false := by
  rw [poisonForm_eq, odd_xor, odd_cleanForm]
  decide

@[simp] theorem storedData_poisonForm (d : Word) : storedData (poisonForm d) = d := by
  rw [poisonForm_eq, storedData_xor, storedData_cleanForm]
  exact BitVec.xor_zero

/-- The words that differ from a form by one inverted position. -/
theorem exists_eq_flipAt_iff {w : StoredWord} {form : Word → StoredWord} {p : Nat} :
    (∃ d, w = flipAt (form d) p) ↔ ∃ d, flipAt w p = form d := by
  refine exists_congr fun d => ⟨fun h => ?_, fun h => ?_⟩
  · rw [h, flipAt_flipAt]
  · rw [← h, flipAt_flipAt]

theorem exists_eq_cleanForm_iff {w : StoredWord} : (∃ d, w = cleanForm d) ↔ syndrome w = 0 ∧ odd w = false := by
  rw [← eq_cleanForm_iff]
  exact ⟨fun ⟨d, h⟩ => by rw [h, storedData_cleanForm], fun h => ⟨_, h⟩⟩

theorem exists_eq_poisonForm_iff {w : StoredWord} : (∃ d, w = poisonForm d) ↔ syndrome w = 127 ∧ odd w = false := by
  constructor
  · rintro ⟨d, rfl⟩
    simp
  · rintro ⟨inverted, even⟩
    obtain ⟨d, clean⟩ : ∃ d, w ^^^ checkPositions = cleanForm d := by
      rw [exists_eq_cleanForm_iff, syndrome_xor, odd_xor, inverted, even]
      decide
    exact ⟨d, by rw [poisonForm_eq, ← clean, xor_xor_same]⟩

theorem exists_eq_flipAt_cleanForm_iff {w : StoredWord} {p : Nat} (inside : p < 40) :
    (∃ d, w = flipAt (cleanForm d) p) ↔ syndrome w = column p ∧ odd w = true := by
  rw [exists_eq_flipAt_iff, exists_eq_cleanForm_iff, syndrome_flipAt w inside, odd_flipAt w inside, Bool.not_eq_false']
  exact and_congr_left' BitVec.xor_eq_zero_iff

theorem exists_eq_flipAt_poisonForm_iff {w : StoredWord} {p : Nat} (inside : p < 40) :
    (∃ d, w = flipAt (poisonForm d) p) ↔ syndrome w = 127 ^^^ column p ∧ odd w = true := by
  rw [exists_eq_flipAt_iff, exists_eq_poisonForm_iff, syndrome_flipAt w inside, odd_flipAt w inside, Bool.not_eq_false']
  exact and_congr_left' ⟨fun h => by rw [← h, xor_xor_same], fun h => by rw [h, xor_xor_same]⟩

/-! ## The forms of a word (O6, O7) -/

/-- Settles O6: the numbers below 128 are gone through. -/
theorem signaturesOfDataPositions : Obligations.SignaturesOfDataPositions := by
  refine ⟨?_, ?_, ?_⟩ <;> decide

/-- Settles O7: the clean form's check positions are parities (`getLsbD_codeSeven`), and its parity is even (`odd_cleanForm`). -/
theorem checkFieldOfForms : Obligations.CheckFieldOfForms := by
  intro d
  refine ⟨fun j => getLsbD_cleanForm_data d, fun i seven => ?_, ?_, ?_, fun j data => ?_, fun i field => ?_⟩
  · rw [getLsbD_cleanForm_check, getLsbD_checkField d seven, getLsbD_codeSeven]
    rfl
  · have even := odd_cleanForm d
    rw [odd_eq_xor_last] at even
    exact (bne_eq_false_iff_eq.mp even).symm
  · simpa [odd] using odd_cleanForm d
  · exact getLsbD_append_low (~~~ checkField d) d data
  · rw [getLsbD_cleanForm_check]
    refine (getLsbD_append_high (~~~ checkField d) d i).trans ?_
    simp [field]

/-! ## The classes of a fetched word (O8, O9) -/

/-- The outcome that the parity and the syndrome of a fetched word have in the table of R80. -/
def outcomeOf (isOdd : Bool) (s : BitVec 7) : WordOutcome :=
  if isOdd then
    if s ∈ signatures ∨ s = 0 ∨ ones s = 1 then .corrected
    else if s = 127 ∨ ones s = 6 ∨ (127 ^^^ s) ∈ signatures then .poisoned
    else .uncorrectable
  else if s = 0 then .clean
  else if s = 127 then .poisoned
  else .uncorrectable

theorem classify_outcome (w : StoredWord) : (classify w).1 = outcomeOf (odd w) (syndrome w) := by
  have listed : syndrome w ∈ signatures ↔ (signatures.idxOf? (syndrome w)).isSome = true := by simp
  simp only [classify, outcomeOf, listed]
  cases signatures.idxOf? (syndrome w) with
  | some j => simp [apply_ite Prod.fst]
  | none => simp [apply_ite Prod.fst]

theorem outcomeOf_clean_iff (isOdd : Bool) (s : BitVec 7) : outcomeOf isOdd s = .clean ↔ s = 0 ∧ isOdd = false := by
  cases isOdd <;> simp [outcomeOf, apply_ite (· = WordOutcome.clean)]

/-- With an odd number of ones, the columns' syndromes are CORRECTED and their complements POISONED (R80). -/
theorem outcomeOf_odd_corrected_iff : ∀ s, outcomeOf true s = .corrected ↔ ∃ p, p < 40 ∧ s = column p := by decide

theorem outcomeOf_odd_poisoned_iff : ∀ s, outcomeOf true s = .poisoned ↔ ∃ p, p < 40 ∧ s = 127 ^^^ column p := by decide

theorem outcomeOf_even_ne_corrected : ∀ s, outcomeOf false s ≠ .corrected := by decide

theorem outcomeOf_even_poisoned_iff : ∀ s, outcomeOf false s = .poisoned ↔ s = 127 := by decide

/-- With an even number of ones, a syndrome that is neither 0 nor 127 is UNCORRECTABLE, and so is its complement (R80). -/
theorem outcomeOf_even_uncorrectable : ∀ s, s ≠ 0 → s ≠ 127 →
    outcomeOf false s = .uncorrectable ∧ outcomeOf false (127 ^^^ s) = .uncorrectable := by decide

theorem classify_corrected_iff {w : StoredWord} :
    (classify w).1 = .corrected ↔ ∃ p, p < 40 ∧ ∃ d, w = flipAt (cleanForm d) p := by
  rw [classify_outcome, exists_congr fun p => and_congr_right exists_eq_flipAt_cleanForm_iff]
  cases odd w with
  | true => simp [outcomeOf_odd_corrected_iff]
  | false => simp [outcomeOf_even_ne_corrected]

theorem classify_poisoned_iff {w : StoredWord} : (classify w).1 = .poisoned
    ↔ (∃ d, w = poisonForm d) ∨ ∃ p, p < 40 ∧ ∃ d, w = flipAt (poisonForm d) p := by
  rw [classify_outcome, exists_eq_poisonForm_iff, exists_congr fun p => and_congr_right exists_eq_flipAt_poisonForm_iff]
  cases odd w with
  | true => simp [outcomeOf_odd_poisoned_iff]
  | false => simp [outcomeOf_even_poisoned_iff]

/-- The syndromes of two inverted positions are none of those of a clean or a poison form. -/
theorem column_xor_column : ∀ p, p < 40 → ∀ q, q < 40 → p ≠ q →
    column p ^^^ column q ≠ 0 ∧ column p ^^^ column q ≠ 127 := by decide

/-- Over a form that is clean or poison, two inverted positions are UNCORRECTABLE (R79). -/
theorem classify_two_flips {form : StoredWord} (even : odd form = false) (known : syndrome form = 0 ∨ syndrome form = 127)
    {p q : Nat} (hp : p < 40) (hq : q < 40) (apart : p ≠ q) : (classify (flipAt (flipAt form p) q)).1 = .uncorrectable := by
  obtain ⟨not_clean, not_poison⟩ := column_xor_column p hp q hq apart
  obtain ⟨over_clean, over_poison⟩ := outcomeOf_even_uncorrectable _ not_clean not_poison
  rw [classify_outcome, odd_flipAt _ hq, odd_flipAt _ hp, syndrome_flipAt _ hq, syndrome_flipAt _ hp, even, BitVec.xor_assoc]
  rcases known with clean | poison
  · rw [clean]
    exact (congrArg (outcomeOf false) BitVec.zero_xor).trans over_clean
  · rw [poison]
    exact over_poison

theorem idxOf_column : ∀ p, p < 40 → signatures.idxOf? (column p) = if p < 32 then some p else none := by decide

theorem column_of_check : ∀ p, p < 40 → 32 ≤ p → column p = 0 ∨ ones (column p) = 1 := by decide

/-- One inverted position of a clean form is CORRECTED, with the form's data (R79). -/
theorem classify_flipAt_cleanForm (d : Word) {p : Nat} (inside : p < 40) :
    classify (flipAt (cleanForm d) p) = (.corrected, d) := by
  have inverted : syndrome (flipAt (cleanForm d) p) = column p := by
    rw [syndrome_flipAt _ inside, syndrome_cleanForm]
    exact BitVec.zero_xor
  simp only [classify, odd_flipAt _ inside, odd_cleanForm, inverted, idxOf_column p inside, storedData_flipAt _ inside,
    storedData_cleanForm]
  by_cases data : p < 32
  · simp [data, flipAt_flipAt]
  · have corrected := column_of_check p inside (Nat.le_of_not_lt data)
    simp only [if_neg data, if_pos corrected, Bool.not_false, if_true]

/-- Settles O8: a word's class is that of its parity and syndrome (`classify_outcome`), and those are the ones of the forms with
at most one position inverted. -/
theorem outcomeClasses : Obligations.OutcomeClasses := by
  refine ⟨fun w => ⟨?_, ?_, ?_, ?_, classify_data⟩, fun d p q before inside => ⟨?_, ?_⟩⟩
  · rw [classify_outcome, outcomeOf_clean_iff, eq_cleanForm_iff]
  · rw [classify_corrected_iff]
    exact ⟨fun ⟨p, inside, d, h⟩ => ⟨d, p, inside, h⟩, fun ⟨d, p, inside, h⟩ => ⟨p, inside, d, h⟩⟩
  · rw [classify_poisoned_iff, exists_or]
    exact or_congr_right ⟨fun ⟨p, inside, d, h⟩ => ⟨d, p, inside, h⟩, fun ⟨d, p, inside, h⟩ => ⟨p, inside, d, h⟩⟩
  · rintro d p inside rfl
    rw [classify_flipAt_cleanForm d inside]
  · exact classify_two_flips (odd_cleanForm d) (.inl (syndrome_cleanForm d)) (before.trans inside) inside before.ne
  · exact classify_two_flips (odd_poisonForm d) (.inr (syndrome_poisonForm d)) (before.trans inside) inside before.ne

/-- Settles O9: each injected form is in one of the classes of R79, and an inverted data position inverts the data. -/
theorem injectionOutcomes : Obligations.InjectionOutcomes := by
  intro d p q hp hq apart
  have inside {k : Nat} (data : k < 32) : k < 40 := by omega
  have two := classify_two_flips (odd_cleanForm d) (.inl (syndrome_cleanForm d)) (inside hp) (inside hq) apart
  have poisoned : (classify (poisonForm d)).1 = .poisoned := classify_poisoned_iff.mpr (.inl ⟨d, rfl⟩)
  have kept : (classify (poisonForm d)).2 = d :=
    (classify_data (by rw [poisoned]; nofun)).trans (storedData_poisonForm d)
  have inverted : (classify (flipAt (flipAt (cleanForm d) p) q)).2 = flipAt (flipAt d p) q := by
    rw [classify_data (by rw [two]; nofun), storedData_flipAt _ (inside hq), storedData_flipAt _ (inside hp),
      storedData_cleanForm, if_pos hp, if_pos hq]
  refine ⟨classify_flipAt_cleanForm d (inside hp), Prod.ext two inverted, ?_,
    classify_poisoned_iff.mpr (.inr ⟨p, inside hp, d, rfl⟩),
    classify_two_flips (odd_poisonForm d) (.inr (syndrome_poisonForm d)) (inside hp) (inside hq) apart, ?_⟩
  · rw [injectForm, storedData_cleanForm]
    exact Prod.ext poisoned kept
  · rw [injectForm, storedData_poisonForm]

end Sys2Proof.Machine

/-! The words of a WRITE: the stored forms of R82, the runs of R84 and the end of a merge read (O10, O11, O27). -/

namespace Sys2Proof.Machine

/-! ## Stored forms (O10) -/

/-- A byte of the mask is all ones or all zeros, as its byte is enabled (R1). -/
theorem enableMask_byte : ∀ (enables : BitVec 4) (k : Nat), k < 4 →
    (enableMask enables).extractLsb' (8 * k) 8 = if enables.getLsbD k then BitVec.allOnes 8 else 0 := by decide

/-- Each byte of merged data is the written or the stored word's (R82). -/
theorem mergeData_byte (enables : BitVec 4) (written stored : Word) {k : Nat} (byte : k < 4) :
    (mergeData enables written stored).extractLsb' (8 * k) 8
      = if enables.getLsbD k then written.extractLsb' (8 * k) 8 else stored.extractLsb' (8 * k) 8 := by
  have others : (~~~ enableMask enables).extractLsb' (8 * k) 8 = ~~~ (enableMask enables).extractLsb' (8 * k) 8 := by
    ext i inside
    have low : 8 * k + i < 32 := by omega
    simp [low]
  rw [mergeData, BitVec.extractLsb'_or, BitVec.extractLsb'_and, BitVec.extractLsb'_and, others, enableMask_byte enables k byte]
  split
  · rw [BitVec.and_allOnes, BitVec.not_allOnes, BitVec.and_zero, BitVec.or_zero]
  · exact (congrArg₂ _ BitVec.and_zero BitVec.and_allOnes).trans BitVec.zero_or

/-- The plan of a partial word by what the merge read fetched for it (R82). -/
theorem planWord_of_partial {w : WriteWord} (some_enabled : w.enables ≠ 0) (some_not : w.enables ≠ 15) (fetched : StoredWord) :
    planWord w fetched =
      if (classify fetched).1 = .clean ∨ (classify fetched).1 = .corrected then
        (some (cleanForm (mergeData w.enables w.data (classify fetched).2)), .good)
      else (some (poisonForm (mergeData w.enables w.data (storedData fetched))), .bad) := by
  have data := classify_data (w := fetched)
  obtain ⟨outcome, d, hc⟩ : ∃ outcome d, classify fetched = (outcome, d) := ⟨_, _, rfl⟩
  rw [hc] at data ⊢
  rw [planWord, if_neg some_enabled, if_neg some_not, hc]
  cases outcome with
  | clean | corrected => rfl
  | poisoned | uncorrectable => rw [← data nofun]; rfl

/-- Settles O10: byte by byte through the mask, and word by word through the outcome. -/
theorem storedFormsOfWrite : Obligations.StoredFormsOfWrite := by
  refine ⟨fun enables written stored k byte => mergeData_byte enables written stored byte, fun w fetched => ⟨fun all => ?_,
    fun no_byte => ?_, fun some_enabled some_not => planWord_of_partial some_enabled some_not fetched⟩⟩
  · simp [planWord, all]
  · simp [planWord, no_byte]

/-! ## Store runs (O11) -/

/-- The run holds the form for word `i` of the line. -/
def StoreRun.Holds (run : StoreRun) (i : Nat) (form : StoredWord) : Prop :=
  run.first ≤ i ∧ run.forms[i - run.first]? = some form

/-- A run's words are its first and those of the rest. -/
theorem StoreRun.holds_cons {first i : Nat} {form stored : StoredWord} {forms : List StoredWord} :
    StoreRun.Holds { first := first, forms := form :: forms } i stored
      ↔ i = first ∧ form = stored ∨ StoreRun.Holds { first := first + 1, forms := forms } i stored := by
  rcases Nat.lt_trichotomy i first with before | rfl | after
  · simp [StoreRun.Holds]; omega
  · simp [StoreRun.Holds]
  · obtain ⟨k, rfl⟩ := Nat.exists_eq_add_of_lt after
    have behind : first + k + 1 - first = k + 1 := by omega
    have behind' : first + k + 1 - (first + 1) = k := by omega
    have before : ¬ first + k + 1 = first := by omega
    simp [StoreRun.Holds, behind, behind', before]
    omega

theorem StoreRun.not_holds_nil {first i : Nat} {stored : StoredWord} :
    ¬ StoreRun.Holds { first := first, forms := [] } i stored := by
  simp [StoreRun.Holds]

/-- With a stored word in front, the first run starts there. -/
theorem storeRuns_some_first (first : Nat) (form : StoredWord) (rest : List (Option StoredWord)) :
    ∃ forms more, storeRuns first (some form :: rest) = { first := first, forms := forms } :: more := by
  unfold storeRuns
  split <;> exact ⟨_, _, rfl⟩

/-- A stored word in front either opens the first run of the words behind it, or is a run of its own, and then no run touches it
(R84). -/
theorem storeRuns_some (first : Nat) (form : StoredWord) (rest : List (Option StoredWord)) :
    (∃ forms more, storeRuns (first + 1) rest = { first := first + 1, forms := forms } :: more
        ∧ storeRuns first (some form :: rest) = { first := first, forms := form :: forms } :: more)
      ∨ storeRuns first (some form :: rest) = { first := first, forms := [form] } :: storeRuns (first + 1) rest
        ∧ ∀ run ∈ storeRuns (first + 1) rest, first + 1 < run.first := by
  match rest with
  | [] => exact .inr ⟨rfl, nofun⟩
  | none :: rest => exact .inr ⟨rfl, fun run hr => (storeRuns_mem (first := first + 2) (words := rest) hr).2.1⟩
  | some next :: rest =>
    obtain ⟨forms, more, behind⟩ := storeRuns_some_first (first + 1) next rest
    exact .inl ⟨forms, more, behind, by unfold storeRuns; rw [behind]⟩

/-- The words that some run holds: the word in front and those of the runs behind it. -/
theorem exists_holds_storeRuns_some {first i : Nat} {form stored : StoredWord} {rest : List (Option StoredWord)} :
    (∃ run ∈ storeRuns first (some form :: rest), run.Holds i stored)
      ↔ i = first ∧ form = stored ∨ ∃ run ∈ storeRuns (first + 1) rest, run.Holds i stored := by
  rcases storeRuns_some first form rest with ⟨forms, more, behind, joined⟩ | ⟨apart, -⟩
  · rw [joined, behind]
    simp only [List.exists_mem_cons_iff, StoreRun.holds_cons, or_assoc]
  · rw [apart]
    simp only [List.exists_mem_cons_iff, StoreRun.holds_cons, StoreRun.not_holds_nil, or_false]

/-- The runs hold exactly the stored words, each at its place (R84). -/
theorem exists_holds_storeRuns_iff {words : List (Option StoredWord)} {first k : Nat} {form : StoredWord} :
    (∃ run ∈ storeRuns first words, run.Holds (first + k) form) ↔ words[k]? = some (some form) := by
  induction words generalizing first k with
  | nil => simp [storeRuns]
  | cons word rest ih =>
    have none_before : ¬ ∃ run ∈ storeRuns (first + 1) rest, run.Holds first form := fun ⟨run, hr, le, _⟩ => by
      have := (storeRuns_mem hr).2.1
      omega
    have shifted : ∀ k, first + (k + 1) = first + 1 + k := by omega
    cases word with
    | none =>
      cases k with
      | zero => simpa [storeRuns] using none_before
      | succ k => rw [shifted, List.getElem?_cons_succ, ← ih (first := first + 1)]; rfl
    | some word =>
      rw [exists_holds_storeRuns_some]
      cases k with
      | zero => simp [none_before]
      | succ k => rw [shifted, List.getElem?_cons_succ, ← ih (first := first + 1)]; simp; omega

/-- A word not stored stands between any two runs (R84). -/
theorem storeRuns_apart (words : List (Option StoredWord)) (first : Nat) :
    (storeRuns first words).Pairwise fun a b => a.first + a.forms.length < b.first := by
  induction words generalizing first with
  | nil => exact .nil
  | cons word rest ih =>
    cases word with
    | none => exact ih (first + 1)
    | some form =>
      have behind := ih (first + 1)
      rcases storeRuns_some first form rest with ⟨forms, more, runs, joined⟩ | ⟨apart, beyond⟩
      · rw [runs, List.pairwise_cons] at behind
        rw [joined, List.pairwise_cons]
        refine ⟨fun run hr => ?_, behind.2⟩
        have := behind.1 run hr
        simp only [List.length_cons] at this ⊢
        omega
      · rw [apart]
        exact .cons (fun run hr => beyond run hr) behind

/-- Settles O11: by induction on the words, each stored word going in front of the runs behind it (`storeRuns_some`). -/
theorem storeRunsHoldStoredWords : Obligations.StoreRunsHoldStoredWords := by
  refine fun first words => ⟨fun k form => exists_holds_storeRuns_iff.symm, fun run hr => ?_, storeRuns_apart words first⟩
  obtain ⟨held, after, -⟩ := storeRuns_mem hr
  exact ⟨List.ne_nil_of_length_pos held, after⟩

/-! ## The end of a merge read (O27) -/

theorem State.hand_mergeRead {s : State} {a : Access} (mine : a.purpose = .mergeRead) (taken : a.discarded = false)
    (hp : s.upstream.progress = .mergeRead) {address n : Nat} {list : List WriteWord}
    (hc : s.current = some (.write address n list)) (ending : Ending) :
    s.hand a ending = s.endMergeRead address a.block list ending := by
  simp [State.hand, taken, mine, State.endUpstream, hp, hc]

/-- A read that offers no words leaves the write-back buffer alone (R83). -/
theorem State.takeWords_writeBack_of_quiet {use : ReadUse} (quiet : use.offers = false) (words : List StoredWord) (s : State)
    (word : Nat) (full : Bool) : (s.takeWords use word words full).writeBack = s.writeBack := by
  induction words generalizing s word full with
  | nil => rfl
  | cons w rest ih =>
    rw [State.takeWords_cons, ih]
    obtain ⟨outcome, data, hc⟩ : ∃ outcome data, classify w = (outcome, data) := ⟨_, _, rfl⟩
    cases outcome with
    | clean | uncorrectable => simp [State.takeWord, hc]
    | poisoned => cases hp : use.recordsPoison <;> simp [State.takeWord, hc, hp]
    | corrected => cases hr : s.settings.recordCorrected <;> simp [State.takeWord, hc, hr, quiet]

/-- A WRITE's word over a CLEAN word is stored whole or merged, and GOOD (R82). -/
theorem planWord_of_clean (w : WriteWord) {fetched : StoredWord} (clean : isPartial w = true → (classify fetched).1 = .clean) :
    planWord w fetched =
      (if w.enables = 0 then none
        else if w.enables = 15 then some (cleanForm w.data)
        else some (cleanForm (mergeData w.enables w.data (storedData fetched))), .good) := by
  by_cases no_byte : w.enables = 0
  · simp [planWord, no_byte]
  by_cases all : w.enables = 15
  · simp [planWord, all]
  have clean := clean (by rw [isPartial, bne_iff_ne.mpr no_byte, bne_iff_ne.mpr all]; rfl)
  rw [planWord_of_partial no_byte all, if_pos (.inl clean), if_neg no_byte, if_neg all, classify_data (by rw [clean]; nofun)]

section
variable {s : State} {a : Access} {address n first : Nat} {list : List WriteWord} {words : List StoredWord}
  (up : s.port.link = .up) (ho : s.port.outstanding = some a) (mine : a.purpose = .mergeRead) (taken : a.discarded = false)
  (hp : s.upstream.progress = .mergeRead) (hc : s.current = some (.write address n list))
include up ho mine taken hp hc

/-- A merge read that ends OK: its words are taken over the freed slot, the WRITE enters STORE, and a try follows (R38, R83). -/
theorem exec_mergeRead_ok (full : words.length = a.count) (start : ((partialSpan list).map (·.1)).getD 0 = first) {t : State}
    (ht : s.freeSlot.takeWords
      { source := .mergeRead, block := a.block, line := lineOf address, recordsPoison := true, offers := false }
      (wordOf address + first) words false = t) :
    exec (.memoryResponse a.tag .ok words false) s = .next (t.enterStore address first words list).tryStart := by
  have handed : s.freeSlot.hand a (.ok words) = t.enterStore address first words list := by
    rw [State.hand_mergeRead (s := s.freeSlot) mine taken hp hc, ← ht, ← start]
    rfl
  rw [exec_read_ok ho taken (by rw [mine]; rfl) full, handed, State.settle_of_up (by simpa [State.enterStore, ← ht] using up)]

/-- A merge read that fails: the WRITE is answered LINK_FAILED (R98). -/
theorem exec_mergeRead_failed (settled : s.settledLaw) {c : Instr} {u : State} (fails : s.failsBy a c u) :
    exec c s = .next
      { u with upstream := { s.upstream with progress := .answer (.write .linkFailed (mergeFailedStatuses list)) } } := by
  obtain ⟨mode, -, -, migration, -, upstream, link, -⟩ := State.failsBy_keeps fails
  have handed : u.hand a .failed = u.setProgress (.answer (.write .linkFailed (mergeFailedStatuses list))) :=
    State.hand_mergeRead mine taken (by rw [upstream]; exact hp) (by rw [State.current, upstream]; exact hc) .failed
  rw [exec_of_failsBy ho fails, handed, State.setProgress, upstream]
  exact congrArg _ (State.settle_of_settled (link.trans up)
    (State.mayTry_of_settled settled (by simp [State.dualPending, hp]) mode migration link))

end

/-- The forms planned for a WRITE whose merge read brought CLEAN words alone, all of them GOOD (R82). -/
theorem planWords_of_clean {list : List WriteWord} {words : List StoredWord} {first : Nat}
    (reached : ∀ k w, list[k]? = some w → isPartial w = true → k - first < words.length)
    (clean : ∀ w ∈ words, (classify w).1 = .clean) :
    (planWords first words list).map (·.1) = (list.zipIdx.map fun (w, k) =>
        if w.enables = 0 then none
        else if w.enables = 15 then some (cleanForm w.data)
        else some (cleanForm (mergeData w.enables w.data (storedData (words.getD (k - first) 0)))))
      ∧ (planWords first words list).map (·.2) = list.map fun _ => .good := by
  have reads_clean : ∀ x ∈ list.zipIdx, isPartial x.1 = true → (classify (words.getD (x.2 - first) 0)).1 = .clean := by
    rintro ⟨w, k⟩ hw is_partial
    have inside := reached k w (by simpa [List.mem_zipIdx_iff_getElem?] using hw) is_partial
    rw [List.getD_eq_getElem _ _ inside]
    exact clean _ (List.getElem_mem inside)
  have good : list.map (fun _ => WriteStatus.good) = list.zipIdx.map fun _ => .good := by
    conv_lhs => rw [← List.zipIdx_map_fst 0 list, List.map_map]
    rfl
  rw [good, planWords, List.map_map, List.map_map]
  exact ⟨List.map_congr_left fun x hx => congrArg Prod.fst (planWord_of_clean x.1 (reads_clean x hx)),
    List.map_congr_left fun x hx => congrArg Prod.snd (planWord_of_clean x.1 (reads_clean x hx))⟩

/-- Settles O27: the WRITE enters STORE with its planned words (`exec_mergeRead_ok`), CLEAN words being merged and no more
(`planWords_of_clean`); a failed merge read answers it (`exec_mergeRead_failed`). -/
theorem mergeReadEnds : Obligations.MergeReadEnds := by
  intro s a address n first last list words up settled ho mine taken hp hc ordered inside hfirst _ plan hplan
  obtain rfl : plan = planWords first words list := hplan
  have start := partialSpan_first (fun k w hk is_partial => (inside k w hk is_partial).1) hfirst
  refine ⟨fun count length => ⟨?_, fun clean => ?_⟩, fun c u fails =>
    exec_mergeRead_failed up ho mine taken hp hc settled fails⟩
  · refine ⟨_, exec_mergeRead_ok up ho mine taken hp hc length start rfl, ?_⟩
    simp [State.enterStore, State.takeWords_writeBack_of_quiet]
  · obtain ⟨forms, statuses⟩ := planWords_of_clean (list := list) (words := words) (first := first)
      (fun k w hk is_partial => by have := inside k w hk is_partial; omega) clean
    rw [exec_mergeRead_ok up ho mine taken hp hc length start (State.takeWords_clean clean _ _ _), State.enterStore, forms,
      statuses]
    exact congrArg _ (State.tryStart_of_settled
      (State.mayTry_of_settled settled (by simp [State.dualPending, hp]) rfl rfl rfl))

end Sys2Proof.Machine

/-! The upstream port: a transaction accepted, an answer taken, and the ends of a fetch (O13, O15, O16, O25, O26). -/

namespace Sys2Proof.Machine

/-! ## A transaction accepted (O13) -/

theorem admissionMark_eq (mode : Mode) : admissionMark mode = if mode = .online then .serve else .refuse := by
  cases mode <;> rfl

/-- A transaction accepted into an empty queue is in progress at once (R91, R92). -/
theorem exec_accepted_alone {s : State} (empty : s.upstream.held = []) (t : Transaction) :
    exec (.transactionAccepted t) s = .next
      (State.settle (State.beginHead
        { s with
          upstream := { s.upstream with
            held := [{ transaction := t, mark := if s.mode = .online then .serve else .refuse }] } })) := by
  simp [exec, execTransactionAccepted, State.accept, empty, admissionMark_eq]

theorem State.beginHead_of_refuse {s : State} {h : Held} {rest : List Held} (hh : s.upstream.held = h :: rest)
    (refused : h.mark = .refuse) : s.beginHead = s.setProgress (.answer (bareAnswer h.transaction .notReady)) := by
  simp [State.beginHead, hh, refused]

theorem State.beginHead_of_serve {s : State} {h : Held} {rest : List Held} (hh : s.upstream.held = h :: rest)
    (served : h.mark = .serve) : s.beginHead = s.beginServed h.transaction := by
  simp [State.beginHead, hh, served]

/-- Nothing follows a change where the upstream port needs no access and no try is due. -/
theorem State.settle_of_quiet {s : State} (quiet : s.upstream.progress.needsAccess = false) (rests : s.mayTry = false) :
    s.settle = s := by
  rw [State.settle, State.endWithoutIssue_of_quiet quiet, State.endWithoutIssue_of_quiet quiet,
    State.tryStart_of_settled rests]

/-- Outside ONLINE no try is due (R38). -/
theorem State.mayTry_of_not_online {s : State} (h : s.mode ≠ .online) : s.mayTry = false := by
  simp [State.mayTry, h]

/-- Settles O13: acceptance goes by the number of transactions held; one marked REFUSE is answered as soon as it is in progress. -/
theorem acceptanceTakesMark : Obligations.AcceptanceTakesMark := by
  refine fun t s => ⟨fun full => ?_, fun some_held room => ?_, fun empty off _ => ?_⟩
  · simp [exec, execTransactionAccepted, Nat.not_lt.mpr full]
  · have not_empty : s.upstream.held ≠ [] := List.ne_nil_of_length_pos some_held
    simp [exec, execTransactionAccepted, room, State.accept, not_empty, admissionMark_eq]
  · rw [exec_accepted_alone empty, if_neg off]
    exact congrArg _ (State.settle_of_quiet rfl (State.mayTry_of_not_online off))

/-! ## A transaction marked SERVE in progress (O15, O16) -/

/-- The words in a store run are those to be stored (R84). -/
theorem storeRuns_cover_iff (first : Nat) (words : List (Option StoredWord)) (k : Nat) :
    (∃ run ∈ storeRuns first words, run.first ≤ first + k ∧ first + k < run.first + run.forms.length)
      ↔ ∃ form, words[k]? = some (some form) := by
  have holds := (storeRunsHoldStoredWords first words).1 k
  constructor
  · rintro ⟨run, mem, low, high⟩
    have inside : first + k - run.first < run.forms.length := by omega
    exact ⟨_, (holds _).mpr ⟨run, mem, low, List.getElem?_eq_getElem inside⟩⟩
  · rintro ⟨form, at_k⟩
    obtain ⟨run, mem, low, in_run⟩ := (holds form).mp at_k
    obtain ⟨inside, -⟩ := List.getElem?_eq_some_iff.mp in_run
    exact ⟨run, mem, low, by omega⟩

/-- Where the first run of a plan fails, all its words GOOD, the words to be stored are BAD (R102). -/
theorem StoreWork.failed_storeRuns (first : Nat) (forms : List (Option StoredWord)) :
    StoreWork.failed { runs := storeRuns first forms, statuses := forms.map fun _ => .good, dual := none } first
      = .answer (.write .linkFailed (forms.map fun form => if form = none then .good else .bad)) := by
  unfold StoreWork.failed
  congr 2
  refine List.ext_getElem (by simp) fun k _ inside => ?_
  have in_forms : k < forms.length := by simpa using inside
  simp only [List.getElem_map, List.getElem_zipIdx, Nat.zero_add, storeRuns_cover_iff, List.getElem?_eq_getElem in_forms]
  cases forms[k] <;> simp

/-- A WRITE with no partial word whose first run fails: every word with a byte enabled is BAD (R98, R101, R102). -/
theorem StoreWork.failed_of_whole (first : Nat) (words : List WriteWord) :
    StoreWork.failed
      { runs := storeRuns first (words.map fun w => if w.enables = 0 then none else some (cleanForm w.data)),
        statuses := words.map fun _ => .good, dual := none } first
      = .answer (.write .linkFailed (mergeFailedStatuses words)) := by
  have failed := StoreWork.failed_storeRuns first
    (words.map fun w => if w.enables = 0 then none else some (cleanForm w.data))
  simp only [List.map_map, Function.comp_def] at failed
  refine failed.trans (congrArg (fun statuses => Progress.answer (.write .linkFailed statuses)) ?_)
  refine List.map_congr_left fun w _ => ?_
  by_cases no_byte : w.enables = 0 <;> simp [no_byte]

section
variable {c : Settings} {link : Link} {t : Transaction}

theorem firstPhase_badShape (bad : shapeOk t = false) : firstPhase c link t (.answer (bareAnswer t .badRequest)) :=
  ⟨fun _ => rfl, by simp [bad], by simp [bad]⟩

theorem firstPhase_outOfRange (shape : shapeOk t = true) (outside : c.visible * 256 ≤ firstAddress t) :
    firstPhase c link t (.answer (bareAnswer t .outOfRange)) :=
  ⟨by simp [shape], fun _ _ => rfl, fun _ inside => absurd inside (Nat.not_lt.mpr outside)⟩

theorem firstPhase_read_of_down {a n : Nat} (shape : shapeOk (.read a n) = true) (near : a < c.visible * 256) :
    firstPhase c .down (.read a n) (.answer (.read .linkFailed [])) := by
  simp [firstPhase, shape, firstAddress, Nat.not_le.mpr near]

variable {a n : Nat} {words : List WriteWord} (shape : shapeOk (.write a n words) = true) (near : a < c.visible * 256)
include shape near

theorem firstPhase_noBytes (none_enabled : ∀ w ∈ words, w.enables = 0) :
    firstPhase c .down (.write a n words) (.answer (.write .okay (words.map fun _ => .good))) := by
  refine ⟨by simp [shape], fun _ far => absurd near (Nat.not_lt.mpr far), fun _ _ => ⟨by simp, ?_⟩⟩
  rintro _ _ _ ⟨⟩
  refine ⟨fun _ => rfl, by simp, by simp, ?_⟩
  rintro - ⟨w, hw, enabled⟩
  exact absurd (none_enabled w hw) enabled

theorem firstPhase_enabled_of_down (enabled : ∃ w ∈ words, w.enables ≠ 0) :
    firstPhase c .down (.write a n words) (.answer (.write .linkFailed (mergeFailedStatuses words))) := by
  refine ⟨by simp [shape], fun _ far => absurd near (Nat.not_lt.mpr far), fun _ _ => ⟨by simp, ?_⟩⟩
  rintro _ _ _ ⟨⟩
  refine ⟨fun none_enabled => ?_, by simp, by simp, fun _ _ => rfl⟩
  obtain ⟨w, hw, byte⟩ := enabled
  exact absurd (none_enabled w hw) byte

end

/-- While the link is DOWN, with nothing outstanding, a transaction marked SERVE comes to rest in the phase that R94's checks and
R103 give it. -/
theorem State.settle_beginServed_of_down {s : State} {t : Transaction} (down : s.port.link = .down)
    (free : s.port.outstanding = none) (hc : s.current = some t) :
    ∃ p, firstPhase s.settings .down t p ∧ (s.beginServed t).settle = s.setProgress p := by
  obtain ⟨quiet, ends⟩ := State.settle_requestEnds (t := s.setProgress (servedPhase s t)) down free
  rw [State.beginServed_eq]
  have rests : ∀ answer, servedPhase s t = .answer answer →
      (s.setProgress (servedPhase s t)).settle = s.setProgress (.answer answer) := fun answer h => by
    rw [quiet (by rw [h]; rfl), h]
  by_cases shape : shapeOk t = true
  case neg =>
    have bad : shapeOk t = false := by simpa using shape
    exact ⟨_, firstPhase_badShape bad, rests _ (servedPhase_badShape bad)⟩
  by_cases near : firstAddress t < s.settings.visible * 256
  case neg =>
    have outside := Nat.le_of_not_lt near
    exact ⟨_, firstPhase_outOfRange shape outside, rests _ (servedPhase_outOfRange shape outside)⟩
  have inside : inRange s.settings t = true := decide_eq_true near
  obtain ⟨fetches, merges, stores⟩ := ends t hc
  cases t with
  | read a n => exact ⟨_, firstPhase_read_of_down shape near, fetches (servedPhase_read shape inside)⟩
  | write a n words =>
    by_cases enabled : ∃ w ∈ words, w.enables ≠ 0
    case neg =>
      have none_enabled : ∀ w ∈ words, w.enables = 0 := by simpa using enabled
      exact ⟨_, firstPhase_noBytes shape near none_enabled, rests _ (servedPhase_noBytes shape inside none_enabled)⟩
    refine ⟨_, firstPhase_enabled_of_down shape near enabled, ?_⟩
    by_cases merged : ∃ w ∈ words, isPartial w = true
    · exact merges a n words rfl (servedPhase_partial shape inside merged)
    · have whole : ∀ w ∈ words, isPartial w = false := by simpa using merged
      obtain ⟨single, -⟩ := stores _ (servedPhase_whole shape inside enabled whole) _ rfl
      rw [single rfl]
      exact congrArg s.setProgress (StoreWork.failed_of_whole (a % 16) words)

/-- A transaction marked SERVE that becomes the one in progress comes to rest in the phase that R94's checks and the link give it,
where it brings no try about. -/
theorem State.settle_beginServed {s : State} {t : Transaction} (rests : (s.beginServed t).mayTry = false)
    (free : s.port.link = .down → s.port.outstanding = none) (hc : s.current = some t) :
    ∃ p, firstPhase s.settings s.port.link t p ∧ (s.beginServed t).settle = s.setProgress p := by
  cases link : s.port.link with
  | up =>
    refine ⟨_, servedPhase_firstPhase s t, ?_⟩
    rw [State.settle_of_settled (by simpa [State.beginServed_eq] using link) rests, State.beginServed_eq]
  | down => exact State.settle_beginServed_of_down link (free link) hc

/-- Settles O15: the transaction comes to rest as `State.settle_beginServed_of_down` says, and `firstPhase` names the answer. -/
theorem linkDownAnswersAtOnce : Obligations.LinkDownAnswersAtOnce := by
  intro t s online empty down free shape inside
  have near : firstAddress t < s.settings.visible * 256 := of_decide_eq_true inside
  obtain ⟨p, ⟨-, -, served⟩, rests⟩ := State.settle_beginServed_of_down (t := t)
    (s := { s with upstream := { s.upstream with held := [{ transaction := t, mark := .serve }] } }) down free rfl
  obtain ⟨reads, writes⟩ := served shape near
  rw [exec_accepted_alone empty, if_pos online]
  refine ⟨fun a n ht => ?_, fun a n words ht enabled => ?_⟩
  · obtain rfl := reads a n ht
    exact congrArg _ rests
  · obtain ⟨-, -, -, fails⟩ := writes a n words ht
    obtain rfl := fails rfl enabled
    exact congrArg _ rests

/-! ## An answer taken (O16) -/

/-- STOPPING ends exactly where every transaction held is marked REFUSE (R150). -/
theorem State.endStopping_eq (s : State) : s.endStopping = { s with
    mode := if s.mode = .stopping ∧ ∀ x ∈ s.upstream.held, x.mark = .refuse then .offline else s.mode } := by
  have unserved : s.holdsServe = false ↔ ∀ x ∈ s.upstream.held, x.mark = .refuse := by
    simp only [State.holdsServe, List.any_eq_false, beq_iff_eq]
    refine forall₂_congr fun x _ => ?_
    cases x.mark <;> simp
  simp only [State.endStopping, unserved]
  split <;> rfl

/-- The transaction behind the answer taken is in progress, and STOPPING may end (R92, R150). -/
theorem exec_answerTaken {s : State} {given : Answer} {h : Held} {rest : List Held} (hp : s.upstream.progress = .answer given)
    (hh : s.upstream.held = h :: rest) :
    exec .answerTaken s = .next
      (State.settle (State.beginHead
        { s with
          mode := if s.mode = .stopping ∧ ∀ x ∈ rest, x.mark = .refuse then .offline else s.mode
          upstream := { s.upstream with held := rest } })) := by
  simp only [exec, execAnswerTaken, hp, State.leaveQueue, State.endStopping_eq, hh, List.tail_cons]

/-- A try that is not due stays so where STOPPING may end and no spare write was pending. -/
theorem State.mayTry_of_left {s t : State} {ends : Prop} [Decidable ends] (settled : s.settledLaw) (single : s.dualPending = false)
    (mode : t.mode = if ends then .offline else s.mode) (migration : t.migration = s.migration)
    (link : t.port.link = s.port.link) : t.mayTry = false := by
  by_cases h : ends
  · exact State.mayTry_of_not_online (by rw [mode, if_pos h]; decide)
  · exact State.mayTry_of_settled settled single (by rw [mode, if_neg h]) migration link

/-- Settles O16: the mark of the transaction behind decides what it rests in (`State.settle_beginServed` where it is SERVE). -/
theorem answerTakenLeavesQueue : Obligations.AnswerTakenLeavesQueue := by
  intro s given h rest hp hh settled
  have single : s.dualPending = false := by simp [State.dualPending, hp]
  rw [exec_answerTaken hp hh]
  refine ⟨?_, ?_⟩
  · rintro rfl
    simp only [List.not_mem_nil, false_implies, implies_true, and_true]
    exact congrArg _ (State.settle_of_quiet rfl (State.mayTry_of_left settled single rfl rfl rfl))
  · rintro next more rfl
    refine ⟨fun refused => ?_, fun served free => ?_⟩
    · rw [State.beginHead_of_refuse rfl refused]
      exact congrArg _ (State.settle_of_quiet rfl (State.mayTry_of_left settled single rfl rfl rfl))
    · have stays : ¬ (s.mode = .stopping ∧ ∀ x ∈ next :: more, x.mark = .refuse) := fun ⟨_, refused⟩ => by
        simpa [served] using refused next
      rw [if_neg stays, State.beginHead_of_serve rfl served]
      obtain ⟨p, phase, rests⟩ := State.settle_beginServed (t := next.transaction)
        (s := { s with upstream := { s.upstream with held := next :: more } })
        (by rw [State.beginServed_eq]; exact State.mayTry_of_settled settled single rfl rfl rfl) free rfl
      exact ⟨p, phase, congrArg _ rests⟩

/-! ## The ends of a fetch (O25, O26) -/

/-- The data read is the data stored, but for a CORRECTED word (R80). -/
theorem classify_data_if (w : StoredWord) :
    (classify w).2 = if (classify w).1 = .corrected then (classify w).2 else storedData w := by
  by_cases corrected : (classify w).1 = .corrected
  · rw [if_pos corrected]
  · rw [if_neg corrected, classify_data corrected]

/-- The answer of a fetch whose words are all CLEAN (R96). -/
theorem readAnswer_clean {words : List StoredWord} (clean : ∀ w ∈ words, (classify w).1 = .clean) :
    readAnswer words = .read .okay (words.map fun w => { data := storedData w, status := .good }) := by
  have each : words.map answerWord = words.map fun w => { data := storedData w, status := .good } :=
    List.map_congr_left fun w hw => by simp [answerWord, classify_data, clean w hw]
  rw [readAnswer_eq, if_pos fun w hw => .inl (clean w hw), each]

section
variable {s : State} {a : Access} {t : Transaction} (up : s.port.link = .up) (ho : s.port.outstanding = some a)
  (mine : a.purpose = .fetch) (taken : a.discarded = false) (hp : s.upstream.progress = .fetch) (hc : s.current = some t)
include mine taken hp hc

/-- The end of a fetch goes to the READ in progress. -/
theorem State.hand_fetch (ending : Ending) : s.hand a ending = s.endFetch (firstAddress t) a.block ending := by
  simp [State.hand, taken, mine, State.endUpstream, hp, hc]

include up ho

/-- A fetch that ends OK: its words are taken over the freed slot, the READ is answered, and a try follows (R38, R95 to R97). -/
theorem exec_fetch_ok {words : List StoredWord} (full : words.length = a.count) {u : State}
    (hu : s.freeSlot.takeWords
      { source := .upstreamFetch, block := a.block, line := lineOf (firstAddress t), recordsPoison := true,
        offers := s.settings.repairOnRead } (wordOf (firstAddress t)) words false = u) :
    exec (.memoryResponse a.tag .ok words false) s = .next (u.setProgress (.answer (readAnswer words))).tryStart := by
  have handed : s.freeSlot.hand a (.ok words) = u.setProgress (.answer (readAnswer words)) := by
    rw [State.hand_fetch (s := s.freeSlot) mine taken hp hc, ← hu]
    rfl
  exact exec_read_ok_try up ho taken full (by rw [mine]; rfl) handed (by simp [← hu])

/-- A fetch that fails: the READ is answered LINK_FAILED with an empty list, and no more (R95). -/
theorem exec_fetch_failed (settled : s.settledLaw) {c : Instr} {u : State} (fails : s.failsBy a c u) :
    exec c s = .next { u with upstream := { s.upstream with progress := .answer (.read .linkFailed []) } } := by
  obtain ⟨mode, -, -, migration, -, upstream, link, -⟩ := State.failsBy_keeps fails
  have handed : u.hand a .failed = u.setProgress (.answer (.read .linkFailed [])) :=
    State.hand_fetch mine taken (by rw [upstream]; exact hp) (by rw [State.current, upstream]; exact hc) .failed
  rw [exec_of_failsBy ho fails, handed, State.setProgress, upstream]
  exact congrArg _ (State.settle_of_settled (link.trans up)
    (State.mayTry_of_settled settled (by simp [State.dualPending, hp]) mode migration link))

end

/-- The words of a read are offered for write-back where the read's use says so, and are not elsewhere (R97, R118). -/
theorem State.takeWords_writeBack_if (use : ReadUse) (words : List StoredWord) (s : State) (word : Nat) (full : Bool) :
    (s.takeWords use word words full).writeBack =
      if use.offers then (offersOf use.block use.line word words).foldl WriteBackBuffer.offer s.writeBack else s.writeBack := by
  by_cases offers : use.offers = true
  · rw [if_pos offers, State.takeWords_writeBack offers]
  · rw [if_neg offers, State.takeWords_writeBack_of_quiet (by simpa using offers)]

/-- Settles O25: the words are taken and answered (`exec_fetch_ok`, `readAnswer_eq`); CLEAN ones are answered and no more. -/
theorem fetchAnswersWords : Obligations.FetchAnswersWords := by
  intro s a t words up ho mine taken hp hc full
  refine ⟨⟨_, if ∀ w ∈ words, (classify w).1 = .clean ∨ (classify w).1 = .corrected then .okay else .dataError,
    words.map answerWord, exec_fetch_ok up ho mine taken hp hc full rfl, by simp, by simp [readAnswer_eq], by simp, by simp,
    by simp, by simp, ?_, List.length_map _, fun k w at_k => ?_, ?_, ite_eq_or_eq _ _ _⟩, fun settled clean => ?_⟩
  · simp [State.takeWords_writeBack_if]
  · rw [List.getElem?_map, at_k, ← classify_data_if]
    rfl
  · simp only [ite_eq_left_iff, reduceCtorEq, imp_false, not_not]
  · rw [exec_fetch_ok up ho mine taken hp hc full (State.takeWords_clean clean _ _ _), readAnswer_clean clean]
    exact congrArg _ (State.tryStart_of_settled
      (State.mayTry_of_settled settled (by simp [State.dualPending, hp]) rfl rfl rfl))

/-- Settles O26: a FAULT and an expiry are the two ways to fail (`State.failsBy`); the READ takes either ending alike. -/
theorem fetchFails : Obligations.FetchFails := by
  intro s a t up settled ho mine taken hp hc
  have not_writeBack : ¬ a.purpose = .writeBack := by rw [mine]; decide
  refine ⟨?_, fun room => ?_⟩
  · have fails := exec_fetch_failed up ho mine taken hp hc settled
      ⟨.linkFault, s.port.abandoned, .inl ⟨⟨[], rfl⟩, rfl, rfl⟩, rfl⟩
    rw [if_neg not_writeBack] at fails
    exact fails
  · have fails := exec_fetch_failed up ho mine taken hp hc settled
      ⟨.linkTimeout, s.port.abandoned ++ [a.tag], .inr ⟨rfl, room, rfl, rfl⟩, rfl⟩
    rw [if_neg not_writeBack] at fails
    exact fails

end Sys2Proof.Machine

/-! The memory-side port and the pacing items: the next tag, stray responses, a step, and the writes of the pacing and alert items
(O1, O18, O24, O49). -/

namespace Sys2Proof.Machine

/-! ## The next tag (O18) -/

/-- The next tag is the first one, counting up from the tag last given, that is not abandoned (R109). -/
theorem nextTag_first {last : Tag} {abandoned : List Tag} (few : abandoned.length ≤ 8) :
    ∃ k, k < 16 ∧ nextTag last abandoned = last + 1 + BitVec.ofNat 4 k
      ∧ ∀ m, m < k → last + 1 + BitVec.ofNat 4 m ∈ abandoned := by
  have fresh := nextTag_not_mem (last := last) few
  unfold nextTag at fresh ⊢
  rw [List.find?_map] at fresh ⊢
  cases found : (List.range 16).find? ((fun t => !abandoned.contains t) ∘ fun k => last + 1 + BitVec.ofNat 4 k) with
  | none =>
    have taken : last + 1 ∈ abandoned := by simpa using List.find?_eq_none.mp found 0 (by decide)
    rw [found] at fresh
    exact absurd taken fresh
  | some k =>
    obtain ⟨-, small, before⟩ := List.find?_range_eq_some.mp found
    exact ⟨k, List.mem_range.mp small, rfl, fun m less => by simpa using before m less⟩

/-- Settles O18: the search is for the first tag that is not abandoned, and 16 tags are more than the set can hold. -/
theorem tagSkipsAbandoned : Obligations.TagSkipsAbandoned :=
  fun _ _ few => ⟨nextTag_not_mem few, nextTag_first few⟩

/-! ## Stray responses (O24) -/

/-- A response with no access outstanding of its tag is late or foreign (R111). -/
theorem exec_strayResponse {s : State} {tag : Tag} (other : ∀ a ∈ s.port.outstanding, a.tag ≠ tag) (result : MemResult)
    (words : List StoredWord) (grantFirst : Bool) :
    exec (.memoryResponse tag result words grantFirst) s = .next (s.strayResponse tag) := by
  refine congrArg Host.Outcome.next ?_
  cases ho : s.port.outstanding with
  | none => simp only [State.takeResponse, ho]
  | some a => simp only [State.takeResponse, ho, if_neg (other a ho)]

/-- Settles O24: `State.strayResponse` asks whether the tag is an abandoned one. -/
theorem strayResponsesDiscarded : Obligations.StrayResponsesDiscarded := by
  intro s tag result words grantFirst other
  rw [exec_strayResponse other]
  exact ⟨fun late => congrArg Host.Outcome.next (if_pos late), fun foreign => congrArg Host.Outcome.next (if_neg foreign)⟩

/-! ## The timers compared with their limits (R110, R125) -/

/-- A response timer below LINK_TIMEOUT, or none running, ends no access (R110). -/
theorem State.checkResponseTimer_early {s : State} (early : ∀ a ∈ s.port.outstanding, a.elapsed < s.settings.linkTimeout) :
    s.checkResponseTimer = s := by
  cases ho : s.port.outstanding with
  | none => simp only [State.checkResponseTimer, ho]
  | some a => simp only [State.checkResponseTimer, ho, if_neg (Nat.not_le.mpr (early a ho))]

/-- An access that times out is over, and its tag abandoned, whether or not the link stays UP (R110, R113). -/
theorem State.timedOut_port (s : State) (a : Access) :
    (s.timedOut a).port.outstanding = none ∧ (s.timedOut a).port.abandoned = s.port.abandoned ++ [a.tag] := by
  unfold State.timedOut
  dsimp only
  split <;> exact ⟨rfl, rfl⟩

/-- A response timer at or above LINK_TIMEOUT ends its access: what the requester makes of the ending issues none and leaves the
abandoned set (R110, R113). -/
theorem State.checkResponseTimer_due {s : State} {a : Access} (ho : s.port.outstanding = some a)
    (due : s.settings.linkTimeout ≤ a.elapsed) :
    s.checkResponseTimer.port.outstanding = none
      ∧ s.checkResponseTimer.port.abandoned = s.port.abandoned ++ [a.tag] := by
  obtain ⟨free, joined⟩ := s.timedOut_port a
  have expired : s.checkResponseTimer = ((s.timedOut a).hand a .failed).settle := by
    simp only [State.checkResponseTimer, ho, if_pos due]
    exact State.expireResponse_of_some ho false
  obtain ⟨-, -, abandoned⟩ := (State.settle_sameLink _).trans (State.hand_failed_sameLink (s.timedOut a) a)
  rw [expired]
  exact ⟨((State.settle_within _).trans (State.hand_failed_within _ a)).free free, abandoned.trans joined⟩

/-- An interval timer at or above SCRUB_INTERVAL starts again, and an IDLE scrubber goes DUE; one below it, or a stopped one,
changes nothing (R125). -/
theorem State.checkIntervalTimer_eq (s : State) : s.checkIntervalTimer = { s with
    scrubber :=
      if ∃ time ∈ s.scrubber.timer, s.settings.scrubInterval ≤ time then
        { s.scrubber with timer := some 0, state := if s.scrubber.state = .idle then .due else s.scrubber.state }
      else s.scrubber } := by
  unfold State.checkIntervalTimer
  cases running : s.scrubber.timer with
  | none => simp
  | some time =>
    by_cases due : s.settings.scrubInterval ≤ time
    · cases state : s.scrubber.state <;> simp [due, State.expireInterval, running, state]
    · simp [due]

/-! ## A step (O1) -/

/-- Settles O1: a microsecond in which neither timer reaches its limit only ages the two timers. -/
theorem stepRunsFrontCommand : Obligations.StepRunsFrontCommand := by
  refine ⟨fun _ _ _ => rfl, fun s empty response interval => ?_⟩
  have ticked : step s = .next s.tick := by simp only [step, empty]
  have early : s.passMicrosecond.checkResponseTimer = s.passMicrosecond := by
    refine State.checkResponseTimer_early fun b hb => ?_
    obtain ⟨a, ha, rfl⟩ := Option.map_eq_some_iff.mp hb
    exact response a ha
  have running : ¬ ∃ time ∈ s.passMicrosecond.scrubber.timer, s.passMicrosecond.settings.scrubInterval ≤ time := by
    rintro ⟨_, aged, due⟩
    obtain ⟨time, ht, rfl⟩ := Option.map_eq_some_iff.mp aged
    exact Nat.not_le.mpr (interval time ht) due
  rw [ticked, State.tick, early, State.checkIntervalTimer_eq, if_neg running]
  rfl

/-! ## Writes of the pacing and alert items (O49) -/

section
variable (s : State) (v : Word)

theorem exec_scrubEnable :
    exec (.scrubEnable s.management.address v) s = .next ((s.onBus true []).writeScrubEnable v.toNat) :=
  congrArg Host.Outcome.next (State.takeFrame_ours rfl _)

theorem exec_scrubInterval :
    exec (.scrubInterval s.management.address v) s = .next ((s.onBus true []).writeScrubInterval v.toNat) :=
  congrArg Host.Outcome.next (State.takeFrame_ours rfl _)

theorem exec_linkTimeout :
    exec (.linkTimeout s.management.address v) s = .next ((s.onBus true []).writeLinkTimeout v.toNat) :=
  congrArg Host.Outcome.next (State.takeFrame_ours rfl _)

/-- SCRUB_ENABLE off: the timer stopped and a scrub withdrawn, with an outstanding read's result discarded (R124, R130). -/
theorem exec_scrubEnable_off : exec (.scrubEnable s.management.address 0) s = .next
    (State.answered
      { s with
        settings := { s.settings with scrubEnable := false }
        scrubber := { s.scrubber with timer := none, state := .idle }
        port := { s.port with
          scrubPassed := 0
          outstanding :=
            if s.scrubber.state = .pending then
              s.port.outstanding.map fun a => { a with discarded := a.discarded || a.purpose == .scrubRead }
            else s.port.outstanding } } .ok []) := by
  have written : (s.onBus true []).writeScrubEnable (0 : Word).toNat
      = (State.withdrawScrub
          { s.onBus true [] with settings := { s.settings with scrubEnable := false } }).followTimer.answerStatus .ok := rfl
  rw [exec_scrubEnable, written, State.withdrawScrub_eq, State.followTimer_eq]
  by_cases pending : s.scrubber.state = .pending
  · simp only [State.onBus_scrubber, pending, BEq.rfl, Bool.and_true, Bool.false_eq_true, false_and, and_false, if_false,
      if_true]
    rfl
  · simp only [State.onBus_scrubber, beq_eq_false_iff_ne.mpr pending, Bool.and_false, Bool.or_false, Option.map_id_fun', id_eq,
      Bool.false_eq_true, false_and, and_false, if_false, pending]
    rfl

/-- SCRUB_ENABLE on: the timer runs where its other conditions hold (R124, R131). -/
theorem exec_scrubEnable_on : exec (.scrubEnable s.management.address 1) s = .next
    (State.answered
      { s with
        settings := { s.settings with scrubEnable := true }
        scrubber := { s.scrubber with
          timer := if s.mode = .online ∧ s.port.link = .up then some (s.scrubber.timer.getD 0) else none } } .ok []) := by
  have written : (s.onBus true []).writeScrubEnable (1 : Word).toNat
      = (State.followTimer
          { s.onBus true [] with settings := { s.settings with scrubEnable := true } }).answerStatus .ok := rfl
  rw [exec_scrubEnable, written, State.followTimer_eq]
  simp only [true_and]
  rfl

end

section
variable {s : State} {v : Word}

/-- A write of an item that no timer and no table follows: the item set, or the value refused (R161). -/
theorem exec_plainItem {i : Instr} {low high value : Nat} (c : Settings → Settings) {inside : Prop} [Decidable inside]
    (written : exec i s = .next (s.takeFrame s.management.address fun u =>
      u.ranged low high value fun u => State.answerStatus { u with settings := c u.settings } .ok))
    (range : low ≤ value ∧ value ≤ high ↔ inside) :
    exec i s = .next
      (if inside then State.answered { s with settings := c s.settings } .ok [] else s.answered .badArgument []) := by
  rw [written, State.takeFrame_ours rfl]
  exact congrArg Host.Outcome.next (if_congr range rfl rfl)

/-- A SCRUB_INTERVAL in range is compared at once with the running timer (R125). -/
theorem exec_scrubInterval_inside (least : 1 ≤ v.toNat) (most : v.toNat ≤ 65535) :
    exec (.scrubInterval s.management.address v) s = .next
      (State.answered
        { s with
          settings := { s.settings with scrubInterval := v.toNat }
          scrubber :=
            if ∃ time ∈ s.scrubber.timer, v.toNat ≤ time then
              { s.scrubber with timer := some 0, state := if s.scrubber.state = .idle then .due else s.scrubber.state }
            else s.scrubber } .ok []) := by
  rw [exec_scrubInterval, State.writeScrubInterval, State.ranged_inside least most]
  exact congrArg (fun u : State => Host.Outcome.next (u.answerStatus .ok)) (State.checkIntervalTimer_eq _)

/-- A LINK_TIMEOUT in range is compared at once with the running response timer (R110). -/
theorem exec_linkTimeout_inside (least : 8 ≤ v.toNat) (most : v.toNat ≤ 1023) :
    exec (.linkTimeout s.management.address v) s = .next
      ((State.checkResponseTimer
        { s.onBus true [] with settings := { s.settings with linkTimeout := v.toNat } }).answerStatus .ok) := by
  rw [exec_linkTimeout, State.writeLinkTimeout, State.ranged_inside least most]
  rfl

/-- A LINK_TIMEOUT at or below the running response timer ends the access (R110). -/
theorem exec_linkTimeout_ends {a : Access} (least : 8 ≤ v.toNat) (most : v.toNat ≤ 1023) (ho : s.port.outstanding = some a)
    (due : v.toNat ≤ a.elapsed) :
    ∃ t, exec (.linkTimeout s.management.address v) s = .next t
      ∧ t.settings = { s.settings with linkTimeout := v.toNat } ∧ t.port.outstanding = none
      ∧ t.port.abandoned = s.port.abandoned ++ [a.tag] ∧ t.management = (s.answered .ok []).management := by
  obtain ⟨free, abandoned⟩ := State.checkResponseTimer_due
    (s := { s.onBus true [] with settings := { s.settings with linkTimeout := v.toNat } }) ho due
  exact ⟨_, exec_linkTimeout_inside least most, by simp, free, abandoned, by simp [State.answered]⟩

end

/-- Settles O49: each write is refused out of range, and in range sets its item and moves its timer as the lemmas above say. -/
theorem pacingAndAlertItems : Obligations.PacingAndAlertItems := by
  intro s v
  refine ⟨fun outside => ?_, exec_scrubEnable_off s, exec_scrubEnable_on s, fun outside => ?_, exec_scrubInterval_inside,
    fun outside => ?_, fun least most early => ?_, fun _ => exec_linkTimeout_ends,
    exec_plainItem (fun c => { c with alertEnables := flagsOfNat v.toNat }) rfl (by omega),
    exec_plainItem (fun c => { c with alertDepth := v.toNat }) rfl .rfl,
    exec_plainItem (fun c => { c with spareLowMark := v.toNat }) rfl (by omega)⟩
  · rw [exec_scrubEnable, State.writeScrubEnable, State.ranged_outside (.inr outside)]
    rfl
  · rw [exec_scrubInterval, State.writeScrubInterval, State.ranged_outside (by omega)]
    rfl
  · rw [exec_linkTimeout, State.writeLinkTimeout, State.ranged_outside outside]
    rfl
  · rw [exec_linkTimeout_inside least most, State.checkResponseTimer_early early]
    rfl

end Sys2Proof.Machine

/-! The scrubber: the expiry of its interval timer (O31). -/

namespace Sys2Proof.Machine

/-- A stopped interval timer does not expire (log entry 9). -/
theorem State.expireInterval_of_stopped {s : State} (stopped : s.scrubber.timer = none) : s.expireInterval = s := by
  simp only [State.expireInterval, stopped]

/-- A running interval timer starts again from 0; an IDLE scrubber goes DUE, and a scrub that is DUE or PENDING stays so (R125). -/
theorem State.expireInterval_of_running {s : State} {time : Nat} (running : s.scrubber.timer = some time) :
    s.expireInterval = { s with
      scrubber := { s.scrubber with
        timer := some 0, state := if s.scrubber.state = .idle then .due else s.scrubber.state } } := by
  cases state : s.scrubber.state with
  | idle => simp only [State.expireInterval, running, state, if_pos]
  | due | pending => simp only [State.expireInterval, running, state, reduceCtorEq, if_false]

/-- Settles O31: the event is the expiry of the interval timer and no more, so it goes by whether that timer runs. -/
theorem scrubExpiryMakesDue : Obligations.ScrubExpiryMakesDue := fun _ =>
  ⟨fun stopped => congrArg Host.Outcome.next (State.expireInterval_of_stopped stopped),
    fun _ running => congrArg Host.Outcome.next (State.expireInterval_of_running running)⟩

end Sys2Proof.Machine

/-! The state after reset: a start over meets every law, the base case of the steps' invariants (O60). -/

namespace Sys2Proof.Machine

/-- Power-on and RESET_PART leave the bounded blocks empty, so each is within its bound (R57, R74, R106, R122, R145). -/
theorem State.startOver_bounds (s : State) (straps : BitVec 2) :
    (s.startOver straps).recordLaw ∧ (s.startOver straps).writeBackLaw ∧ (s.startOver straps).queueLaw
      ∧ (s.startOver straps).linkLaw ∧ (s.startOver straps).passOverLaw ∧ (s.startOver straps).countLaw :=
  have bounded := State.Bounded.startOver s straps
  ⟨bounded.records, bounded.writeBack, bounded.queue, State.linkLaw_stepStable.startOver s straps, bounded.passes,
    bounded.countLaw .idle⟩

/-- The watch table is empty, so no QUEUED entry is left without its request (R57, R74). -/
theorem State.startOver_watchLaw (s : State) (straps : BitVec 2) : (s.startOver straps).watchLaw :=
  (State.tied_iff.mp (State.Tied.startOver s straps)).1

/-- No transaction and no access is left, the link is UP and the scrubber is IDLE with its timer stopped (R106, R122, R132). -/
theorem State.startOver_trafficLaw (s : State) (straps : BitVec 2) : (s.startOver straps).trafficLaw :=
  State.trafficLaw_iff.mpr
    ⟨State.Traffic.startOver s straps, s.startOver_paced straps, State.linkLaw_stepStable.startOver s straps, .idle⟩

/-- No request is left to try (R57). -/
theorem State.startOver_settledLaw (s : State) (straps : BitVec 2) : (s.startOver straps).settledLaw :=
  State.mayTry_of_empty rfl

/-- Reset is itself a fixed point of the start over with straps 0, so what a start over leaves holds of it (R154). -/
theorem State.reset_startOver : State.reset.startOver 0 = State.reset := rfl

/-- Settles O60: the state after reset is the one a start over leaves, and that meets each law. -/
theorem resetMeetsLaws : Obligations.ResetMeetsLaws := by
  unfold Obligations.ResetMeetsLaws
  rw [← State.reset_startOver]
  exact ⟨State.startOver_bounds _ _, State.startOver_tableLaw _ _, State.startOver_watchLaw _ _, State.startOver_trafficLaw _ _,
    State.startOver_settledLaw _ _, State.startOver_placeLaw _ _⟩

end Sys2Proof.Machine

/-! The management port's frames: what a frame decodes to, how the command of a write frame is taken, and what a read frame returns
(O2 to O5). -/

namespace Sys2Proof.Machine

open Laws.FrameRoundTrip (wordOfBytes_byte encode_decode)

/-! ## Reading frames (O3) -/

/-- A word is the word of its own four bytes (R161, R171). -/
theorem wordOfBytes_extract (v : Word) :
    wordOfBytes (v.extractLsb' 0 8) (v.extractLsb' 8 8) (v.extractLsb' 16 8) (v.extractLsb' 24 8) = v := by
  refine BitVec.eq_of_getLsbD_eq fun i hi => ?_
  rw [wordOfBytes_byte]
  simp only [BitVec.getLsbD_extractLsb']
  split
  · simp [*]
  · split
    · simp [show i - 8 < 8 by omega, show 8 + (i - 8) = i by omega]
    · split
      · simp [show i - 16 < 8 by omega, show 16 + (i - 16) = i by omega]
      · simp [show i - 24 < 8 by omega, show 24 + (i - 24) = i by omega]

/-- The WRITE_CONFIG frame of an item decodes to the item's own row, where it has one (R161). -/
theorem decodeFrame_writeConfigFrame {address : BusAddress} {item : Byte} {value : Word} {i : Instr}
    (row : itemRow address item value = some i) : decodeFrame address (writeConfigFrame item value) = i := by
  simp [decodeFrame, writeConfigFrame, decodeWriteConfig, wordOfBytes_extract, row]

/-- The codes of `itemsWithRows` are those that `itemRow` knows. -/
theorem itemRow_eq_none {item : Byte} (h : item ∉ itemsWithRows) (address : BusAddress) (value : Word) :
    itemRow address item value = none := by
  unfold itemRow
  split
  case h_11 => rfl
  all_goals exact absurd (by decide) h

/-- A WRITE_CONFIG frame of no item with a row of its own is WRITE_CONFIG's (R161). -/
theorem decodeWriteConfig_of_wellFormed {args : List Byte} (h : wellFormedWrite args = true) (address : BusAddress) :
    decodeWriteConfig address args = .writeConfig address args := by
  unfold decodeWriteConfig
  split
  · rename_i item b0 b1 b2 b3
    have other : item ∉ itemsWithRows := by simpa [wellFormedWrite] using h
    rw [itemRow_eq_none other, Option.getD_none]
  · rfl

/-- A frame that begins with no command code is UNKNOWN_COMMAND's (R156). -/
theorem decodeFrame_of_wellFormedUnknown {frame : List Byte} (h : wellFormedUnknown frame = true) (address : BusAddress) :
    decodeFrame address frame = .unknownCommand address frame := by
  cases frame with
  | nil => rfl
  | cons code args =>
    have other : code ∉ commandCodes := by simpa [wellFormedUnknown] using h
    simp only [decodeFrame]
    split
    case h_21 => rfl
    all_goals exact absurd (by decide) other

/-- Settles O3: only the frames of UNKNOWN_COMMAND and WRITE_CONFIG can be another row's, and a well-formed one is not. -/
theorem frameRoundTrip : Obligations.FrameRoundTrip := by
  intro i address frame formed encoded
  cases i <;> cases encoded
  case unknownCommand => exact decodeFrame_of_wellFormedUnknown formed _
  case writeConfig => exact decodeWriteConfig_of_wellFormed formed _
  case downstreamBlocks | visibleBlocks | spareCount | autoSpare | scrubEnable | scrubInterval | linkTimeout | alertEnables
    | alertDepth | spareLowMark => exact decodeFrame_writeConfigFrame rfl
  all_goals rfl

/-! ## Read frames (O5) -/

/-- What a read frame returns: the buffer's bytes, filled up with 0xFF (R157). -/
theorem Response.bytes_eq (r : Response) (count : Nat) :
    r.bytes count = (r.status.code :: BitVec.ofNat 8 r.payload.length
      :: (r.payload ++ List.replicate count 0xFF#8)).take count := by
  rw [← List.cons_append, ← List.cons_append, List.take_append, List.take_replicate]
  have left : count - min count (r.payload.length + 2) = min (count - (r.payload.length + 2)) count := by omega
  simp [Response.bytes, byteOf, left]

/-- Settles O5: the port sends the response buffer, which a read leaves as it is. -/
theorem readFrameReturnsResponse : Obligations.ReadFrameReturnsResponse := by
  intro address count s
  refine ⟨fun ours => ?_, fun other => congrArg Host.Outcome.next (if_neg other)⟩
  rw [← Response.bytes_eq]
  exact congrArg Host.Outcome.next (if_pos ours)

/-! ## The commands that wait -/

/-- `effect` leaves the waiting commands alone. -/
def KeepsPending (effect : State → State) : Prop := ∀ s : State, (effect s).pending = s.pending

namespace KeepsPending
variable {effect : State → State}

theorem takeFrame (keeps : KeepsPending effect) (address : BusAddress) : KeepsPending fun s => s.takeFrame address effect := by
  intro s
  dsimp only [State.takeFrame]
  split
  · exact keeps _
  · rfl

theorem takeCommand (keeps : KeepsPending effect) (address : BusAddress) (args : List Byte) (count : Nat) :
    KeepsPending fun s => s.takeCommand address args count effect := by
  refine takeFrame (fun s => ?_) address
  split
  · exact keeps s
  · rfl

theorem withLocation {effect : State → Location → State} (keeps : ∀ l, KeepsPending fun s => effect s l) (args : List Byte) :
    KeepsPending fun s => s.withLocation args effect := by
  intro s
  dsimp only [State.withLocation]
  split
  · exact keeps _ s
  · rfl

theorem ranged (keeps : KeepsPending effect) (low high value : Nat) : KeepsPending fun s => s.ranged low high value effect := by
  intro s
  dsimp only [State.ranged]
  split
  · exact keeps s
  · rfl

theorem offlineOnly (keeps : KeepsPending effect) : KeepsPending fun s => s.offlineOnly effect := by
  intro s
  dsimp only [State.offlineOnly]
  split
  · exact keeps s
  · rfl

/-- A write of any item (R161). -/
theorem writeItem (item : Byte) (value : Nat) : KeepsPending fun s => s.writeItem item value := by
  have visible : KeepsPending fun s => s.writeVisible value := by
    refine offlineOnly (ranged (fun s => ?_) _ _ _)
    split <;> simp
  have spares : KeepsPending fun s => s.writeSpares value := by
    refine offlineOnly (ranged (fun s => ?_) _ _ _)
    split <;> simp
  have autoSpare : KeepsPending fun s => s.writeAutoSpare value := by
    refine ranged (fun s => ?_) _ _ _
    dsimp only
    split <;> simp
  have scrubEnable : KeepsPending fun s => s.writeScrubEnable value := by
    refine ranged (fun s => ?_) _ _ _
    dsimp only
    split <;> simp
  have plain : ∀ (low high : Nat) (c : Settings → Settings), KeepsPending fun s =>
      s.ranged low high value fun s => State.answerStatus { s with settings := c s.settings } .ok := by
    intro low high c
    refine ranged ?_ low high value
    exact fun _ => rfl
  intro s
  dsimp only [State.writeItem]
  split
  · exact visible s
  · exact offlineOnly (plain 1 131072 fun c => { c with downstream := value }) s
  · exact spares s
  · exact plain 1 255 (fun c => { c with correctedLimit := value }) s
  · exact plain 1 4 (fun c => { c with wordLimit := value }) s
  · exact autoSpare s
  · exact plain 0 1 (fun c => { c with repairOnRead := value == 1 }) s
  · exact scrubEnable s
  · exact ranged (fun s => by simp) 1 65535 value s
  · exact ranged (fun s => by simp) 8 1023 value s
  · exact plain 0 1 (fun c => { c with recordCorrected := value == 1 }) s
  · exact plain 0 31 (fun c => { c with alertEnables := flagsOfNat value }) s
  · exact plain 1 16 (fun c => { c with alertDepth := value }) s
  · exact plain 0 64 (fun c => { c with spareLowMark := value }) s
  · rfl

theorem readItem (item : Byte) : KeepsPending fun s => s.readItem item := by
  intro s
  dsimp only [State.readItem]
  split <;> rfl

theorem goOnline : KeepsPending State.goOnline := by
  intro s
  unfold State.goOnline
  (repeat' split) <;> simp

theorem goOffline : KeepsPending State.goOffline := by
  intro s
  unfold State.goOffline
  split <;> simp

theorem readRemap (i : Byte) : KeepsPending fun s => s.readRemap i := by
  intro s
  dsimp only [State.readRemap]
  split <;> rfl

theorem restoreRemap (i : Nat) (state : Option RestoreState) (source : Nat) :
    KeepsPending fun s => s.restoreRemap i state source := by
  intro s
  dsimp only [State.restoreRemap]
  (repeat' split) <;> rfl

theorem dropRemap (i : Nat) : KeepsPending fun s => s.dropRemap i := by
  intro s
  dsimp only [State.dropRemap]
  (repeat' split) <;> rfl

theorem releaseSpare (i : Nat) : KeepsPending fun s => s.releaseSpare i := by
  intro s
  dsimp only [State.releaseSpare]
  (repeat' split) <;> simp

theorem requestSpare (l : Location) : KeepsPending fun s => s.requestSpare l := by
  intro s
  dsimp only [State.requestSpare]
  split <;> simp

theorem readQueue (position : Byte) : KeepsPending fun s => s.readQueue position := by
  intro s
  dsimp only [State.readQueue]
  (repeat' split) <;> rfl

theorem readWatch (slot : Byte) : KeepsPending fun s => s.readWatch slot := by
  intro s
  dsimp only [State.readWatch]
  (repeat' split) <;> rfl

theorem clearWatch (slot : Nat) : KeepsPending fun s => s.clearWatch slot := by
  intro s
  dsimp only [State.clearWatch]
  (repeat' split) <;> rfl

theorem peekRecord : KeepsPending State.peekRecord := by
  intro s
  unfold State.peekRecord
  split <;> rfl

theorem popRecord : KeepsPending State.popRecord := by
  intro s
  unfold State.popRecord
  split <;> rfl

theorem inject (address : Nat) (kind : Option InjectKind) : KeepsPending fun s => s.inject address kind := by
  intro s
  dsimp only [State.inject]
  (repeat' split) <;> rfl

end KeepsPending

/-! ## Write frames (O2, O4) -/

/-- A command is taken as the command of a code: acknowledged at the port's address, with as many argument bytes as the code has,
and then given an effect that leaves the waiting commands alone (R155, R156). -/
def TakenAs (i : Instr) (address : BusAddress) (code : Byte) (args : List Byte) : Prop :=
  ∃ effect, KeepsPending effect ∧ ∀ s, exec i s = .next (s.takeCommand address args (argumentCount code) effect)

/-- The row of an item is taken as WRITE_CONFIG is, since its frame has the right length (R161). -/
theorem takenAs_item {i : Instr} {address : BusAddress} {item : Byte} {value : Word} {frame : List Byte}
    (encoded : writeConfigFrame item value = frame)
    (written : ∀ s, exec i s = .next (s.takeFrame address fun u => u.writeItem item value.toNat)) :
    ∃ code args, frame = code :: args ∧ code ∈ commandCodes ∧ TakenAs i address code args := by
  subst encoded
  exact ⟨_, _, rfl, by decide, _, KeepsPending.writeItem item value.toNat, written⟩

/-- Every command of a write frame but UNKNOWN_COMMAND is taken as the command of its frame's code (R155, R156). -/
theorem exec_frame {i : Instr} (known : ∀ a bytes, i ≠ .unknownCommand a bytes) {address : BusAddress} {frame : List Byte}
    (encoded : encodeFrame i = some (address, frame)) :
    ∃ code args, frame = code :: args ∧ code ∈ commandCodes ∧ TakenAs i address code args := by
  cases i
  case unknownCommand a bytes => exact absurd rfl (known a bytes)
  all_goals cases encoded
  case downstreamBlocks | visibleBlocks | spareCount | autoSpare | scrubEnable | scrubInterval | linkTimeout | alertEnables
    | alertDepth | spareLowMark => exact takenAs_item rfl fun _ => rfl
  all_goals refine ⟨_, _, rfl, by decide, _, ?_, fun _ => rfl⟩
  case readStatus => exact fun _ => rfl
  case readConfig => exact .readItem _
  case writeConfig => exact .writeItem _ _
  case goOnline => exact .goOnline
  case goOffline => exact .goOffline
  case resetPart => exact fun _ => rfl
  case clearLink => exact fun s => by simp
  case readRemap => exact .readRemap _
  case restoreRemap => exact .restoreRemap _ _ _
  case dropRemap => exact .dropRemap _
  case releaseSpare => exact .releaseSpare _
  case requestSpare => exact .withLocation .requestSpare _
  case cancelRequest =>
    refine .withLocation (fun l s => ?_) _
    dsimp only
    split <;> simp
  case readQueue => exact .readQueue _
  case readWatch => exact .readWatch _
  case clearWatch => exact .clearWatch _
  case peekRecord => exact .peekRecord
  case popRecord => exact .popRecord
  case ackAlert => exact fun _ => rfl
  case inject => exact .inject _ _

/-- An UNKNOWN_COMMAND frame of no command's code (R156). -/
theorem exec_unknownCommand {frame : List Byte} (formed : wellFormedUnknown frame = true) (address : BusAddress) (s : State) :
    exec (.unknownCommand address frame) s
      = .next (s.takeFrame address fun s => if frame.isEmpty then s else s.answerStatus .unknownCommand) := by
  change execUnknownCommand address frame s = _
  simp only [execUnknownCommand, decodeFrame_of_wellFormedUnknown formed]

/-- A frame that begins with a command code is a known command's (R156). -/
theorem decodeFrame_known {code : Byte} (h : code ∈ commandCodes) (address : BusAddress) (args : List Byte) (a : BusAddress)
    (bytes : List Byte) : decodeFrame address (code :: args) ≠ .unknownCommand a bytes := by
  have row : decodeWriteConfig address args ≠ .unknownCommand a bytes := by
    unfold decodeWriteConfig itemRow
    (repeat' split) <;> nofun
  simp only [decodeFrame]
  split
  case h_3 => exact row
  case h_21 => simp_all [commandCodes]
  all_goals nofun

/-- An UNKNOWN_COMMAND that carries another row's frame is that row's command (R156; log entry 11). -/
theorem exec_unknownCommand_known {code : Byte} (h : code ∈ commandCodes) (address : BusAddress) (args : List Byte) (s : State) :
    exec (.unknownCommand address (code :: args)) s = exec (decodeFrame address (code :: args)) s := by
  change execUnknownCommand address (code :: args) s = _
  have known := decodeFrame_known h address args
  have encoded := encode_decode address (code :: args)
  unfold execUnknownCommand
  generalize decodeFrame address (code :: args) = i at known encoded ⊢
  cases i
  case unknownCommand a bytes => exact absurd rfl (known a bytes)
  case powerOn | systemReset | transactionAccepted | answerTaken | arbiterGrant | memoryResponse | responseTimerExpiry
    | scrubIntervalExpiry | migrationStart | readFrame => cases encoded
  all_goals rfl

/-- What the command of a write frame can be: UNKNOWN_COMMAND, or taken as the command of the frame's code (R155, R156). -/
theorem exec_writeFrame {i : Instr} {address : BusAddress} {frame : List Byte} (encoded : encodeFrame i = some (address, frame)) :
    (wellFormedUnknown frame = true
        ∧ ∀ s, exec i s = .next (s.takeFrame address fun s => if frame.isEmpty then s else s.answerStatus .unknownCommand))
      ∨ ∃ code args, frame = code :: args ∧ code ∈ commandCodes ∧ TakenAs i address code args := by
  by_cases unknown : ∃ a bytes, i = .unknownCommand a bytes
  · obtain ⟨_, _, rfl⟩ := unknown
    cases encoded
    cases formed : wellFormedUnknown frame
    · obtain ⟨code, args, rfl, listed⟩ : ∃ code args, frame = code :: args ∧ code ∈ commandCodes := by
        cases frame with
        | nil => cases formed
        | cons code args => exact ⟨code, args, rfl, by simpa [wellFormedUnknown] using formed⟩
      obtain ⟨_, _, same, -, effect, keeps, taken⟩ :=
        exec_frame (decodeFrame_known listed address args) (encode_decode address (code :: args))
      cases same
      have same := exec_unknownCommand_known listed address args
      exact .inr ⟨code, args, rfl, listed, effect, keeps, fun s => (same s).trans (taken s)⟩
    · exact .inl ⟨rfl, exec_unknownCommand formed address⟩
  · exact .inr (exec_frame (fun a bytes hi => unknown ⟨a, bytes, hi⟩) encoded)

/-- Settles O4: by what the command of a write frame can be, whose frame is taken only at the port's address. -/
theorem framesRefused : Obligations.FramesRefused := by
  refine ⟨fun i address frame s encoded other => ?_, fun s => ?_, fun code args s unlisted => ?_,
    fun i code args s encoded listed length => ?_⟩
  · rcases exec_writeFrame encoded with ⟨-, taken⟩ | ⟨_, _, -, -, _, -, taken⟩
    all_goals exact (taken s).trans (congrArg Host.Outcome.next (State.takeFrame_other other _))
  · exact (exec_unknownCommand rfl _ s).trans (congrArg Host.Outcome.next (State.takeFrame_ours rfl _))
  · have formed : wellFormedUnknown (code :: args) = true := by simpa [wellFormedUnknown] using unlisted
    exact (exec_unknownCommand formed _ s).trans (congrArg Host.Outcome.next (State.takeFrame_ours rfl _))
  · rcases exec_writeFrame encoded with ⟨formed, -⟩ | ⟨_, _, same, -, _, -, taken⟩
    · simp [wellFormedUnknown, listed] at formed
    · cases same
      exact (taken s).trans (congrArg Host.Outcome.next (State.takeCommand_badLength rfl length _))

/-- Settles O2: a frame's effect keeps the waiting commands, and so does each event. -/
theorem execAnswersAndLeavesQueue : Obligations.ExecAnswersAndLeavesQueue := by
  intro c s
  cases encoded : encodeFrame c with
  | some sent =>
    rcases exec_writeFrame encoded with ⟨-, taken⟩ | ⟨_, _, -, -, _, keeps, taken⟩
    · refine ⟨_, taken s, KeepsPending.takeFrame (fun u => ?_) _ s⟩
      split <;> rfl
    · exact ⟨_, taken s, keeps.takeCommand _ _ _ s⟩
  | none =>
    cases c
    case powerOn => exact ⟨_, rfl, rfl⟩
    case systemReset | arbiterGrant | memoryResponse | responseTimerExpiry | scrubIntervalExpiry | migrationStart =>
      exact ⟨_, rfl, by simp⟩
    case transactionAccepted =>
      refine ⟨_, rfl, ?_⟩
      split <;> simp
    case answerTaken =>
      refine ⟨_, rfl, ?_⟩
      split <;> simp
    case readFrame =>
      refine ⟨_, rfl, ?_⟩
      split <;> rfl
    all_goals cases encoded

end Sys2Proof.Machine

/-! What the management port reports: the status, the configuration items and the records (O45, O46, O53). -/

namespace Sys2Proof.Machine

/-! ## Bytes -/

/-- A number that fits in its bytes is the number they give (R156). -/
theorem leValue_leBytes {k n : Nat} (fits : n < 256 ^ k) : leValue (leBytes k n) = n := by
  induction k generalizing n with
  | zero => simp [leBytes, leValue] at fits ⊢; omega
  | succ k ih =>
    have high : leValue (leBytes k (n / 256)) = n / 256 := ih (by rw [Nat.pow_succ] at fits; omega)
    simp only [leBytes, leValue, high, BitVec.toNat_ofNat]
    omega

theorem leValue_two {n : Nat} (fits : n ≤ 65535) : leValue (leBytes 2 n) = n := leValue_leBytes (by omega)

theorem leValue_three {n : Nat} (fits : n < 2 ^ 24) : leValue (leBytes 3 n) = n := leValue_leBytes (by omega)

theorem FlagSet.toByte_getLsbD (f : FlagSet) (k : Nat) :
    f.toByte.getLsbD k = [f.records, f.dropped, f.sparesLow, f.blocked, f.linkDown].getD k false := by
  by_cases low : k < 8
  · have bits : ∀ k, k < 8 → ∀ b0 b1 b2 b3 b4,
        (bitsByte b0 b1 b2 b3 b4 false false false).getLsbD k = [b0, b1, b2, b3, b4].getD k false := by decide
    exact bits k low _ _ _ _ _
  · rw [BitVec.getLsbD_of_ge _ _ (by omega), List.getD_eq_default _ _ (by simp; omega)]

theorem FlagSet.toByte_toNat (f : FlagSet) :
    f.toByte.toNat = f.records.toNat + 2 * f.dropped.toNat + 4 * f.sparesLow.toNat + 8 * f.blocked.toNat
      + 16 * f.linkDown.toNat := by
  obtain ⟨records, dropped, sparesLow, blocked, linkDown⟩ := f
  revert records dropped sparesLow blocked linkDown
  decide

theorem bitsByte_four (b0 b1 b2 b3 : Bool) : bitsByte b0 b1 b2 b3 false false false false
    = BitVec.ofNat 8 (b0.toNat + 2 * b1.toNat + 4 * b2.toNat + 8 * b3.toNat) := by
  revert b0 b1 b2 b3
  decide

/-! ## READ_STATUS (O45) -/

/-- The free-spare count counts the indices of FREE entries (R18). -/
theorem freeSpares_eq (table : RemapTable) :
    freeSpares table = (List.range 64).countP fun i => entryAt table i == .free := by
  have listed : table.toList = (List.range 64).map (entryAt table) :=
    List.ext_getElem (by simp) fun i hi _ => by
      rw [toList_getElem table (by simpa using hi)]
      simp
  rw [freeSpares, listed, List.countP_map]
  rfl

/-- The alert line is low exactly while a flag and its enable are both set (R144). -/
theorem State.alertLow_iff (s : State) : s.alertLow = true ↔
    s.settings.alertEnables.records = true ∧ s.flags.records = true
      ∨ s.settings.alertEnables.dropped = true ∧ s.flags.dropped = true
      ∨ s.settings.alertEnables.sparesLow = true ∧ s.flags.sparesLow = true
      ∨ s.settings.alertEnables.blocked = true ∧ s.flags.blocked = true
      ∨ s.settings.alertEnables.linkDown = true ∧ s.flags.linkDown = true := by
  simp only [State.alertLow, Bool.or_eq_true, Bool.and_eq_true, or_assoc, and_comm]

/-- The SPARES_LOW condition (R141). -/
theorem State.sparesLow_eq (s : State) : s.sparesLow = decide (s.mode = .online ∧ 1 ≤ s.settings.spares
    ∧ ((List.range 64).countP fun i => entryAt s.remap i == .free) ≤ s.settings.spareLowMark) := by
  rw [Bool.eq_iff_iff]
  simp [State.sparesLow, freeSpares_eq, and_assoc]

theorem Link.code_eq (link : Link) : link.code = if link = .down then 1#8 else 0#8 := by cases link <;> rfl

/-- The two bytes of READ_STATUS that tell of the engine (R169, R172). -/
theorem engineBytes_cases (engine : Engine) (table : RemapTable) : ∃ code cursor : Byte,
    engineBytes engine table = [code, cursor]
      ∧ (engine = .idle → code = 0 ∧ cursor = 0xFF)
      ∧ (engine = .blocked → code = 1 ∧ cursor = 0xFF)
      ∧ ∀ work source copyFrom n origin, engine = .copying work →
          entryAt table work.target = .copying source copyFrom n origin → code = 2 ∧ cursor = BitVec.ofNat 8 n := by
  cases engine with
  | idle => exact ⟨_, _, rfl, by simp⟩
  | blocked => exact ⟨_, _, rfl, by simp⟩
  | copying work =>
    simp only [engineBytes]
    cases entry : entryAt table work.target with
    | copying source copyFrom n origin =>
      refine ⟨_, _, rfl, nofun, nofun, fun _ _ _ _ _ same named => ?_⟩
      cases same
      cases entry.symm.trans named
      exact ⟨rfl, rfl⟩
    | _ =>
      refine ⟨_, _, rfl, nofun, nofun, fun _ _ _ _ _ same named => ?_⟩
      cases same
      cases entry.symm.trans named

theorem exec_readStatus (s : State) :
    exec (.readStatus s.management.address []) s = .next (s.answered .ok (statusPayload s)) :=
  congrArg Host.Outcome.next (s.takeCommand_own [] _)

theorem Mode.code_of_listed {mode : Mode} {code : Byte}
    (listed : (mode, code) ∈ [(Mode.offline, 0#8), (.online, 1#8), (.stopping, 2#8)]) : mode.code = code := by
  simp only [List.mem_cons, Prod.mk.injEq, List.not_mem_nil, or_false] at listed
  obtain ⟨rfl, rfl⟩ | ⟨rfl, rfl⟩ | ⟨rfl, rfl⟩ := listed <;> rfl

/-- Settles O45: the payload byte by byte, with the bytes of each number put together again (`leValue_leBytes`). -/
theorem statusReportsState : Obligations.StatusReportsState := by
  intro s
  obtain ⟨engine, cursor, bytes, idle, blocked, copying⟩ := engineBytes_cases s.migration.engine s.remap
  have bits := s.flags.toByte_getLsbD
  refine ⟨_, exec_readStatus s, ?_⟩
  simp only [statusPayload, bytes, freeSpares_eq]
  refine ⟨rfl, fun mode code listed at_mode => ?_, fun at_rest => ?_, fun waits => ?_,
    fun work source copyFrom n origin copies entry => ?_, rfl, rfl, rfl, leValue_two, leValue_two, leValue_two,
    fun fits => leValue_three (by omega), rfl, leValue_two (by omega),
    ⟨s.flags.toByte, rfl, bits 0, bits 1, (bits 2).trans s.sparesLow_eq, bits 3, bits 4, bits 5, bits 6, bits 7, ?_⟩, rfl,
    congrArg some (Link.code_eq _), rfl, rfl⟩
  · exact congrArg some (at_mode ▸ Mode.code_of_listed listed)
  · obtain ⟨rfl, rfl⟩ := idle at_rest
    exact ⟨rfl, rfl⟩
  · obtain ⟨rfl, rfl⟩ := blocked waits
    exact ⟨rfl, rfl⟩
  · obtain ⟨rfl, rfl⟩ := copying work source copyFrom n origin copies entry
    exact ⟨rfl, rfl⟩
  · simp only [bits]
    exact s.alertLow_iff

/-! ## READ_CONFIG and WRITE_CONFIG (O46) -/

theorem exec_readConfig (s : State) (item : Byte) :
    exec (.readConfig s.management.address [item]) s = .next ((s.onBus true []).readItem item) :=
  congrArg Host.Outcome.next (s.takeCommand_own [item] _)

/-- READ_CONFIG of an item: its code and its value in 4 bytes (R160, R173). -/
theorem exec_readConfig_known {s : State} {item : Byte} {value : Nat} (known : itemValue s.settings item = some value) :
    ∃ b0 b1 b2 b3 : Byte,
      exec (.readConfig s.management.address [item]) s = .next (s.answered .ok [item, b0, b1, b2, b3])
        ∧ (value < 2 ^ 32 → leValue [b0, b1, b2, b3] = value) := by
  have read : (s.onBus true []).readItem item = s.answered .ok (item :: leBytes 4 value) := by
    simp only [State.readItem, State.onBus_settings, known]
    rfl
  exact ⟨_, _, _, _, by rw [exec_readConfig, read]; rfl, fun fits => leValue_leBytes (k := 4) (by omega)⟩

theorem itemValue_unknown {item : Byte} (unknown : item.toNat = 0 ∨ 15 ≤ item.toNat) (c : Settings) :
    itemValue c item = none := by
  unfold itemValue
  split
  case h_15 => rfl
  all_goals simp at unknown

theorem State.writeItem_unknown {item : Byte} (unknown : item.toNat = 0 ∨ 15 ≤ item.toNat) (s : State) (value : Nat) :
    s.writeItem item value = s.answerStatus .badArgument := by
  unfold State.writeItem
  split
  case h_15 => rfl
  all_goals simp at unknown

theorem exec_writeConfig (s : State) (item b0 b1 b2 b3 : Byte) :
    exec (.writeConfig s.management.address [item, b0, b1, b2, b3]) s
      = .next ((s.onBus true []).writeItem item (leValue [b0, b1, b2, b3])) :=
  congrArg Host.Outcome.next (s.takeCommand_own [item, b0, b1, b2, b3] _)

theorem onOff_eq_toNat (b : Bool) : onOff b = b.toNat := by cases b <;> rfl

/-- Settles O46: each listed value is the item's (`itemValue`), and each of the four items is a plain one (`exec_plainItem`). -/
theorem policyItemsReadAndWritten : Obligations.PolicyItemsReadAndWritten := by
  intro s
  refine ⟨fun item value listed => exec_readConfig_known ?_, fun item b0 b1 b2 b3 unknown => ⟨?_, ?_⟩,
    fun b0 b1 b2 b3 value given => ?_⟩
  · refine (fun (each : ∀ p ∈ _, itemValue s.settings p.1 = some p.2) => each (item, value) listed) ?_
    simp only [List.forall_mem_cons, itemValue, onOff_eq_toNat, FlagSet.toByte_toNat]
    simp
  · rw [exec_readConfig, State.readItem, itemValue_unknown unknown]
    rfl
  · rw [exec_writeConfig, State.writeItem_unknown unknown]
    rfl
  · subst given
    exact ⟨exec_plainItem (fun c => { c with correctedLimit := leValue [b0, b1, b2, b3] }) rfl .rfl,
      exec_plainItem (fun c => { c with wordLimit := leValue [b0, b1, b2, b3] }) rfl .rfl,
      exec_plainItem (fun c => { c with repairOnRead := leValue [b0, b1, b2, b3] == 1 }) rfl (and_iff_right (Nat.zero_le _)),
      exec_plainItem (fun c => { c with recordCorrected := leValue [b0, b1, b2, b3] == 1 }) rfl
        (and_iff_right (Nat.zero_le _))⟩

/-! ## PEEK_RECORD, POP_RECORD and ACK_ALERT (O53) -/

theorem RecordKind.code_of_listed {kind : RecordKind} {code : Byte}
    (listed : (kind, code) ∈
      [(RecordKind.corrected, 0x01#8), (.uncorrectable, 0x02#8), (.poisonRead, 0x03#8), (.watchCandidate, 0x04#8),
        (.trackingFull, 0x05#8), (.migrationStarted, 0x06#8), (.migrationDone, 0x07#8), (.migrationAborted, 0x08#8),
        (.migrationDropped, 0x09#8), (.requestStale, 0x0A#8), (.sparesExhausted, 0x0B#8), (.linkTimeout, 0x0C#8),
        (.linkFault, 0x0D#8), (.linkDown, 0x0E#8), (.injectApplied, 0x0F#8)]) : kind.code = code := by
  cases kind <;> simp at listed <;> exact listed.symm

theorem RecordSource.code_of_listed {source : RecordSource} {code : Byte}
    (listed : (source, code) ∈
      [(RecordSource.upstreamFetch, 0#8), (.mergeRead, 1#8), (.scrub, 2#8), (.copy, 3#8), (.writeBack, 4#8), (.engine, 5#8),
        (.link, 6#8), (.management, 7#8)]) : source.code = code := by
  cases source <;> simp at listed <;> exact listed.symm

theorem RecordDetail.code_of_listed {detail : RecordDetail} {code : Byte}
    (listed : (detail, code) ∈
      [(RecordDetail.cancelled, 1#8), (.stopped, 2#8), (.reset, 3#8), (.targetFailed, 4#8), (.readFailed, 5#8),
        (.unexpectedTag, 6#8)]) : detail.code = code := by
  cases detail <;> simp at listed <;> exact listed.symm

/-- The bytes of a record: zeros for a location, and a zero for a detail, that it does not carry (R177). -/
theorem recordPayload_eq (r : Record) : recordPayload r = leBytes 2 r.sequence.toNat
    ++ [r.body.kind.code, r.body.source.code,
        BitVec.ofNat 8 (r.body.location.isSome.toNat + 2 * r.body.offset.isSome.toNat + 4 * r.body.spare.isSome.toNat
          + 8 * r.body.detail.isSome.toNat)]
    ++ (r.body.location.map locationBytes).getD [0, 0, 0, 0]
    ++ [BitVec.ofNat 8 (r.body.offset.getD 0), BitVec.ofNat 8 (r.body.spare.getD 0),
        (r.body.detail.map RecordDetail.code).getD 0] := by
  rw [recordPayload, bitsByte_four]
  cases r.body.location <;> cases r.body.detail <;> simp [byteOf]

/-- A location is sent as its kind and its number's three bytes (R169). -/
theorem placeBytes (place : Option Location) : ∃ kind n0 n1 n2 : Byte,
    (place.map locationBytes).getD [0, 0, 0, 0] = [kind, n0, n1, n2] := by
  rcases place with _ | _ | _ <;> exact ⟨_, _, _, _, rfl⟩

theorem exec_peekRecord (s : State) : exec (.peekRecord s.management.address []) s = .next (s.onBus true []).peekRecord :=
  congrArg Host.Outcome.next (s.takeCommand_own [] State.peekRecord)

theorem exec_popRecord (s : State) : exec (.popRecord s.management.address []) s = .next (s.onBus true []).popRecord :=
  congrArg Host.Outcome.next (s.takeCommand_own [] State.popRecord)

theorem exec_records_empty {s : State} (empty : s.records.queue = []) :
    exec (.peekRecord s.management.address []) s = .next (s.answered .empty [])
      ∧ exec (.popRecord s.management.address []) s = .next (s.answered .empty []) := by
  rw [exec_peekRecord, exec_popRecord, State.peekRecord, State.popRecord, State.onBus_records, empty]
  exact ⟨rfl, rfl⟩

/-- The head of the record queue is answered, and a POP_RECORD takes it out (R137, R138). -/
theorem exec_records_head {s : State} {r : Record} {rest : List Record} (hq : s.records.queue = r :: rest) :
    exec (.peekRecord s.management.address []) s = .next (s.answered .ok (recordPayload r))
      ∧ exec (.popRecord s.management.address []) s = .next
          (State.answered { s with records := { s.records with queue := rest } } .ok (recordPayload r)) := by
  rw [exec_peekRecord, exec_popRecord, State.peekRecord, State.popRecord, State.onBus_records, hq]
  exact ⟨rfl, rfl⟩

theorem exec_ackAlert (s : State) (flags : Byte) : exec (.ackAlert s.management.address [flags]) s = .next
    (State.answered
      { s with
        records := { s.records with
          droppedFlag := if flags.getLsbD 1 = true then false else s.records.droppedFlag } } .ok []) := by
  have kept : (s.records.droppedFlag && !flags.getLsbD 1)
      = if flags.getLsbD 1 = true then false else s.records.droppedFlag := by
    cases flags.getLsbD 1 <;> simp
  rw [← kept]
  exact congrArg Host.Outcome.next (s.takeCommand_own [flags] _)

/-- Settles O53: the intake has room or has none, the queue has a head or is empty, and the payload is read byte by byte. -/
theorem recordCommands : Obligations.RecordCommands := by
  refine ⟨fun u body => ?_, fun s => ⟨exec_records_empty, fun r rest hq => ?_, exec_ackAlert s⟩⟩
  · by_cases room : u.queue.length < 16
    · rw [RecordUnit.take_room body room]
      exact ⟨rfl, fun _ => ⟨rfl, rfl, rfl⟩, fun full => absurd room (by omega)⟩
    · rw [RecordUnit.take_full body (by omega)]
      exact ⟨rfl, fun small => absurd small room, fun _ => ⟨rfl, rfl, rfl⟩⟩
  · obtain ⟨peek, pop⟩ := exec_records_head hq
    refine ⟨_, peek, pop, ?_⟩
    obtain ⟨kind, n0, n1, n2, place⟩ := placeBytes r.body.location
    rw [recordPayload_eq, place]
    refine ⟨rfl, leValue_two (by omega), fun k code listed same => ?_, fun source code listed same => ?_, rfl,
      fun absent => ?_, fun b present fits => ?_, fun i present fits => ?_, rfl, rfl, fun absent => ?_,
      fun detail code listed present => ?_⟩
    · exact congrArg some (same ▸ RecordKind.code_of_listed listed)
    · exact congrArg some (same ▸ RecordSource.code_of_listed listed)
    · rw [absent] at place
      exact place.symm
    · rw [present] at place
      cases place
      exact ⟨rfl, leValue_three fits⟩
    · rw [present] at place
      cases place
      exact ⟨rfl, leValue_three fits⟩
    · rw [absent]
      rfl
    · rw [present]
      exact congrArg some (RecordDetail.code_of_listed listed)

end Sys2Proof.Machine
